-- ==== Sys2Proof/Word.lean ====
section
/-! DEFINITION. The word types of the GX3: bytes, 32-bit lanes, 64-bit addresses. -/

set_option Elab.async false

namespace Sys2Proof

/-- A byte of memory (R18: multi-byte data is little-endian). -/
abbrev Byte := BitVec 8

/-- One 32-bit lane, a scalar item or a 32-bit register word (R53). -/
abbrev Lane := BitVec 32

/-- A 64-bit value: an address, a digest, a counter. -/
abbrev Dword := BitVec 64

/-- An event code: bits [15:12] name the block, bits [11:0] the cause (R30). -/
abbrev Code := BitVec 16

end Sys2Proof
end

