-- ==== Sys2Proof/Syntax.lean ====
section
/-! DEFINITION. The commands of the GX3: one constructor of `Instr` for each row of spec/opcode_table.json.
A register write carries its originator and the 32-bit word written (R491); an event carries what the
surroundings supply: the data read from host memory, a reading, the outcome of a self-test. `bad` names the pages of host memory, of
4 KiB, at which writes of the request engine end with an error from then on (log entry 100). -/

namespace Sys2Proof

/-- The originator of a register access or operation (R491, Table 120). -/
inductive Orig where
  | internal
  | mc
  | pf
  | vf (v : Fin 32)
  | tap
  deriving DecidableEq, Repr

/-- The originator's code (Table 120). -/
def Orig.code : Orig → Byte
  | .internal => 0x00
  | .mc => 0x01
  | .pf => 0x02
  | .vf v => 0x10 + BitVec.ofNat 8 v
  | .tap => 0x30

/-- The path a management message came by (R501, R517). -/
inductive MsgPath where
  | pcie
  | i3c
  | chord
  deriving DecidableEq, Repr

/-- The reference clock inputs (R542, Table 135). -/
inductive RefClk where
  | mgt
  | chd
  | fn
  | fs
  | host
  deriving DecidableEq, Repr

/-- What the sensors deliver at an epoch boundary (R433, R460, R228, R510, R521). Short lists leave the
remaining readings as they were. -/
structure EpochReadings where
  /-- CHD_LASER readings, signed 0.01 dBm, index 8c + w. -/
  laser : List (BitVec 16)
  /-- CHD_OPT readings (receive, transmit) by global lane. -/
  optics : List (BitVec 16 × BitVec 16)
  /-- Optical return loss of each chord in 0.1 dB. -/
  orl : List (BitVec 16)
  /-- Device-reported error counts of each stack device (R228). -/
  stkErr : List (BitVec 32)
  /-- Energy measured in the epoch for each facet with its base die and stack devices, in µJ. -/
  facetUj : List (BitVec 32)
  /-- Energy measured in the epoch for rims, optics, ports and management, in µJ. -/
  rimUj : BitVec 32
  deriving DecidableEq, Repr

/-- What a start-up step finds (R535): elements that fail their test, and the memory behind the ports. -/
structure StartupReport where
  badQuads : List (Fin 32)
  badSeams : List (Fin 14)
  badStacks : List (Fin 12)
  rimNFail : Bool
  /-- Frames behind each far port, 0 where no device answered (R230). -/
  farFrames : List (BitVec 21)
  /-- Spare rows left in each base die (R478). -/
  spareRows : List (BitVec 16)
  deriving DecidableEq, Repr

/-- What the placement of a batch finds: the prompts that it reads, by request, none where the host answers with an error, and how the
attempts at gathered shards end, in order: none timed out, else an error code, 0 for an end as memory stands, as those left out do. -/
structure BatchReads where
  prompts : List (BitVec 32 × Option (List Lane))
  gather : List (Option Code)
  deriving DecidableEq, Repr

/-- The commands and events of the block. -/
inductive Instr where
  /-- REGISTER_WRITE (R24). A write to a register that has no row of its own updates its fields by their access types. -/
  | registerWrite (off : BitVec 25) (orig : Orig) (val : Lane) (also : Option (Orig × Lane))
  /-- WIDE_LOW_READ (R553). A read of the low word of a live 64-bit register latches the high word for the same originator. -/
  | wideLowRead (off : BitVec 25) (orig : Orig)
  /-- MGT_GEOM_WRITE (R333). A write to MGT_GEOM applies a valid geom and then the lock, or is dropped whole with MGT:0x0A0. -/
  | mgtGeomWrite (orig : Orig) (val : Lane)
  /-- SNAP (R89). A snap write requests a snapshot of the quadrant's lattice counters, merged with any pending request. -/
  | snap (q : Fin 32) (orig : Orig) (val : Lane)
  /-- SNAPSHOT_LATCH (R89). The requested snapshot is latched, snap_seq is incremented, and the counters are zeroed when clear was set. -/
  | snapshotLatch (q : Fin 32)
  /-- SEQ_NFLAG_WRITE (R125). A write to SEQ_NFLAG clears flags and sets stop bits, and raises the stop again when a stop bit is enabled for a flag that is already set. -/
  | seqNflagWrite (q : Fin 32) (n : Fin 8) (orig : Orig) (val : Lane)
  /-- FN_INSTALL (R144). A go write to SEQ_FN_CTL starts an install of a slot image, or refuses it when the quadrant is not idle. -/
  | fnInstall (q : Fin 32) (orig : Orig) (val : Lane)
  /-- FN_INSTALL_COMPLETE (R144). The install has read and checked the image, and either writes the slot to every prism mirror or refuses it with SEQ:0x0F0 or SEQ:0x0F3. -/
  | fnInstallComplete (q : Fin 32)
  /-- WHEEL_DECISION (R415). At a switch point the sequencer scans the wheel and gives the quadrant to a ready slot, holds it on a gate, or leaves it idle. -/
  | wheelDecision (q : Fin 32)
  /-- RUN (R162). A RUN step applies its route, micro-operations, address-generator and scalar programs for dur fc and may start a descriptor. -/
  | run (q : Fin 32)
  /-- LOOP (R163). A LOOP step runs for dur fc and then decrements its loop counter and jumps to target while the count is positive. -/
  | loop (q : Fin 32)
  /-- END (R165). An END step ends the command after dur fc and posts its completion. -/
  | endStep (q : Fin 32)
  /-- GATE_WEIGHT (R313). A GATE WEIGHT step waits until the named layer of the window is committed and pinned. -/
  | gateWeight (q : Fin 32)
  /-- GATE_STREAM (R273). A GATE STREAM step waits until every descriptor with its tag that the command started is complete. -/
  | gateStream (q : Fin 32)
  /-- GATE_EDGE (R557). A GATE EDGE step waits for items in an edge queue and then feeds exactly that number of items into the lattice. -/
  | gateEdge (q : Fin 32)
  /-- GATE_REQ (R380). A GATE REQ step waits until the next batch of its group is placed and its patches are staged. -/
  | gateReq (q : Fin 32)
  /-- GATE_HOST (R180). A GATE HOST step waits until its mailbox is nonzero and then clears it. -/
  | gateHost (q : Fin 32)
  /-- RECV (R172). A RECV step waits until arrivals on its channel exceed receipts and then counts one receipt. -/
  | recv (q : Fin 32)
  /-- BARRIER (R169). A BARRIER step holds while its model binding is being replaced and binds the command to the version in force. -/
  | barrier (q : Fin 32)
  /-- SSW (R215). An SSW step waits for the shadow to hold the named section, commits it and continues at the entry step of the new table. -/
  | ssw (q : Fin 32)
  /-- SEND (R166). A SEND step starts a descriptor with a channel towards a quadrant of this package or of a peer. -/
  | send (q : Fin 32)
  /-- WADV (R167). A WADV step advances a layer window by a number of layers. -/
  | wadv (q : Fin 32)
  /-- DMARK (R168). A DMARK step closes the digest accumulator, posts a digest entry and opens a new accumulator. -/
  | dmark (q : Fin 32)
  /-- SHRD (R164). An SHRD step reads a shape word from a sector or the base tier into a shape register, checking its bounds and ownership. -/
  | shrd (q : Fin 32)
  /-- GATE_HOLD_END (R173). A held gate whose condition becomes true runs its step from two fc later, and the hold is counted. -/
  | gateHoldEnd (q : Fin 32) (fc : BitVec 32)
  /-- GATE_TIMEOUT (R174). A gate hold that exceeds its timeout class ends the command with SEQ:0x060. -/
  | gateTimeout (q : Fin 32) (fc : BitVec 32)
  /-- ARRAY_FIRING (R187). An ARRAY micro-operation runs a tile of array steps, closes blocks and reads the bank out through its readout VEC. -/
  | arrayFiring (q : Fin 32) (site : BitVec 8) (uop : BitVec 9) (j : BitVec 16)
  /-- VEC_FIRING (R188). A VEC micro-operation sends words through the six vector stages configured by its VCFG. -/
  | vecFiring (q : Fin 32) (site : BitVec 8) (uop : BitVec 9)
  /-- FN_FIRING (R189). An FN micro-operation runs a function-store slot over its words in four passes, with any fused forms. -/
  | fnFiring (q : Fin 32) (site : BitVec 8) (uop : BitVec 9)
  /-- ROWMAX (R148). A STAT firing computes the row maximum in the fixed fold order. -/
  | rowmax (q : Fin 32) (site : BitVec 8) (uop : BitVec 9)
  /-- ROWMIN (R148). A STAT firing computes the row minimum in the fixed fold order. -/
  | rowmin (q : Fin 32) (site : BitVec 8) (uop : BitVec 9)
  /-- ROWSUM (R148). A STAT firing computes the row sum in the fixed fold order. -/
  | rowsum (q : Fin 32) (site : BitVec 8) (uop : BitVec 9)
  /-- ROWSS (R148). A STAT firing computes the sum of squared deviations about m in the fixed fold order. -/
  | rowss (q : Fin 32) (site : BitVec 8) (uop : BitVec 9)
  /-- SAL_HALT (R193). The scalar program ends. -/
  | salHalt (q : Fin 32) (site : BitVec 8)
  /-- SAL_WAIT (R193). The scalar ALU idles for imm fc. -/
  | salWait (q : Fin 32) (site : BitVec 8) (imm : BitVec 14)
  /-- SAL_ADD (R193). The scalar ALU adds two registers, wrapping. -/
  | salAdd (q : Fin 32) (site : BitVec 8) (rd ra rb : Fin 16)
  /-- SAL_SUB (R193). The scalar ALU subtracts two registers. -/
  | salSub (q : Fin 32) (site : BitVec 8) (rd ra rb : Fin 16)
  /-- SAL_AND (R193). The scalar ALU computes bitwise AND. -/
  | salAnd (q : Fin 32) (site : BitVec 8) (rd ra rb : Fin 16)
  /-- SAL_OR (R193). The scalar ALU computes bitwise OR. -/
  | salOr (q : Fin 32) (site : BitVec 8) (rd ra rb : Fin 16)
  /-- SAL_XOR (R193). The scalar ALU computes bitwise XOR. -/
  | salXor (q : Fin 32) (site : BitVec 8) (rd ra rb : Fin 16)
  /-- SAL_SHL (R193). The scalar ALU shifts left by an immediate. -/
  | salShl (q : Fin 32) (site : BitVec 8) (rd ra : Fin 16) (imm : BitVec 14)
  /-- SAL_SHR (R193). The scalar ALU shifts right logically by an immediate. -/
  | salShr (q : Fin 32) (site : BitVec 8) (rd ra : Fin 16) (imm : BitVec 14)
  /-- SAL_SRA (R193). The scalar ALU shifts right arithmetically by an immediate. -/
  | salSra (q : Fin 32) (site : BitVec 8) (rd ra : Fin 16) (imm : BitVec 14)
  /-- ADDI (R193). The scalar ALU adds a sign-extended immediate. -/
  | addi (q : Fin 32) (site : BitVec 8) (rd ra : Fin 16) (imm : BitVec 14)
  /-- LUI (R193). The scalar ALU loads an immediate into the upper bits. -/
  | lui (q : Fin 32) (site : BitVec 8) (rd : Fin 16) (imm : BitVec 14)
  /-- RDS (R193). The scalar ALU reads the scalar network input, skipping a null item. -/
  | rds (q : Fin 32) (site : BitVec 8) (rd : Fin 16)
  /-- WRS (R81). The scalar ALU writes a register to the sector's scalar output for one fc. -/
  | wrs (q : Fin 32) (site : BitVec 8) (ra : Fin 16)
  /-- WRT (R81). The scalar ALU writes a token to the sector's control output for one fc. -/
  | wrt (q : Fin 32) (site : BitVec 8) (ra : Fin 16)
  /-- LD (R81). The scalar ALU loads one lane of an SRAM word through P1. -/
  | ld (q : Fin 32) (site : BitVec 8) (rd ra rb : Fin 16)
  /-- ST (R81). The scalar ALU stores one lane of an SRAM word through P1. -/
  | st (q : Fin 32) (site : BitVec 8) (rd ra rb : Fin 16)
  /-- SETB (R81). The scalar ALU writes an address generator's base register, in force 2 fc later. -/
  | setb (q : Fin 32) (site : BitVec 8) (ra : Fin 16) (imm : BitVec 14)
  /-- REP (R193). The scalar ALU repeats a range of instructions a given number of times. -/
  | rep (q : Fin 32) (site : BitVec 8) (imm : BitVec 14)
  /-- SECTION_LOAD (R204). A load write starts reading a section image into the shadow, or is refused. -/
  | sectionLoad (q : Fin 32) (orig : Orig) (val : Lane)
  /-- SECTION_LOAD_COMPLETE (R205). A load has read the image and sets the shadow to loaded or refused after the checks of Table 55. -/
  | sectionLoadComplete (q : Fin 32)
  /-- HOST_COMMIT (R212). A commit write commits the shadow when the quadrant is idle and the commit checks pass. -/
  | hostCommit (q : Fin 32) (orig : Orig) (val : Lane)
  /-- SECTION_DISCARD (R210). A discard write empties the shadow and abandons a load in progress. -/
  | sectionDiscard (q : Fin 32) (orig : Orig) (val : Lane)
  /-- MAP (R244). MAP takes free frames, zeroes them and maps the pages. -/
  | mapPages (orig : Orig) (val : Lane)
  /-- MAP_ZERO_COMPLETE (R245). A frame's zeroing ends and its page is mapped. -/
  | mapZeroComplete (page : BitVec 24)
  /-- UNMAP (R244). UNMAP invalidates the pages and frees their frames after the drain. -/
  | unmapPages (orig : Orig) (val : Lane)
  /-- HINT (R244). HINT sets the placement hint and preferred unit of the pages. -/
  | hintPages (orig : Orig) (val : Lane)
  /-- PROTECT (R244). PROTECT sets the read-only bit of the pages. -/
  | protectPages (orig : Orig) (val : Lane)
  /-- MIGRATE (R244). MIGRATE migrates the pages to the target unit. -/
  | migratePages (orig : Orig) (val : Lane)
  /-- QUERY (R244). QUERY copies a page-table entry to STR_MAP_PTE. -/
  | queryPage (orig : Orig) (val : Lane)
  /-- PAGE_TABLE_DRAIN_COMPLETE (R238). Every access translated under an old entry has completed, so the change is complete and removed frames are freed. -/
  | pageTableDrainComplete (page : BitVec 24)
  /-- AUTO_MIGRATION_START (R249). The rim N engine starts a migration on its own under the placement hints. -/
  | autoMigrationStart
  /-- MIGRATION_COPY_END (R247). A migration's copy ends and the page switches to its destination. -/
  | migrationCopyEnd (page : BitVec 24)
  /-- MIGRATION_ABANDON (R248). A migration not switched 50 µs after its first held write is abandoned and the held writes go to the source. -/
  | migrationAbandon (page : BitVec 24)
  /-- FAR_ACCESS_TIMEOUT (R255). A far access not answered within 20 µs ends its command with FAR:0x011. -/
  | farAccessTimeout (q : Fin 32) (id : BitVec 16)
  /-- FAR_LINK_DOWN (R255). A far port's link goes down, the port is reported failed and FAR:0x012 is logged. -/
  | farLinkDown (port : Fin 8)
  /-- DCD_EXTENT_ADD (R231). A dynamic capacity extent added by the device becomes free frames of the port. -/
  | dcdExtentAdd (port : Fin 8) (first count : BitVec 20)
  /-- DCD_RELEASE_REQUEST (R231). A device request to release an extent is granted only when none of its frames is mapped. -/
  | dcdReleaseRequest (port : Fin 8) (first count : BitVec 20)
  /-- DCD_EXTENT_WITHDRAW (R231). A device withdraws a mapped extent, and later accesses to it fail with FAR:0x013. -/
  | dcdExtentWithdraw (port : Fin 8) (first count : BitVec 20)
  /-- DESCRIPTOR_COMPLETE (R273). A descriptor's last element is committed at its destination and its slot is released. -/
  | descriptorComplete (q : Fin 32) (id : BitVec 16)
  /-- HQ_DOORBELL (R288). A write to STR_HQ_TAIL submits host queue entries for the engine to read and run. -/
  | hqDoorbell (p : Fin 16) (orig : Orig) (val : Lane) (entries : List (BitVec 1024))
  /-- HQ_ENABLE (R284). Writing en to 1 zeroes the queue indices and starts the queue, held until a prior disable has finished. -/
  | hqEnable (p : Fin 16) (orig : Orig) (val : Lane)
  /-- HQ_DISABLE (R284). Writing en to 0 stops reading entries and lets entries in progress run to their end. -/
  | hqDisable (p : Fin 16) (orig : Orig) (val : Lane)
  /-- HQ_CHEAD_WRITE (R288). A write to STR_HQ_CHEAD frees completion ring space so waiting records can be written. -/
  | hqCheadWrite (p : Fin 16) (orig : Orig) (val : Lane)
  /-- HQ_ENTRY_COMPLETE (R288). A host queue entry completes and its record is written in ring order, followed by the MSI-X message. -/
  | hqEntryComplete (p : Fin 16) (entry : BitVec 16) (hostData : List Byte) (hostErr : Bool)
  /-- HQ_ENTRY_SUSPEND (R290). A host-facing transfer meets a translation fault, writes its progress point and suspends the queue. -/
  | hqEntrySuspend (p : Fin 16) (entry : BitVec 16) (hostData : List Byte) (pos : BitVec 120) (side : Bool) (addr : Dword)
  /-- HQ_RESUME (R290). A resume write retranslates the suspended entry and continues from its progress point. -/
  | hqResume (p : Fin 16) (orig : Orig) (val : Lane)
  /-- HQ_ABORT (R291). An abort write ends the suspended entry with STR:0x039. -/
  | hqAbort (p : Fin 16) (orig : Orig) (val : Lane)
  /-- HQ_RING_ERROR (R291). A queue ring or completion ring access fails and the queue stops with STR:0x03C. -/
  | hqRingError (p : Fin 16)
  /-- BIND_LOAD (R310). LOAD checks the image and queues the binding's uncommitted layers for ingest. -/
  | bindLoad (b : Fin 256) (orig : Orig) (val : Lane)
  /-- BIND_REPLACE (R316). REPLACE checks the new image and starts the drain state of a replacement. -/
  | bindReplace (b : Fin 256) (orig : Orig) (val : Lane)
  /-- BIND_UNLOAD (R310). UNLOAD marks every layer uncommitted and empties the binding. -/
  | bindUnload (b : Fin 256) (orig : Orig) (val : Lane)
  /-- BIND_CANCEL (R310). CANCEL unqueues layers, ends a drain, or starts rollback of a write. -/
  | bindCancel (b : Fin 256) (orig : Orig) (val : Lane)
  /-- SHARD_ATTEMPT_START (R303). An ingest unit starts reading a shard from its primary or replica in its service order. -/
  | shardAttemptStart (u : Fin 2)
  /-- SHARD_ATTEMPT_END (R303). A shard attempt's bytes have arrived and its digest is checked. -/
  | shardAttemptEnd (b : Fin 256) (layer : BitVec 12) (shard : BitVec 24) (code : Code)
  /-- SHARD_ATTEMPT_TIMEOUT (R303). An attempt whose last byte has not arrived within shard_tmo_us fails with ING:0x021. -/
  | shardAttemptTimeout (b : Fin 256) (layer : BitVec 12) (shard : BitVec 24)
  /-- SHARD_DEPOSIT_COMPLETE (R302). A decoded shard's deposit at its destination completes. -/
  | shardDepositComplete (b : Fin 256) (layer : BitVec 12) (shard : BitVec 24)
  /-- LAYER_COMMIT (R305). Every shard of a layer has deposited and the layer commits at its destination. -/
  | layerCommit (b : Fin 256) (layer : BitVec 12)
  /-- DST1_COPY_COMPLETE (R309). The copy of a committed layer to dst1 ends and the layer commits there. -/
  | dst1CopyComplete (b : Fin 256) (layer : BitVec 12)
  /-- BIND_DRAIN_COMPLETE (R316). No request or command bound to the old version remains, and the binding enters the write state. -/
  | bindDrainComplete (b : Fin 256)
  /-- DIGEST_ENTRY_WRITE (R342). The engine takes one entry from the digest post queue and writes it to the host ring, or drops it at a full ring. -/
  | digestEntryWrite (q : Fin 32) (hostErr : Bool)
  /-- DIG_RING_ENABLE (R341). Writing en to 1 in SEQ_DIG_CFG zeroes the digest ring indices and the dropped count. -/
  | digRingEnable (q : Fin 32) (orig : Orig) (val : Lane)
  /-- REQUEST_DOORBELL (R374). A write to REQ_SQ_TAIL submits request descriptors for admission. -/
  | requestDoorbell (p : Fin 16) (orig : Orig) (val : Lane)
  /-- REQUEST_ADMIT (R374). The engine reads one request descriptor, checks it and takes an entry or writes a refusal record. -/
  | requestAdmit (p : Fin 16) (desc : BitVec 1024) (stop : Option (BitVec 2048)) (prompt : Option (List Lane))
  /-- REQ_QUEUE_ENABLE (R371). Writing en to 1 zeroes the request queue indices and starts it. -/
  | reqQueueEnable (p : Fin 16) (orig : Orig) (val : Lane) (bad : List Nat)
  /-- REQ_QUEUE_DISABLE (R371). Writing en to 0 stops admission while live requests continue. -/
  | reqQueueDisable (p : Fin 16) (orig : Orig) (val : Lane)
  /-- REQ_CQ_HEAD_WRITE (R402). A write to REQ_CQ_HEAD frees completion ring space so waiting records are written. -/
  | reqCqHeadWrite (p : Fin 16) (orig : Orig) (val : Lane) (bad : List Nat)
  /-- SERVICE_INSTALL (R377). Install reads and checks a service descriptor and installs the service. -/
  | serviceInstall (sv : Fin 64) (orig : Orig) (val : Lane)
  /-- SERVICE_REMOVE (R377). Remove uninstalls a service not named by any entry. -/
  | serviceRemove (sv : Fin 64) (orig : Orig) (val : Lane)
  /-- BATCH_PLACE (R380). The engine forms a batch, gathers its rows, computes patches and places it in the group's buffer. -/
  | batchPlace (g : Fin 256) (reads : BatchReads)
  /-- PREFILL_WAIT_EXPIRE (R382). A prefill batch's oldest row has waited prefill_wait_us and the batch is placed. -/
  | prefillWaitExpire (g : Fin 256) (reads : BatchReads)
  /-- EMIT (R394). The emit descriptor of a batch completes and the engine processes its emit records. -/
  | emit (g : Fin 256) (ringErr : List (BitVec 32)) (bad : List Nat)
  /-- DEADLINE_SCAN (R399). The deadline monitor examines every live request, sets miss flags and applies policy and fallback. -/
  | deadlineScan (bad : List Nat)
  /-- REQ_QUARANTINE_EXPIRE (R368). A quarantined request entry becomes free with its generation incremented after 100 µs. -/
  | reqQuarantineExpire (idx : BitVec 16)
  /-- TOKEN_VECTOR_INTERVAL (R397). At the end of a 10 µs interval the partition's token vector announces tail updates made within it. -/
  | tokenVectorInterval (p : Fin 16)
  /-- REQUEST_CANCEL (R401). REQ_CMD op 1 cancels a request with REQ:0x0C0. -/
  | requestCancel (orig : Orig) (val : Lane) (bad : List Nat)
  /-- RING_HEAD (R401). REQ_CMD op 2 returns ring entries by setting the output ring head. -/
  | ringHead (orig : Orig) (val : Lane)
  /-- PEEK (R401). REQ_CMD op 3 copies a request entry into REQ_PEEK. -/
  | peek (orig : Orig) (val : Lane)
  /-- RELEASE_HANDLE (R401). REQ_CMD op 4 releases a prefix handle. -/
  | releaseHandle (orig : Orig) (val : Lane)
  /-- GROUP_RESET (R381). A reset write zeroes a group's counters and sets a broken group active. -/
  | groupReset (g : Fin 256) (orig : Orig) (val : Lane)
  /-- POOL_ENABLE (R386). Enabling a KV pool fills its zero page with zeros. -/
  | poolEnable (k : Fin 32) (orig : Orig) (val : Lane)
  /-- PREFIX_ENABLE_WRITE (R392). Writing en of REQ_PFX_CFG enables prefix reuse, or on 0 releases every node and handle. -/
  | prefixEnableWrite (orig : Orig) (val : Lane)
  /-- CTX_CFG_WRITE (R406). A write to MGT_CTX_CFG enables or disables a context, zeroing its counters on enable. -/
  | ctxCfgWrite (c : Fin 64) (orig : Orig) (val : Lane)
  /-- SLOT_BIND (R407). A write to SEQ_SLOT_CTX binds or unbinds a slot, or is dropped with SEQ:0x0A1. -/
  | slotBind (q : Fin 32) (n : Fin 8) (orig : Orig) (val : Lane)
  /-- CQ_PUSH (R409). A write of SEQ_CQ_PUSH's high word pushes a command queue entry, or drops it with SEQ:0x0A0. -/
  | cqPush (q : Fin 32) (n : Fin 8) (orig : Orig) (val : Lane)
  /-- WHEEL_WRITE (R414). A write to SEQ_WHEEL takes effect at the next switch point and logs SEQ:0x0A6 when no position is enabled. -/
  | wheelWrite (q : Fin 32) (w : Fin 2) (orig : Orig) (val : Lane)
  /-- SAVE (R421). SAVE is accepted or refused, and then waits for a switch point to save the occupant. -/
  | saveOcc (q : Fin 32) (orig : Orig) (val : Lane)
  /-- RESTORE (R421). RESTORE reloads a saved occupant from a held area into an empty quadrant. -/
  | restoreOcc (q : Fin 32) (orig : Orig) (val : Lane)
  /-- SWAP (R421). SWAP saves the occupant and then restores another from a held area. -/
  | swapOcc (q : Fin 32) (orig : Orig) (val : Lane)
  /-- FREE (R421). FREE releases a held save area. -/
  | freeArea (q : Fin 32) (orig : Orig) (val : Lane)
  /-- PRE_SWITCH_POINT (R422). At the first switch point after acceptance the quadrant stops and the occupant's descriptors are suspended. -/
  | preSwitchPoint (q : Fin 32)
  /-- PRE_SAVE_COMPLETE (R422). The save set has been written and the section leaves the quadrant with its pins. -/
  | preSaveComplete (q : Fin 32) (code : Code)
  /-- PRE_RELOAD_COMPLETE (R422). The occupant's image has been read again, checked and committed. -/
  | preReloadComplete (q : Fin 32)
  /-- PRE_RESTORE_COMPLETE (R422). The save set has been written back and the occupant resumes. -/
  | preRestoreComplete (q : Fin 32) (code : Code)
  /-- ACCT_SNAP (R427). A snap write requests a snapshot of every context counter at the next epoch boundary. -/
  | acctSnap (orig : Orig) (val : Lane)
  /-- CHORD_CFG_EN_WRITE (R441). Writing en of CHD_CFG enables chord training, or takes every chord dark. -/
  | chordCfgEnWrite (orig : Orig) (val : Lane)
  /-- CHORD_LINK_EN_WRITE (R442). Writing en of CHD_LINK_CTL enables a chord, or removes it from the masks and darkens it. -/
  | chordLinkEnWrite (k : Fin 64) (orig : Orig) (val : Lane)
  /-- RETRAIN (R442). A retrain write takes a chord to state 0 under remap. -/
  | retrain (k : Fin 64) (orig : Orig) (val : Lane)
  /-- CHORD_TEST_SELECT (R442). Writing test selects traffic, pattern test or reflectometry for a chord. -/
  | chordTestSelect (k : Fin 64) (orig : Orig) (val : Lane)
  /-- CHORD_TRAIN_ADVANCE (R439). A chord meets the condition to leave its training state and advances. -/
  | chordTrainAdvance (k : Fin 64) (lanes : Byte)
  /-- CAPABILITY_FLIT (R440). A capability flit is received and the chord's protocol version is agreed. -/
  | capabilityFlit (k : Fin 64) (vlo vhi : Byte) (pkg : BitVec 12) (gen : Byte) (port : BitVec 6)
  /-- CHORD_TRAIN_BOUND_EXPIRE (R439). A training state exceeds its bound and the chord returns to state 0 or fails. -/
  | chordTrainBoundExpire (k : Fin 64)
  /-- CHORD_FAILED_RETRAIN (R439). A failed chord retrains after 1 s. -/
  | chordFailedRetrain (k : Fin 64)
  /-- CHORD_LIGHT_LOSS (R439). A receive lane falls below −12.0 dBm for 200 ns and the chord returns to state 0. -/
  | chordLightLoss (k : Fin 64) (lane : Fin 8)
  /-- CODEWORD_RECEIVE (R434). A received codeword is decoded, and its control flit and packet flits are delivered. -/
  | codewordReceive (k : Fin 64) (word : Option (BitVec 20 × List (BitVec 512))) (corrected : BitVec 10)
  /-- WRITE_PACKET (R447). A received WRITE packet is accepted into the receive buffer or answered with a NACK. -/
  | writePacket (k : Fin 64) (hdr : BitVec 512) (data : List (BitVec 2048))
  /-- ACK_PACKET (R446). A received ACK completes a transaction and frees its tag slot. -/
  | ackPacket (k : Fin 64) (hdr : BitVec 512)
  /-- NACK_PACKET (R447). A received NACK waits on busy or ends the sending command with its cause's code. -/
  | nackPacket (k : Fin 64) (hdr : BitVec 512)
  /-- PROBE_PACKET (R454). A received PROBE returns credits and refreshes the peer's liveness. -/
  | probePacket (k : Fin 64) (hdr : BitVec 512)
  /-- MGMT_PACKET (R501). A received MGMT packet carries an SPDM message over the chords. -/
  | mgmtPacket (k : Fin 64) (hdr : BitVec 512) (data : List (BitVec 2048))
  /-- PORT_DOWN (R449). A PORT_DOWN notice clears the chord from the peer's effective mask. -/
  | portDown (k : Fin 64) (hdr : BitVec 512)
  /-- PORT_UP (R449). A PORT_UP notice returns the chord to the peer's effective mask. -/
  | portUp (k : Fin 64) (hdr : BitVec 512)
  /-- TRANSACTION_ACK_TIMEOUT (R446). A transaction without an ACK after 20 µs is resent, or after three sends ends with CHD:0x050. -/
  | transactionAckTimeout (slot : BitVec 20)
  /-- BUSY_RESEND (R447). A transaction refused as busy is sent again every 5 µs. -/
  | busyResend (slot : BitVec 20)
  /-- TAG_SLOT_HOLD_EXPIRE (R445). A freed tag slot's 100 µs hold ends and waiting transactions can use it. -/
  | tagSlotHoldExpire (slot : BitVec 20)
  /-- KEPT_TAG_EXPIRE (R446). An acknowledged tag kept for 100 µs is forgotten. -/
  | keptTagExpire (pkg : BitVec 12) (tag : BitVec 28)
  /-- PROBE_SEND (R454). Every 2 µs each rim sends a PROBE to every admitted peer. -/
  | probeSend (rim : Fin 2)
  /-- PEER_SILENCE_TIMEOUT (R454). A peer from which no packet has arrived for 20 µs is lost. -/
  | peerSilenceTimeout (pkg : BitVec 12)
  /-- PEER_QUARANTINE_EXPIRE (R455). A peer's 100 ms quarantine ends and the identifier becomes absent. -/
  | peerQuarantineExpire (pkg : BitVec 12)
  /-- PEER_ADMIT (R453). ADMIT admits an attested, non-quarantined peer with a generation. -/
  | peerAdmit (orig : Orig) (val : Lane)
  /-- PEER_EVICT (R453). EVICT quarantines an admitted peer. -/
  | peerEvict (orig : Orig) (val : Lane)
  /-- PRBS_CHECK_ENABLE (R459). Writing chk_en to 1 zeroes the lane's pattern checker counters and starts checking. -/
  | prbsCheckEnable (lane : Fin 512) (orig : Orig) (val : Lane)
  /-- REFLECTOMETRY_DONE (R460). A reflectometry measurement locates the strongest reflection and writes dist. -/
  | reflectometryDone (k : Fin 64) (dist : BitVec 12)
  /-- FENCE (R470). FENCE, or a quadrant fault, fences the quadrant, ending its and its partner's work with ECU:0x010. -/
  | fence (orig : Orig) (val : Lane)
  /-- READMIT (R471). READMIT starts a self-test of a fenced quadrant. -/
  | readmit (orig : Orig) (val : Lane)
  /-- READMIT_SELFTEST_COMPLETE (R471). The self-test ends and the quadrant is reset and readmitted, or stays fenced with ECU:0x012. -/
  | readmitSelftestComplete (q : Fin 32) (pass : Bool)
  /-- SEAM_FAULT (R473). A seam fault retires the seam and ends the work whose routes cross it with ECU:0x020. -/
  | seamFault (seam : Fin 14)
  /-- STACK_CHANNEL_FAULT (R474). A stack channel trigger retires the channel and ends the work that touches it with ECU:0x021. -/
  | stackChannelFault (dev : Fin 12) (ch : Fin 32)
  /-- STACK_DEVICE_FAULT (R474). A stack device trigger retires the device and fails every access with ECU:0x022. -/
  | stackDeviceFault (dev : Fin 12)
  /-- QUADRANT_FAULT (R469). A parity error in sequencer or vertex state fences the quadrant. -/
  | quadrantFault (q : Fin 32)
  /-- FACET_FAULT (R469). A facet PLL or base-die control fault fences its quadrants and retires the facet with ECU:0x018. -/
  | facetFault (f : Fin 8)
  /-- RIM_S_FAULT (R469). Loss of rim S remaps chords 32–63 and fails far ports 4–7 and ingest unit 1. -/
  | rimSFault
  /-- PACKAGE_FAULT (R477). A class P fault halts the package, ends every command and request and darkens the chords. -/
  | packageFault (cause : Code)
  /-- SECTOR_ROW_REPAIR (R472). At the quadrant's next idle interval a sector row is copied to a spare row, or the quadrant is fenced. -/
  | sectorRowRepair (q : Fin 32) (site : BitVec 8) (row : BitVec 6)
  /-- BASE_ROW_REPAIR (R472). A base-die row is copied to a spare row while work continues, and switches in one fc. -/
  | baseRowRepair (f : Fin 8) (frame : BitVec 12) (row : BitVec 8)
  /-- LOG_COMMIT_B (R482). 2 ms after a copy A boundary, copy B appends new entries and a commit record. -/
  | logCommitB
  /-- LOG_COMMIT_COMPLETE (R482). A log commit ends, or fails with ECU:0x0E0 leaving the copy as before. -/
  | logCommitComplete (copyB : Bool) (ok : Bool)
  /-- CUT (R487). CUT is accepted or refused, and forces the cut gate's condition false. -/
  | cut (orig : Orig) (val : Lane)
  /-- CUT_RESTORE (R489). RESTORE writes each cut part back into its quadrant, held at the cut gate. -/
  | cutRestore (orig : Orig) (val : Lane)
  /-- CUT_ABANDON (R490). ABANDON fails the cut with ECU:0x041. -/
  | cutAbandon (orig : Orig) (val : Lane)
  /-- CUT_ALL_AT_GATE (R488). Every quadrant of the set is at the cut gate and quiescing begins. -/
  | cutAllAtGate
  /-- CUT_QUIESCED (R488). Every descriptor of the set has completed and writing of the save sets begins. -/
  | cutQuiesced
  /-- CUT_WRITTEN (R488). The cut region is written, status becomes 1 and ECU:0x040 is logged. -/
  | cutWritten (err : Bool)
  /-- SEQ_MBOX_WRITE (R180). A host write to a mailbox sets its value, which a GATE HOST or a held cut consumes. -/
  | seqMboxWrite (q : Fin 32) (m : Fin 16) (orig : Orig) (val : Lane)
  /-- QUAD_OWNER_WRITE (R493). A write to SEC_QUAD_OWN changes the owner, scrubbing the quadrant where required, or is dropped with SEC:0x0B1. -/
  | quadOwnerWrite (q : Fin 32) (orig : Orig) (val : Lane)
  /-- SCRUB_COMPLETE (R494). The scrub of a quadrant ends and the new owner takes effect. -/
  | scrubComplete (q : Fin 32)
  /-- SVN_COMMIT (R498). A commit write programs rollback counter fuses until fused equals running. -/
  | svnCommit (orig : Orig) (val : Lane)
  /-- MEAS_EXTEND (R500). A go write extends a measurement register with SEC_EXT_DATA. -/
  | measExtend (orig : Orig) (val : Lane)
  /-- GET_VERSION (R501). The SPDM responder answers GET_VERSION with version 1.3. -/
  | getVersion (path : MsgPath)
  /-- GET_CAPABILITIES (R501). The SPDM responder answers GET_CAPABILITIES. -/
  | getCapabilities (path : MsgPath)
  /-- NEGOTIATE_ALGORITHMS (R501). The SPDM responder negotiates ECDSA P-384 and SHA-384. -/
  | negotiateAlgorithms (path : MsgPath) (asym hash : BitVec 32)
  /-- GET_DIGESTS (R501). The SPDM responder returns its certificate digests. -/
  | getDigests (path : MsgPath)
  /-- GET_CERTIFICATE (R501). The SPDM responder returns the manufacturing certificate chain. -/
  | getCertificate (path : MsgPath) (slot : Byte) (offset length : BitVec 16)
  /-- CHALLENGE (R501). The SPDM responder signs a challenge with the identity key. -/
  | challenge (path : MsgPath) (slot : Byte) (nonce : BitVec 256)
  /-- GET_MEASUREMENTS (R501). The SPDM responder returns signed measurements as they stand. -/
  | getMeasurements (path : MsgPath) (index : Byte) (nonce : BitVec 256)
  /-- PEER_ATTEST (R502). A go write starts attestation of a chord peer. -/
  | peerAttest (orig : Orig) (val : Lane)
  /-- PEER_ATTEST_COMPLETE (R502). A peer attestation ends with pass or fail. -/
  | peerAttestComplete (chainOk sigOk locked : Bool) (svn : Byte)
  /-- PEER_ATTEST_TIMEOUT (R502). A peer attestation not completed within 50 ms fails with SEC:0x0F0. -/
  | peerAttestTimeout
  /-- INSTALL_GCM_KEY (R504). Op 1 unwraps and installs a GCM key in a slot. -/
  | installGcmKey (orig : Orig) (val : Lane)
  /-- INSTALL_XTS_KEY (R504). Op 2 unwraps and installs an XTS key pair in a slot. -/
  | installXtsKey (orig : Orig) (val : Lane)
  /-- ERASE_SLOT (R504). Op 3 erases a key slot. -/
  | eraseSlot (orig : Orig) (val : Lane)
  /-- INSTALL_KEK (R504). Op 4 installs a partition KEK by ECDH and erases the partition's slots. -/
  | installKek (orig : Orig) (val : Lane)
  /-- FAR_CRYPT_WRITE (R506). A write to SEC_FAR_CRYPT sets far-tier encryption, or is dropped with SEC:0x0E1. -/
  | farCryptWrite (p : Fin 16) (orig : Orig) (val : Lane)
  /-- IDCODE (R509). The test access port returns the IDCODE. -/
  | idcode
  /-- BYPASS (R509). The test access port bypasses. -/
  | bypass
  /-- SAMPLE_PRELOAD (R509). The test access port samples or preloads the boundary-scan cells. -/
  | samplePreload (cells : List Bool)
  /-- EXTEST (R509). EXTEST drives lands from the boundary-scan cells while PERST_N is asserted, otherwise acts as BYPASS. -/
  | extest (cells : List Bool)
  /-- CLAMP (R509). CLAMP holds outputs while PERST_N is asserted, otherwise acts as BYPASS. -/
  | clamp
  /-- HIGHZ (R509). HIGHZ sets outputs to high impedance while PERST_N is asserted, otherwise acts as BYPASS. -/
  | highz
  /-- DEBUG_UNLOCK_TOKEN (R509). A presented unlock token sets debug pending or is refused with SEC:0x0D1. -/
  | debugUnlockToken (sig : BitVec 768) (nonce : BitVec 256)
  /-- EPOCH_BOUNDARY (R510). At each 1 ms boundary the controller latches telemetry, applies epoch-applied writes and sets clocks. -/
  | epochBoundary (r : EpochReadings)
  /-- PWR_SET_ABSOLUTE (R519). An absolute write replaces the pending power target. -/
  | pwrSetAbsolute (orig : Orig) (val : Lane)
  /-- PWR_SET_RELATIVE (R519). A relative write adds to the pending power target. -/
  | pwrSetRelative (orig : Orig) (val : Lane)
  /-- POWER_SAMPLE (R521). Package rail power is sampled every 10 µs. -/
  | powerSample (watts : BitVec 16)
  /-- DUTY_PERIOD (R520). A facet under duty runs d µs and stops 16 − d µs of every 16 µs. -/
  | dutyPeriod (f : Fin 8)
  /-- SHED_ASSERT (R522). SHED_N asserted for 2 ticks puts the package in the shed state. -/
  | shedAssert
  /-- SHED_RELEASE (R522). SHED_N is released and the shed state ends at the next boundary. -/
  | shedRelease
  /-- THROT_ASSERT (R523). THROT_N asserted limits every facet clock to throt_step within 2 µs. -/
  | throtAssert
  /-- THROT_RELEASE (R523). THROT_N is released and the limit is removed at the next boundary. -/
  | throtRelease
  /-- THERMAL_SAMPLE (R526). Every 100 µs die temperatures are read, starting the hot action or a trip where due. -/
  | thermalSample (temps : List (BitVec 16))
  /-- REGULATOR_FAULT (R540). PMB_ALERT_N with an over-current or over-voltage status trips the package. -/
  | regulatorFault (rail : Byte) (status : BitVec 16)
  /-- RAIL_OUT_OF_WINDOW (R540). A rail outside its window for more than 10 µs trips the package. -/
  | railOutOfWindow (rail : Byte)
  /-- FW_WRITE (R516). WRITE erases the inactive slot, copies and verifies the staged firmware image. -/
  | fwWrite (orig : Orig) (val : Lane)
  /-- FW_WRITE_COMPLETE (R516). The firmware WRITE ends with status 1, 3 or 4. -/
  | fwWriteComplete (flashOk : Bool)
  /-- ACTIVATE (R516). ACTIVATE names the new slot on trial and performs a management reset. -/
  | activate (orig : Orig) (val : Lane)
  /-- CONFIRM (R516). CONFIRM clears the trial flag in the selector. -/
  | confirm (orig : Orig) (val : Lane)
  /-- RESTART (R516). RESTART performs a management reset into the selected slot. -/
  | restart (orig : Orig) (val : Lane)
  /-- WATCHDOG_TIMEOUT (R532). Firmware silent for 100 ms causes a management reset. -/
  | watchdogTimeout
  /-- RECALIBRATE (R531). A go write recalibrates a named stack channel now, or is refused. -/
  | recalibrate (orig : Orig) (val : Lane)
  /-- RECAL_COMPLETE (R531). A channel recalibration ends, or fails and retires the channel. -/
  | recalComplete (dev : Fin 12) (ok : Bool)
  /-- PACKAGE_RESET (R533). MGT_RST op 1 performs a package reset. -/
  | packageReset (orig : Orig) (val : Lane)
  /-- QUADRANT_RESET (R533). MGT_RST op 2 resets a fenced or idle quadrant, or is refused with MGT:0x0C1. -/
  | quadrantReset (orig : Orig) (val : Lane)
  /-- POWER_ON (R534). PWRGD rising starts a power-on reset and start-up. -/
  | powerOn
  /-- POWER_LOSS (R484). Loss of power loses all volatile state, leaving only firmware slots, log and fuses. -/
  | powerLoss
  /-- PERST_ASSERT (R534). PERST_N assertion holds the host port in reset and restarts start-up as a package reset. -/
  | perstAssert
  /-- PERST_RELEASE (R534). PERST_N release lets the host link train. -/
  | perstRelease
  /-- HOST_LINK_RESET (R532). A host-port hot reset or link disable causes a package reset. -/
  | hostLinkReset
  /-- PF_FLR (R532). An FLR of the physical function causes a package reset with the link kept trained. -/
  | pfFlr
  /-- VF_FLR (R532). An FLR of a virtual function disables its partition's queues and ends its requests and contexts with MGT:0x0C0. -/
  | vfFlr (v : Fin 32)
  /-- STARTUP_STEP_COMPLETE (R534). A start-up step of Table 129 ends and the next begins, setting ready after step 6. -/
  | startupStepComplete (r : StartupReport)
  /-- REFCLK_LOSS (R543). Loss of a reference clock input halts the package, drops chords, far links or the host link. -/
  | refclkLoss (clk : RefClk)
  /-- MCTP_CONTROL (R517). An MCTP control message is answered. -/
  | mctpControl (path : MsgPath) (command : Byte)
  /-- MCTP_REGISTER_READ (R517). A vendor-defined MCTP message reads a BAR0 register. -/
  | mctpRegisterRead (path : MsgPath) (off : BitVec 25)
  /-- MCTP_REGISTER_WRITE (R517). A vendor-defined MCTP message writes a BAR0 register with originator 0x01. -/
  | mctpRegisterWrite (path : MsgPath) (off : BitVec 25) (val : Lane)
  /-- MCTP_LOG_READ (R517). A vendor-defined MCTP message reads the event log. -/
  | mctpLogRead (path : MsgPath) (seq : BitVec 32)
  /-- MCTP_TELEMETRY_READ (R517). A vendor-defined MCTP message reads telemetry. -/
  | mctpTelemetryRead (path : MsgPath)
  /-- ATS_INVALIDATION_REQUEST (R258). An ATS invalidation request from the host is completed only after every access translated under the invalidated entry has completed. -/
  | atsInvalidationRequest (addr : Dword) (size : Dword)
  /-- PRBS_CHECKER_LOCK (R459). A lane's pattern checker locks when 64 consecutive bits match, and relocks after 64 errors in 1,024 bits. -/
  | prbsCheckerLock (lane : Fin 512) (errs : BitVec 32) (kbits : BitVec 32) (relock : Bool)
  /-- INGEST_UNIT_FAULT (R44). A fault in ingest unit 1 fails the layer loads whose shards it decodes. -/
  | ingestUnitFault
  /-- MANAGEMENT_RESET_COMPLETE (R532). The firmware resumes after a management reset, answers management messages again, applies held targets at the next boundary and attributes the missed epochs. -/
  | managementResetComplete
  /-- STARTUP_RAIL_TIMEOUT (R541). A group B rail that does not reach its window within 2 ms stops start-up, logs MGT:0x060 and leaves the host port answering with completion-retry status. -/
  | startupRailTimeout (rail : Byte)
  deriving DecidableEq, Repr

end Sys2Proof
end

