-- ==== Sys2Proof/Machine/NMap.lean ====
section
/-! DEFINITION. A sparse map from Nat keys in one canonical form: keys strictly rising and no entry equal to what
an unlisted key reads as. Memories, register fields and tables are all such maps. -/

namespace Sys2Proof.Machine

/-- A sparse map: what an unlisted key reads as is an argument of `nget` and `nset`. -/
abbrev NMap (α : Type) := List (Nat × α)

/-- The value at key `k`, `d` where `k` is not listed. -/
def nget {α : Type} (m : NMap α) (d : α) (k : Nat) : α :=
  match m with
  | [] => d
  | (k', v) :: r => if k' = k then v else nget r d k

/-- Insert or replace at `k`, keeping the keys in rising order. -/
def nput {α : Type} (m : NMap α) (k : Nat) (v : α) : NMap α :=
  match m with
  | [] => [(k, v)]
  | (k', v') :: r =>
    if k < k' then (k, v) :: (k', v') :: r
    else if k = k' then (k, v) :: r
    else (k', v') :: nput r k v

/-- Remove the entry at `k`. -/
def nerase {α : Type} (m : NMap α) (k : Nat) : NMap α :=
  m.filter (fun e => e.1 != k)

/-- Write `v` at `k`: writing what an unlisted key reads as removes the entry. -/
def nset {α : Type} [DecidableEq α] (m : NMap α) (d : α) (k : Nat) (v : α) : NMap α :=
  if v = d then nerase m k else nput m k v

/-- Change every listed value, dropping entries that become what an unlisted key reads as. -/
def nmapv {α : Type} [DecidableEq α] (m : NMap α) (d : α) (f : α → α) : NMap α :=
  (m.map fun e => (e.1, f e.2)).filter fun e => !decide (e.2 = d)

/-- The canonical form: keys strictly rising. -/
def keysRise {α : Type} : NMap α → Bool
  | [] => true
  | [_] => true
  | (k, _) :: (k', v') :: r => decide (k < k') && keysRise ((k', v') :: r)

/-- The canonical form of a map whose unlisted keys read as `d`. -/
def nwf {α : Type} [DecidableEq α] (m : NMap α) (d : α) : Bool :=
  keysRise m && m.all (fun e => !decide (e.2 = d))

/-- The keys listed. -/
def nkeys {α : Type} (m : NMap α) : List Nat := m.map (·.1)

/-- Change the value at one key. -/
def nmod {α : Type} [DecidableEq α] (m : NMap α) (d : α) (k : Nat) (f : α → α) : NMap α :=
  nset m d k (f (nget m d k))

end Sys2Proof.Machine
end

