-- ==== Sys2Proof/Machine/Flags.lean ====
section
/-! DEFINITION. Numbers and arithmetic (chapter 3, R94 to R128): the formats, exact values, the one rounding of each
operation and the numeric flags it raises. -/

namespace Sys2Proof.Machine

/-! ## Flags (R121, Table 32) -/

/-- The five numeric flags in the bit positions of Table 32. -/
abbrev NFlags := BitVec 5

def flagOF : NFlags := 0x01
def flagUF : NFlags := 0x02
def flagNX : NFlags := 0x04
def flagNV : NFlags := 0x08
def flagIS : NFlags := 0x10

/-! ## Formats (R94, R95, R137) -/

/-- The formats of Table 35. -/
inductive Fmt where
  | fp32 | bf16 | fp16 | e5m2 | e4m3 | int32 | int8 | uint8 | int4 | uint4
  deriving DecidableEq, Repr

/-- The format of a code of Table 35; reserved codes name none. -/
def Fmt.ofCode (c : BitVec 4) : Option Fmt :=
  match c.toNat with
  | 0x0 => some .fp32
  | 0x1 => some .bf16
  | 0x2 => some .fp16
  | 0x3 => some .e5m2
  | 0x4 => some .e4m3
  | 0x8 => some .int32
  | 0x9 => some .int8
  | 0xA => some .uint8
  | 0xB => some .int4
  | 0xC => some .uint4
  | _ => none

/-- Field widths of a floating-point format (Table 26): exponent bits, fraction bits, bias. -/
structure FpShape where
  ebits : Nat
  fbits : Nat
  bias : Nat
  deriving DecidableEq, Repr

def Fmt.fp? : Fmt → Option FpShape
  | .fp32 => some ⟨8, 23, 127⟩
  | .bf16 => some ⟨8, 7, 127⟩
  | .fp16 => some ⟨5, 10, 15⟩
  | .e5m2 => some ⟨5, 2, 15⟩
  | .e4m3 => some ⟨4, 3, 7⟩
  | _ => none

/-- Range of an integer format (Table 25). -/
def Fmt.intRange : Fmt → Int × Int
  | .int8 => (-128, 127)
  | .uint8 => (0, 255)
  | .int4 => (-8, 7)
  | .uint4 => (0, 15)
  | _ => (-2147483648, 2147483647)

/-- Width in bits of the format. -/
def Fmt.bits : Fmt → Nat
  | .fp32 => 32
  | .bf16 => 16
  | .fp16 => 16
  | .e5m2 => 8
  | .e4m3 => 8
  | .int32 => 32
  | .int8 => 8
  | .uint8 => 8
  | .int4 => 4
  | .uint4 => 4

/-- FP32 and BF16 subnormals are flushed; the narrower formats keep them (R117, Table 31). -/
def Fmt.flushes : Fmt → Bool
  | .fp32 => true
  | .bf16 => true
  | _ => false

/-- The canonical NaN of a floating-point format (Table 27). -/
def Fmt.nan : Fmt → Nat
  | .fp32 => 0x7FC00000
  | .bf16 => 0x7FC0
  | .fp16 => 0x7E00
  | .e5m2 => 0x7E
  | .e4m3 => 0x7F
  | _ => 0

/-- Bits of the largest finite value (Table 27). -/
def Fmt.maxBits : Fmt → Nat
  | .fp32 => 0x7F7FFFFF
  | .bf16 => 0x7F7F
  | .fp16 => 0x7BFF
  | .e5m2 => 0x7B
  | .e4m3 => 0x7E
  | _ => 0

/-- Bits of +∞ (Table 27); E4M3 has none. -/
def Fmt.infBits : Fmt → Nat
  | .fp32 => 0x7F800000
  | .bf16 => 0x7F80
  | .fp16 => 0x7C00
  | .e5m2 => 0x7C
  | _ => 0

/-! ## Exact values -/

/-- An exact value: NaN, an infinity, or m · 2^e. -/
inductive Num where
  | nan
  | inf (neg : Bool)
  | fin (m : Int) (e : Int)
  deriving DecidableEq, Repr

/-- The value a floating-point encoding denotes (R96, R97, R98), with FP32 and BF16 subnormals read as +0 (R117). -/
def fpValue (f : Fmt) (sh : FpShape) (b : Nat) : Num :=
  let frac := b % 2 ^ sh.fbits
  let ex := b / 2 ^ sh.fbits % 2 ^ sh.ebits
  let neg := b / 2 ^ (sh.fbits + sh.ebits) % 2 = 1
  let signed := fun (m : Nat) (e : Int) => Num.fin (if neg then -(m : Int) else m) e
  let q : Int := (ex : Int) - sh.bias - sh.fbits
  if ex = 0 then
    if f.flushes then .fin 0 0 else signed frac (1 - (sh.bias : Int) - sh.fbits)
  else if ex = 2 ^ sh.ebits - 1 then
    if f = .e4m3 then
      if frac = 7 then .nan else signed (2 ^ sh.fbits + frac) q
    else if frac = 0 then .inf neg else .nan
  else signed (2 ^ sh.fbits + frac) q

/-- Two's-complement or unsigned value of the low bits of a lane (R94, R108). -/
def intValue (f : Fmt) (b : Nat) : Int :=
  let n := b % 2 ^ f.bits
  if f = .uint8 ∨ f = .uint4 then n
  else if n < 2 ^ (f.bits - 1) then n else (n : Int) - 2 ^ f.bits

/-- The exact value of a lane read in a format; the upper bits of a narrow operand are ignored (R108). -/
def Num.ofLane (f : Fmt) (x : Lane) : Num :=
  match f.fp? with
  | some sh => fpValue f sh (x.toNat % 2 ^ f.bits)
  | none => .fin (intValue f x.toNat) 0

/-- m · 2^e at the smaller exponent of two values. -/
def alignTo (m e e' : Int) : Int := m * 2 ^ (e - e').toNat

/-- Compare two finite values: the sign of a − b. -/
def finCmp (m e m' e' : Int) : Int :=
  let k := min e e'
  (alignTo m e k - alignTo m' e' k).sign

/-- The order of values of R120: −∞ < finite < +∞; none for a NaN. -/
def Num.cmp : Num → Num → Option Int
  | .nan, _ => none
  | _, .nan => none
  | .inf a, .inf b => some (if a = b then 0 else if a then -1 else 1)
  | .inf a, .fin _ _ => some (if a then -1 else 1)
  | .fin _ _, .inf b => some (if b then 1 else -1)
  | .fin m e, .fin m' e' => some (finCmp m e m' e')

def Num.isZero : Num → Bool
  | .fin m _ => m = 0
  | _ => false

def Num.neg : Num → Num
  | .nan => .nan
  | .inf s => .inf (!s)
  | .fin m e => .fin (-m) e

/-! ## Rounding (R109, R113, R116 to R118) -/

/-- |m · 2^e| rounded to a whole number of 2^q: to nearest even, or toward zero. The Bool says the rounding
discarded something. -/
def quantise (trunc : Bool) (a : Nat) (e q : Int) : Nat × Bool :=
  if q ≤ e then (a * 2 ^ (e - q).toNat, false)
  else
    let d := 2 ^ (q - e).toNat
    let n := a / d
    let r := a % d
    let up := !trunc && (decide (d < 2 * r) || (decide (2 * r = d) && decide (n % 2 = 1)))
    (if up then n + 1 else n, decide (r ≠ 0))

/-- Bits of the value n · 2^q, n below 2^(fbits+1), sign aside. -/
def packFp (sh : FpShape) (n : Nat) (q : Int) : Nat :=
  if n < 2 ^ sh.fbits then n
  else if n < 2 ^ (sh.fbits + 1) then (q + sh.fbits + sh.bias).toNat * 2 ^ sh.fbits + (n - 2 ^ sh.fbits)
  else (q + 1 + sh.fbits + sh.bias).toNat * 2 ^ sh.fbits

/-- What a destination gives on overflow (R113). -/
def overflowBits (f : Fmt) (sat neg : Bool) : Lane × NFlags :=
  let s := if neg then 2 ^ (f.bits - 1) else 0
  (BitVec.ofNat 32 (if sat then f.maxBits + s else if f = .e4m3 then f.nan else f.infBits + s), flagOF ||| flagNX)

/-- An exact value rounded once to a floating-point destination (R109, R113 to R118). -/
def roundFp (f : Fmt) (sh : FpShape) (trunc sat : Bool) (v : Num) : Lane × NFlags :=
  match v with
  | .nan => (BitVec.ofNat 32 f.nan, 0)
  | .inf s =>
    if f = .e4m3 then overflowBits f sat s
    else (BitVec.ofNat 32 (f.infBits + if s then 2 ^ (f.bits - 1) else 0), 0)
  | .fin m e =>
    if m = 0 then (0, 0)
    else
      let a := m.natAbs
      let ex : Int := (Nat.log2 a : Int) + e
      let emin : Int := 1 - (sh.bias : Int)
      let tiny := decide (ex < emin)
      if tiny && f.flushes then (0, flagUF ||| flagNX)
      else
        let q : Int := max ex emin - sh.fbits
        let (n, inexact) := quantise trunc a e q
        let maxv := fpValue f sh f.maxBits
        match maxv.cmp (.fin n q) with
        | some (Int.negSucc _) => overflowBits f sat (decide (m < 0))
        | _ =>
          let bits := packFp sh n q
          let s := if m < 0 ∧ bits ≠ 0 then 2 ^ (f.bits - 1) else 0
          (BitVec.ofNat 32 (bits + s),
            (if inexact then flagNX else 0) ||| (if tiny && inexact then flagUF else 0))

/-- An exact value converted to an integer destination (Table 30). A NaN gives 0 with NV: Table 30 says so of a conversion,
and the model takes the same for FMA, ADD, SUB and MUL with a NaN operand and an integer destination (DESIGN CHOICE, log
entry 90: R115's canonical NaN does not exist there). -/
def roundInt (f : Fmt) (trunc : Bool) (v : Num) : Lane × NFlags :=
  let (lo, hi) := f.intRange
  let put := fun (x : Int) => BitVec.ofNat 32 (x % 2 ^ f.bits).toNat
  match v with
  | .nan => (0, flagNV)
  | .inf s => (put (if s then lo else hi), flagIS)
  | .fin m e =>
    let (n, inexact) := quantise trunc m.natAbs e 0
    let x : Int := if m < 0 then -(n : Int) else n
    if x < lo then (put lo, flagIS)
    else if hi < x then (put hi, flagIS)
    else (put x, if inexact then flagNX else 0)

/-- An exact value delivered in a destination format. -/
def roundTo (f : Fmt) (trunc sat : Bool) (v : Num) : Lane × NFlags :=
  match f.fp? with
  | some sh => roundFp f sh trunc sat v
  | none => roundInt f trunc v

/-- The invalid result in a destination: canonical NaN, or 0 where the destination is an integer, with NV (R114; the 0 is of
log entry 90). -/
def invalidTo (f : Fmt) : Lane × NFlags := (BitVec.ofNat 32 f.nan, flagNV)

/-! ## Exact operations -/

/-- The exact product; `none` is the invalid 0 × ∞ (R114). -/
def Num.mul : Num → Num → Option Num
  | .nan, _ => some .nan
  | _, .nan => some .nan
  | .inf a, .inf b => some (.inf (a != b))
  | .inf a, .fin m _ => if m = 0 then none else some (.inf (a != decide (m < 0)))
  | .fin m _, .inf b => if m = 0 then none else some (.inf (decide (m < 0) != b))
  | .fin m e, .fin m' e' => some (.fin (m * m') (e + e'))

/-- The exact sum; `none` is the invalid ∞ − ∞ (R114). -/
def Num.add : Num → Num → Option Num
  | .nan, _ => some .nan
  | _, .nan => some .nan
  | .inf a, .inf b => if a = b then some (.inf a) else none
  | .inf a, .fin _ _ => some (.inf a)
  | .fin _ _, .inf b => some (.inf b)
  | .fin m e, .fin m' e' =>
    let k := min e e'
    some (.fin (alignTo m e k + alignTo m' e' k) k)

/-- How a stage or entry reads and writes its operands: formats, rounding, narrowing (R109, R113). -/
structure NMode where
  sfmt : Fmt
  dfmt : Fmt
  trunc : Bool
  sat : Bool
  deriving DecidableEq, Repr

/-- FP32 in and out, round to nearest even. -/
def NMode.plain : NMode := ⟨.fp32, .fp32, false, false⟩

/-- The one rounding of an operation: of its exact result, or of an invalid one; a NaN into an integer destination is as
`roundInt` says (log entry 90). -/
def finish (k : NMode) : Option Num → Lane × NFlags
  | some v => roundTo k.dfmt k.trunc k.sat v
  | none => invalidTo k.dfmt

/-- a + b with one rounding. -/
def opAdd (k : NMode) (a b : Lane) : Lane × NFlags :=
  finish k ((Num.ofLane k.sfmt a).add (Num.ofLane k.sfmt b))

/-- a − b with one rounding. -/
def opSub (k : NMode) (a b : Lane) : Lane × NFlags :=
  finish k ((Num.ofLane k.sfmt a).add (Num.ofLane k.sfmt b).neg)

/-- a × b with one rounding. -/
def opMul (k : NMode) (a b : Lane) : Lane × NFlags :=
  finish k ((Num.ofLane k.sfmt a).mul (Num.ofLane k.sfmt b))

/-- a × b + c with one rounding (R109); 0 × ∞ is invalid whatever the addend (R114). -/
def opFma (k : NMode) (a b c : Lane) : Lane × NFlags :=
  match (Num.ofLane k.sfmt a).mul (Num.ofLane k.sfmt b) with
  | none => invalidTo k.dfmt
  | some p => finish k (p.add (Num.ofLane k.sfmt c))

/-- a converted from sfmt to dfmt (R111). -/
def opCvt (k : NMode) (a : Lane) : Lane × NFlags := finish k (some (Num.ofLane k.sfmt a))

/-- The selection of minimum or maximum (R120). -/
def selectNum (wantMax : Bool) (x y : Num) : Num :=
  if x.isZero && y.isZero then .fin 0 0
  else match x.cmp y with
    | none => .nan
    | some c => if (0 < c) = wantMax then x else y

/-- min or max under R120, converted to the destination when the formats differ. The selection raises no flag. -/
def opMinMax (wantMax : Bool) (k : NMode) (a b : Lane) : Lane × NFlags :=
  let v := selectNum wantMax (Num.ofLane k.sfmt a) (Num.ofLane k.sfmt b)
  let r := finish k (some v)
  if k.sfmt = k.dfmt then (r.1, 0) else r

/-- A predicate of R119 on the order of two values: 0 EQ, 1 NE, 2 LT, 3 LE, 4 GT, 5 GE. Unordered operands make
every predicate false but NE. -/
def predHolds (p : Nat) : Option Int → Bool
  | none => p = 1
  | some c =>
    match p with
    | 0 => c = 0
    | 1 => c ≠ 0
    | 2 => c < 0
    | 3 => c ≤ 0
    | 4 => 0 < c
    | 5 => 0 ≤ c
    | _ => false

/-- Compare to lane mask (R119): all ones or zero, no flag. -/
def opCmp (p : Nat) (unsignedCmp : Bool) (f : Fmt) (a b : Lane) : Lane × NFlags :=
  let c := if unsignedCmp then some ((a.toNat : Int) - b.toNat).sign
    else (Num.ofLane f a).cmp (Num.ofLane f b)
  (if predHolds p c then 0xFFFFFFFF else 0, 0)

/-- INT32 addition with saturation (R110, R106). -/
def satAdd (a b : Lane) : Lane × NFlags := roundInt .int32 false (.fin (a.toInt + b.toInt) 0)

/-- INT32 subtraction with saturation (R110). -/
def satSub (a b : Lane) : Lane × NFlags := roundInt .int32 false (.fin (a.toInt - b.toInt) 0)

/-! ## The array datapath (R99 to R106) -/

/-- The scaled block value v (R102) from the exact block sum and the two scale bytes. -/
def scaledBlock (sum : Int) (bA bB : Byte) : Lane × NFlags :=
  if bA = 0xFF ∨ bB = 0xFF then (0x7FC00000, flagNV)
  else if sum = 0 then (0, 0)
  else
    let e : Int := (bA.toNat : Int) + bB.toNat - 254
    let top : Int := (Nat.log2 sum.natAbs : Int) + e
    if 128 ≤ top then (BitVec.ofNat 32 (0x7F800000 + if sum < 0 then 2 ^ 31 else 0), flagOF)
    else if top < -126 then (0, flagUF)
    else ((roundFp .fp32 ⟨8, 23, 127⟩ true false (.fin sum e)).1, 0)

/-- One accumulating addition: the exact sum truncated toward zero (R103). -/
def accAdd (acc v : Lane) : Lane × NFlags :=
  match Num.ofLane .fp32 acc, Num.ofLane .fp32 v with
  | .nan, _ => (0x7FC00000, 0)
  | _, .nan => (0x7FC00000, 0)
  | .inf a, .inf b => if a = b then (acc, 0) else (0x7FC00000, flagNV)
  | .inf _, .fin _ _ => (acc, 0)
  | .fin _ _, .inf _ => (v, 0)
  | .fin m e, .fin m' e' =>
    let k := min e e'
    let s := alignTo m e k + alignTo m' e' k
    if s = 0 then (0, 0)
    else
      let top : Int := (Nat.log2 s.natAbs : Int) + k
      if 128 ≤ top then (BitVec.ofNat 32 (0x7F800000 + if s < 0 then 2 ^ 31 else 0), flagOF)
      else if top < -126 then (0, flagUF)
      else ((roundFp .fp32 ⟨8, 23, 127⟩ true true (.fin s k)).1, 0)

end Sys2Proof.Machine
end

