-- ==== Sys2Proof/Config.lean ====
section
/-! DEFINITION. What the spec leaves to the part or to a published standard whose text it does not give:
constants without a body, so that no proof can use a value of them (log entries 3, 12, 13, 14). -/

namespace Sys2Proof

/-- A value the spec leaves open, by the model's counter `freeCtr` (log entry 3). -/
opaque Config.freeLane : Nat → Lane

/-- Digest field of the shipped slot image of functions 0 to 15 (R139, R143; log entry 12). -/
opaque Config.shippedDigest : Nat → Dword

/-- Result of shipped function k inside the domain of Table 38, where the spec bounds the error and gives no bits
(R139; log entry 12). -/
opaque Config.shippedFn : Nat → Lane → Lane

/-- SHA-384, named and not defined by the spec (R499; log entry 13). -/
opaque Config.sha384 : List Byte → BitVec 384

/-- The ECDSA P-384 signature over a message by the identity key that the boot measurements give (R496, R501; log entry 13). -/
opaque Config.identitySign : List Byte → List Byte → BitVec 768

/-- The certificate chain of slot 0 for the boot measurements (R496; log entry 13). -/
opaque Config.certChain : List Byte → List Byte

/-- Digests of the boot ROM, of the image shipped in a firmware slot and of the shipped function slots (R497, R499; log
entry 13). -/
opaque Config.romDigest : BitVec 384
opaque Config.shippedImage : Bool → BitVec 384
opaque Config.shippedFns : BitVec 384

/-- Stepping code of the IDCODE (R509; log entry 13). -/
opaque Config.tapStepping : BitVec 4

/-- Whether a firmware image carries a valid vendor signature (R497 step 3; log entry 13). -/
opaque Config.imageSigned : List Byte → Bool

/-- Security version that a firmware image states (R497 step 4; log entry 13). -/
opaque Config.imageSvn : List Byte → Nat

/-- Whether a debug unlock token is valid for the serial number and nonce (R509; log entry 13). -/
opaque Config.tokenValid : Dword → BitVec 256 → BitVec 768 → Bool

/-- AES-256 key unwrap under a KEK (R504; log entry 13). -/
opaque Config.keyUnwrap : BitVec 256 → List Byte → Option (List Byte)

/-- The unwrapping key that ECDH of a public key with the key-agreement key of the boot measurements and HKDF-SHA-384 derive
(R496, R504; log entry 13). -/
opaque Config.ecdhDerive : List Byte → List Byte → BitVec 256

/-- AES-256-GCM tag over additional data and ciphertext (R457; log entry 13). -/
opaque Config.gcmTag : BitVec 256 → BitVec 96 → List Byte → List Byte → BitVec 128

/-- AES-256-GCM encryption, which is its own inverse for one key and IV (R457; log entry 13). -/
opaque Config.gcmCrypt : BitVec 256 → BitVec 96 → List Byte → List Byte

/-- AES-256-XTS encryption and decryption of one 256-byte data unit (R506; log entry 13). -/
opaque Config.xtsEncrypt : BitVec 512 → Nat → List Byte → List Byte
opaque Config.xtsDecrypt : BitVec 512 → Nat → List Byte → List Byte

/-- What follows the completion code in the answer to an MCTP control command, by command and by the model's counter (R517
leaves it to the MCTP standard; log entry 13). -/
opaque Config.mctpBody : Byte → Nat → List Byte

/-- The controller's prediction of package power in W from the epoch, the clock step and the duty (R520: "The
prediction is the controller's own fit"; log entry 14). -/
opaque Config.predictedPower : Nat → Nat → Nat → Nat

/-- The fused voltage curve of each facet, in mV above 600 at each step, before the rules of R525 are imposed ("this manual states
none"; log entry 14). -/
opaque Config.curveRaw : Nat → Nat → Nat

/-- Byte i of the header of a part of a cut region, by the fields that R487 lists; the rule gives them no offsets (log entry
64). -/
opaque Config.cutHeader : List Nat → Nat → Byte

end Sys2Proof
end

