-- ==== Sys2Proof/Machine/Regs.lean ====
section
/-! DEFINITION. The register index: every register field with its place, reset value and access type (R23, R24, R550
to R554, and the table of each register). `F.<register>_<field>` names a field for the engines; `globalRegs` and
`quadRegs` are the table that register writes and reads go through. -/

namespace Sys2Proof.Machine

/-- A field of a register: BAR0 offset of the register, least significant bit, width, reset value. -/
structure Fld where
  off : Nat
  lsb : Nat
  len : Nat
  reset : Nat
  deriving DecidableEq, Repr

/-- The key under which a field is stored. -/
def Fld.key (f : Fld) : Nat := f.off * 64 + f.lsb

/-- Access types of Table 3. -/
inductive Access where
  | rw | ro | w1c | w1s | wo | rwl | wonce
  deriving DecidableEq, Repr

/-- One field of a register's table. -/
structure FieldSpec where
  lsb : Nat
  len : Nat
  reset : Nat
  acc : Access
  deriving DecidableEq, Repr

/-- How a register's value is held: stored fields, a snapshot copy of live counters (R87), or a view of other
state (fuses, constants of the kind, the clock). -/
inductive RegKind where
  | stored | snap | view
  deriving DecidableEq, Repr

/-- A register: offset of instance 0, two index dimensions (count, stride), 64-bit or not, kind, fields. -/
structure RegSpec where
  base : Nat
  n1 : Nat
  st1 : Nat
  n2 : Nat
  st2 : Nat
  wide : Bool
  kind : RegKind
  fields : List FieldSpec
  deriving DecidableEq, Repr

/-- BAR0 offset of the register block of quadrant `q` (R28). -/
def quadBlock (q : Nat) : Nat := 0x1000000 + q * 0x40000

/-- MGT_ID.device_id (R11), RO. -/
def F.mgtId_device_id : Fld := ⟨0x0, 16, 16, 0x3132⟩
/-- MGT_ID.vendor_id (R11), RO. -/
def F.mgtId_vendor_id : Fld := ⟨0x0, 0, 16, 0x2a5c⟩
/-- MGT_VERSION.arch_gen (R12), RO. -/
def F.mgtVersion_arch_gen : Fld := ⟨0x4, 16, 8, 3⟩
/-- MGT_VERSION.compat_level (R12), RO. -/
def F.mgtVersion_compat_level : Fld := ⟨0x4, 8, 8, 0x30⟩
/-- MGT_VERSION.step_major (R12), RO. -/
def F.mgtVersion_step_major : Fld := ⟨0x4, 4, 4, 1⟩
/-- MGT_VERSION.step_minor (R12), RO. -/
def F.mgtVersion_step_minor : Fld := ⟨0x4, 0, 4, 1⟩
/-- MGT_QUAD_EN.w_en (R13), RO. -/
def F.mgtQuadEn_w_en : Fld := ⟨0x8, 24, 8, 0xff⟩
/-- MGT_QUAD_EN.d_en (R13), RO. -/
def F.mgtQuadEn_d_en : Fld := ⟨0x8, 0, 24, 0xffffff⟩
/-- MGT_CAP_BLK.block (R550), RO. -/
def F.mgtCapBlk_block (i : Nat) : Fld := ⟨0x10 + i * 0x4, 28, 4, 0⟩
/-- MGT_CAP_BLK.count_m1 (R550), RO. -/
def F.mgtCapBlk_count_m1 (i : Nat) : Fld := ⟨0x10 + i * 0x4, 22, 6, 0⟩
/-- MGT_CAP_BLK.stride_log2 (R550), RO. -/
def F.mgtCapBlk_stride_log2 (i : Nat) : Fld := ⟨0x10 + i * 0x4, 16, 6, 0⟩
/-- MGT_CAP_BLK.base (R550), RO. -/
def F.mgtCapBlk_base (i : Nat) : Fld := ⟨0x10 + i * 0x4, 0, 10, 0⟩
/-- MGT_GEOM.locked (R332), RWL. -/
def F.mgtGeom_locked : Fld := ⟨0x1000, 31, 1, 0⟩
/-- MGT_GEOM.geom (R332), RWL. -/
def F.mgtGeom_geom : Fld := ⟨0x1000, 0, 8, 0⟩
/-- MGT_EPOCH.epoch (R510), RO. -/
def F.mgtEpoch_epoch : Fld := ⟨0x2000, 0, 64, 0⟩
/-- MGT_PWR_SET.op (R518), WO. -/
def F.mgtPwrSet_op : Fld := ⟨0x2010, 30, 2, 0⟩
/-- MGT_PWR_SET.value (R518), WO. -/
def F.mgtPwrSet_value : Fld := ⟨0x2010, 0, 16, 0⟩
/-- MGT_PWR_CFG.follow (R518), RW. -/
def F.mgtPwrCfg_follow : Fld := ⟨0x2014, 31, 1, 0⟩
/-- MGT_PWR_CFG.ramp (R518), RW. -/
def F.mgtPwrCfg_ramp : Fld := ⟨0x2014, 16, 10, 0xc8⟩
/-- MGT_PWR_STAT.cmd (R518), RO. -/
def F.mgtPwrStat_cmd : Fld := ⟨0x2018, 16, 16, 0xaf0⟩
/-- MGT_PWR_STAT.target (R518), RO. -/
def F.mgtPwrStat_target : Fld := ⟨0x2018, 0, 16, 0xaf0⟩
/-- MGT_PWR_ACH.peak (R518), RO. -/
def F.mgtPwrAch_peak : Fld := ⟨0x201c, 16, 16, 0⟩
/-- MGT_PWR_ACH.mean (R518), RO. -/
def F.mgtPwrAch_mean : Fld := ⟨0x201c, 0, 16, 0⟩
/-- MGT_PWR_FLAGS.shed (R518), RO. -/
def F.mgtPwrFlags_shed : Fld := ⟨0x2020, 31, 1, 0⟩
/-- MGT_PWR_FLAGS.throt (R518), RO. -/
def F.mgtPwrFlags_throt : Fld := ⟨0x2020, 30, 1, 0⟩
/-- MGT_PWR_FLAGS.hot (R518), RO. -/
def F.mgtPwrFlags_hot : Fld := ⟨0x2020, 29, 1, 0⟩
/-- MGT_PWR_FLAGS.floor_limited (R518), RO. -/
def F.mgtPwrFlags_floor_limited : Fld := ⟨0x2020, 28, 1, 0⟩
/-- MGT_PWR_FLAGS.clamped (R518), RO. -/
def F.mgtPwrFlags_clamped : Fld := ⟨0x2020, 27, 1, 0⟩
/-- MGT_PWR_FLAGS.over (R518), RO. -/
def F.mgtPwrFlags_over : Fld := ⟨0x2020, 26, 1, 0⟩
/-- MGT_PWR_FLAGS.source (R518), RO. -/
def F.mgtPwrFlags_source : Fld := ⟨0x2020, 24, 2, 0⟩
/-- MGT_ENERGY.uj (R518), RO. -/
def F.mgtEnergy_uj : Fld := ⟨0x2028, 0, 64, 0⟩
/-- MGT_CLK_CAP.cap (R525), RW. -/
def F.mgtClkCap_cap (i : Nat) : Fld := ⟨0x2100 + i * 0x4, 0, 6, 0x30⟩
/-- MGT_CLK_STAT.step (R525), RO. -/
def F.mgtClkStat_step (i : Nat) : Fld := ⟨0x2120 + i * 0x4, 26, 6, 0x30⟩
/-- MGT_CLK_STAT.duty (R525), RO. -/
def F.mgtClkStat_duty (i : Nat) : Fld := ⟨0x2120 + i * 0x4, 21, 5, 0x10⟩
/-- MGT_CLK_STAT.limiter (R525), RO. -/
def F.mgtClkStat_limiter (i : Nat) : Fld := ⟨0x2120 + i * 0x4, 18, 3, 0⟩
/-- MGT_CLK_STAT.mv (R525), RO. -/
def F.mgtClkStat_mv (i : Nat) : Fld := ⟨0x2120 + i * 0x4, 0, 16, 0x258⟩
/-- MGT_THROT_CFG.throt_step (R525), RW. -/
def F.mgtThrotCfg_throt_step : Fld := ⟨0x2140, 0, 6, 0x10⟩
/-- MGT_THERM_CFG.target (R526), RW. -/
def F.mgtThermCfg_target : Fld := ⟨0x2200, 0, 8, 0x5f⟩
/-- MGT_TJ.max (R526), RO. -/
def F.mgtTj_max (i : Nat) : Fld := ⟨0x2210 + i * 0x4, 16, 16, 0x8000⟩
/-- MGT_TJ.now (R526), RO. -/
def F.mgtTj_now (i : Nat) : Fld := ⟨0x2210 + i * 0x4, 0, 16, 0x8000⟩
/-- MGT_FW_ADDR.addr (R516), RW. -/
def F.mgtFwAddr_addr : Fld := ⟨0x2300, 12, 52, 0⟩
/-- MGT_FW_CTL.go (R516), W1S. -/
def F.mgtFwCtl_go : Fld := ⟨0x2308, 31, 1, 0⟩
/-- MGT_FW_CTL.op (R516), RW. -/
def F.mgtFwCtl_op : Fld := ⟨0x2308, 28, 3, 0⟩
/-- MGT_FW_CTL.status (R516), RO. -/
def F.mgtFwCtl_status : Fld := ⟨0x2308, 24, 4, 0⟩
/-- MGT_FW_CTL.busy (R516), RO. -/
def F.mgtFwCtl_busy : Fld := ⟨0x2308, 23, 1, 0⟩
/-- MGT_FW_CTL.trial (R516), RO. -/
def F.mgtFwCtl_trial : Fld := ⟨0x2308, 1, 1, 0⟩
/-- MGT_FW_CTL.active (R516), RO. -/
def F.mgtFwCtl_active : Fld := ⟨0x2308, 0, 1, 0⟩
/-- MGT_RST.go (R533), W1S. -/
def F.mgtRst_go : Fld := ⟨0x2400, 31, 1, 0⟩
/-- MGT_RST.op (R533), RW. -/
def F.mgtRst_op : Fld := ⟨0x2400, 28, 3, 0⟩
/-- MGT_RST.status (R533), RO. -/
def F.mgtRst_status : Fld := ⟨0x2400, 24, 4, 0⟩
/-- MGT_RST.quadrant (R533), RW. -/
def F.mgtRst_quadrant : Fld := ⟨0x2400, 0, 5, 0⟩
/-- MGT_START_STAT.ready (R535), RO. -/
def F.mgtStartStat_ready : Fld := ⟨0x2404, 31, 1, 0⟩
/-- MGT_START_STAT.degraded (R535), RO. -/
def F.mgtStartStat_degraded : Fld := ⟨0x2404, 30, 1, 0⟩
/-- MGT_START_STAT.step (R535), RO. -/
def F.mgtStartStat_step : Fld := ⟨0x2404, 16, 3, 0⟩
/-- MGT_START_STAT.ms (R535), RO. -/
def F.mgtStartStat_ms : Fld := ⟨0x2404, 0, 16, 0⟩
/-- MGT_ALERT.cause (R530), W1C. -/
def F.mgtAlert_cause : Fld := ⟨0x2410, 16, 5, 0⟩
/-- MGT_ALERT.mask (R530), RW. -/
def F.mgtAlert_mask : Fld := ⟨0x2410, 0, 5, 0x1f⟩
/-- MGT_SIDEBAND.shed (R530), RO. -/
def F.mgtSideband_shed : Fld := ⟨0x2414, 31, 1, 0⟩
/-- MGT_SIDEBAND.throt (R530), RO. -/
def F.mgtSideband_throt : Fld := ⟨0x2414, 30, 1, 0⟩
/-- MGT_SIDEBAND.alert (R530), RO. -/
def F.mgtSideband_alert : Fld := ⟨0x2414, 29, 1, 0⟩
/-- MGT_SIDEBAND.sheds (R530), RO. -/
def F.mgtSideband_sheds : Fld := ⟨0x2414, 0, 16, 0⟩
/-- MGT_RECAL_CTL.go (R531), W1S. -/
def F.mgtRecalCtl_go : Fld := ⟨0x2500, 31, 1, 0⟩
/-- MGT_RECAL_CTL.auto (R531), RW. -/
def F.mgtRecalCtl_auto : Fld := ⟨0x2500, 30, 1, 1⟩
/-- MGT_RECAL_CTL.status (R531), RO. -/
def F.mgtRecalCtl_status : Fld := ⟨0x2500, 24, 4, 0⟩
/-- MGT_RECAL_CTL.busy (R531), RO. -/
def F.mgtRecalCtl_busy : Fld := ⟨0x2500, 23, 1, 0⟩
/-- MGT_RECAL_CTL.device (R531), RW. -/
def F.mgtRecalCtl_device : Fld := ⟨0x2500, 5, 4, 0⟩
/-- MGT_RECAL_CTL.channel (R531), RW. -/
def F.mgtRecalCtl_channel : Fld := ⟨0x2500, 0, 5, 0⟩
/-- MGT_RECAL_STAT.count (R531), RO. -/
def F.mgtRecalStat_count : Fld := ⟨0x2504, 0, 32, 0⟩
/-- MGT_ACCT_CTL.snap_seq (R427), RO. -/
def F.mgtAcctCtl_snap_seq : Fld := ⟨0x3f00, 16, 16, 0⟩
/-- MGT_ACCT_CTL.busy (R427), RO. -/
def F.mgtAcctCtl_busy : Fld := ⟨0x3f00, 2, 1, 0⟩
/-- MGT_ACCT_CTL.clear (R427), W1S. -/
def F.mgtAcctCtl_clear : Fld := ⟨0x3f00, 1, 1, 0⟩
/-- MGT_ACCT_CTL.snap (R427), W1S. -/
def F.mgtAcctCtl_snap : Fld := ⟨0x3f00, 0, 1, 0⟩
/-- MGT_ENERGY_OVH.uj (R428), RO. -/
def F.mgtEnergyOvh_uj : Fld := ⟨0x3f10, 0, 64, 0⟩
/-- MGT_ENERGY_SNAP.uj (R518), RO. -/
def F.mgtEnergySnap_uj : Fld := ⟨0x3f18, 0, 64, 0⟩
/-- MGT_SAVE_CFG.areas (R419), RW. -/
def F.mgtSaveCfg_areas : Fld := ⟨0x3f20, 0, 3, 2⟩
/-- MGT_CTX_CFG.en (R406), RW. -/
def F.mgtCtxCfg_en (i : Nat) : Fld := ⟨0x4000 + i * 0x80, 31, 1, 0⟩
/-- MGT_CTX_CFG.ended (R406), RO. -/
def F.mgtCtxCfg_ended (i : Nat) : Fld := ⟨0x4000 + i * 0x80, 30, 1, 0⟩
/-- MGT_CTX_CFG.part (R406), RW. -/
def F.mgtCtxCfg_part (i : Nat) : Fld := ⟨0x4000 + i * 0x80, 16, 4, 0⟩
/-- MGT_CTX_CFG.code (R406), RO. -/
def F.mgtCtxCfg_code (i : Nat) : Fld := ⟨0x4000 + i * 0x80, 0, 16, 0⟩
/-- MGT_CTX_WAITQ.ticks (R428), RO. -/
def F.mgtCtxWaitq_ticks (i : Nat) : Fld := ⟨0x4008 + i * 0x80, 0, 64, 0⟩
/-- MGT_CTX_WAITW.ticks (R428), RO. -/
def F.mgtCtxWaitw_ticks (i : Nat) : Fld := ⟨0x4010 + i * 0x80, 0, 64, 0⟩
/-- MGT_CTX_RUN.fc (R428), RO. -/
def F.mgtCtxRun_fc (i : Nat) : Fld := ⟨0x4018 + i * 0x80, 0, 64, 0⟩
/-- MGT_CTX_HOLD.fc (R428), RO. -/
def F.mgtCtxHold_fc (i : Nat) : Fld := ⟨0x4020 + i * 0x80, 0, 64, 0⟩
/-- MGT_CTX_PRE.count (R428), RO. -/
def F.mgtCtxPre_count (i : Nat) : Fld := ⟨0x4028 + i * 0x80, 32, 32, 0⟩
/-- MGT_CTX_PRETIME.ticks (R428), RO. -/
def F.mgtCtxPretime_ticks (i : Nat) : Fld := ⟨0x4030 + i * 0x80, 0, 64, 0⟩
/-- MGT_CTX_ENERGY.uj (R428), RO. -/
def F.mgtCtxEnergy_uj (i : Nat) : Fld := ⟨0x4038 + i * 0x80, 0, 64, 0⟩
/-- MGT_CTX_YIELD.count (R428), RO. -/
def F.mgtCtxYield_count (i j : Nat) : Fld := ⟨0x4040 + i * 0x80 + j * 0x8, 40, 24, 0⟩
/-- MGT_CTX_YIELD.ticks (R428), RO. -/
def F.mgtCtxYield_ticks (i j : Nat) : Fld := ⟨0x4040 + i * 0x80 + j * 0x8, 0, 40, 0⟩
/-- SEC_DEV_SN.serial (R508), RO. -/
def F.secDevSn_serial : Fld := ⟨0x100000, 0, 64, 0⟩
/-- SEC_STAT.debug (R508), RO. -/
def F.secStat_debug : Fld := ⟨0x100008, 30, 2, 0⟩
/-- SEC_STAT.slot (R508), RO. -/
def F.secStat_slot : Fld := ⟨0x100008, 29, 1, 0⟩
/-- SEC_STAT.torn (R508), RO. -/
def F.secStat_torn : Fld := ⟨0x100008, 0, 8, 0⟩
/-- SEC_VIOL.count (R507), RO. -/
def F.secViol_count : Fld := ⟨0x100010, 16, 16, 0⟩
/-- SEC_VIOL.originator (R507), RO. -/
def F.secViol_originator : Fld := ⟨0x100010, 8, 8, 0⟩
/-- SEC_VIOL_ADDR.addr (R507), RO. -/
def F.secViolAddr_addr : Fld := ⟨0x100014, 0, 32, 0⟩
/-- SEC_LOCK.debug (R507), W1S. -/
def F.secLock_debug : Fld := ⟨0x100018, 4, 1, 0⟩
/-- SEC_LOCK.kek (R507), W1S. -/
def F.secLock_kek : Fld := ⟨0x100018, 3, 1, 0⟩
/-- SEC_LOCK.peer (R507), W1S. -/
def F.secLock_peer : Fld := ⟨0x100018, 2, 1, 0⟩
/-- SEC_LOCK.far_crypt (R507), W1S. -/
def F.secLock_far_crypt : Fld := ⟨0x100018, 1, 1, 0⟩
/-- SEC_LOCK.part_map (R507), W1S. -/
def F.secLock_part_map : Fld := ⟨0x100018, 0, 1, 0⟩
/-- SEC_OWNER_ID.owner (R507), WONCE. -/
def F.secOwnerId_owner : Fld := ⟨0x10001c, 0, 32, 0⟩
/-- SEC_SVN.commit (R498), W1S. -/
def F.secSvn_commit : Fld := ⟨0x100020, 31, 1, 0⟩
/-- SEC_SVN.running (R498), RO. -/
def F.secSvn_running : Fld := ⟨0x100020, 8, 8, 0⟩
/-- SEC_SVN.fused (R498), RO. -/
def F.secSvn_fused : Fld := ⟨0x100020, 0, 8, 0⟩
/-- SEC_VF_PART.en (R493), RWL. -/
def F.secVfPart_en (i : Nat) : Fld := ⟨0x100040 + i * 0x4, 31, 1, 0⟩
/-- SEC_VF_PART.part (R493), RWL. -/
def F.secVfPart_part (i : Nat) : Fld := ⟨0x100040 + i * 0x4, 0, 4, 0⟩
/-- SEC_QUAD_OWN.en (R493), RWL. -/
def F.secQuadOwn_en (i : Nat) : Fld := ⟨0x1000c0 + i * 0x4, 31, 1, 0⟩
/-- SEC_QUAD_OWN.part (R493), RWL. -/
def F.secQuadOwn_part (i : Nat) : Fld := ⟨0x1000c0 + i * 0x4, 0, 4, 0⟩
/-- SEC_FAR_CRYPT.en (R506), RWL. -/
def F.secFarCrypt_en (i : Nat) : Fld := ⟨0x100140 + i * 0x4, 31, 1, 0⟩
/-- SEC_FAR_CRYPT.slot (R506), RWL. -/
def F.secFarCrypt_slot (i : Nat) : Fld := ⟨0x100140 + i * 0x4, 0, 6, 0⟩
/-- SEC_PEER_MINSVN.min (R503), RWL. -/
def F.secPeerMinsvn_min : Fld := ⟨0x100184, 0, 8, 0⟩
/-- SEC_ATT_CTL.go (R502), W1S. -/
def F.secAttCtl_go : Fld := ⟨0x100190, 31, 1, 0⟩
/-- SEC_ATT_CTL.busy (R502), RO. -/
def F.secAttCtl_busy : Fld := ⟨0x100190, 30, 1, 0⟩
/-- SEC_ATT_CTL.pkg (R502), RW. -/
def F.secAttCtl_pkg : Fld := ⟨0x100190, 0, 12, 0⟩
/-- SEC_EXT_CTL.go (R500), W1S. -/
def F.secExtCtl_go : Fld := ⟨0x100630, 31, 1, 0⟩
/-- SEC_EXT_CTL.index (R500), RW. -/
def F.secExtCtl_index : Fld := ⟨0x100630, 0, 4, 8⟩
/-- SEC_KEY_CTL.go (R504), W1S. -/
def F.secKeyCtl_go : Fld := ⟨0x100790, 31, 1, 0⟩
/-- SEC_KEY_CTL.op (R504), RW. -/
def F.secKeyCtl_op : Fld := ⟨0x100790, 28, 3, 0⟩
/-- SEC_KEY_CTL.status (R504), RO. -/
def F.secKeyCtl_status : Fld := ⟨0x100790, 24, 4, 0⟩
/-- SEC_KEY_CTL.part (R504), RW. -/
def F.secKeyCtl_part : Fld := ⟨0x100790, 8, 4, 0⟩
/-- SEC_KEY_CTL.slot (R504), RW. -/
def F.secKeyCtl_slot : Fld := ⟨0x100790, 0, 6, 0⟩
/-- SEC_KEY_ATTR.kind (R504), RO. -/
def F.secKeyAttr_kind (i : Nat) : Fld := ⟨0x100800 + i * 0x4, 30, 2, 0⟩
/-- SEC_KEY_ATTR.part (R504), RO. -/
def F.secKeyAttr_part (i : Nat) : Fld := ⟨0x100800 + i * 0x4, 0, 4, 0⟩
/-- SEC_PEER_ATT.result (R503), RO. -/
def F.secPeerAtt_result (i : Nat) : Fld := ⟨0x101000 + i * 0x4, 30, 2, 0⟩
/-- SEC_PEER_ATT.age_ms (R503), RO. -/
def F.secPeerAtt_age_ms (i : Nat) : Fld := ⟨0x101000 + i * 0x4, 16, 14, 0x3fff⟩
/-- SEC_PEER_ATT.svn (R503), RO. -/
def F.secPeerAtt_svn (i : Nat) : Fld := ⟨0x101000 + i * 0x4, 0, 8, 0⟩
/-- ECU_STAT.halted (R478), RO. -/
def F.ecuStat_halted : Fld := ⟨0x200000, 31, 1, 0⟩
/-- ECU_STAT.active (R478), RO. -/
def F.ecuStat_active : Fld := ⟨0x200000, 16, 8, 0⟩
/-- ECU_STAT.last_code (R478), RO. -/
def F.ecuStat_last_code : Fld := ⟨0x200000, 0, 16, 0⟩
/-- ECU_FENCE.fenced (R478), RO. -/
def F.ecuFence_fenced : Fld := ⟨0x200008, 0, 32, 0⟩
/-- ECU_FENCE_CTL.go (R479), W1S. -/
def F.ecuFenceCtl_go : Fld := ⟨0x20000c, 31, 1, 0⟩
/-- ECU_FENCE_CTL.op (R479), RW. -/
def F.ecuFenceCtl_op : Fld := ⟨0x20000c, 28, 3, 0⟩
/-- ECU_FENCE_CTL.status (R479), RO. -/
def F.ecuFenceCtl_status : Fld := ⟨0x20000c, 24, 4, 0⟩
/-- ECU_FENCE_CTL.busy (R479), RO. -/
def F.ecuFenceCtl_busy : Fld := ⟨0x20000c, 23, 1, 0⟩
/-- ECU_FENCE_CTL.quadrant (R479), RW. -/
def F.ecuFenceCtl_quadrant : Fld := ⟨0x20000c, 0, 5, 0⟩
/-- ECU_SEAM.retired (R478), RO. -/
def F.ecuSeam_retired : Fld := ⟨0x200010, 0, 14, 0⟩
/-- ECU_FACET.retired (R478), RO. -/
def F.ecuFacet_retired : Fld := ⟨0x200014, 0, 8, 0⟩
/-- ECU_STK.dev_retired (R478), RO. -/
def F.ecuStk_dev_retired (i : Nat) : Fld := ⟨0x200020 + i * 0x4, 31, 1, 0⟩
/-- ECU_STK.ch_retired (R478), RO. -/
def F.ecuStk_ch_retired (i : Nat) : Fld := ⟨0x200020 + i * 0x4, 30, 1, 0⟩
/-- ECU_STK.channel (R478), RO. -/
def F.ecuStk_channel (i : Nat) : Fld := ⟨0x200020 + i * 0x4, 0, 5, 0⟩
/-- ECU_SPARE.base_rows (R478), RO. -/
def F.ecuSpare_base_rows (i : Nat) : Fld := ⟨0x200050 + i * 0x4, 0, 16, 0⟩
/-- ECU_POLICY.stk_uc_max (R479), RW. -/
def F.ecuPolicy_stk_uc_max : Fld := ⟨0x200070, 24, 8, 4⟩
/-- ECU_POLICY.row_corr_max (R479), RW. -/
def F.ecuPolicy_row_corr_max : Fld := ⟨0x200070, 16, 8, 0x40⟩
/-- ECU_LOG_TAIL.seq (R481), RO. -/
def F.ecuLogTail_seq : Fld := ⟨0x200100, 0, 32, 0⟩
/-- ECU_LOG_DROP.lost (R481), RO. -/
def F.ecuLogDrop_lost : Fld := ⟨0x200104, 0, 32, 0⟩
/-- ECU_LOG_DUR.seq (R481), RO. -/
def F.ecuLogDur_seq : Fld := ⟨0x200108, 0, 32, 0⟩
/-- ECU_LOG_PREV.n (R481), RO. -/
def F.ecuLogPrev_n : Fld := ⟨0x20010c, 0, 13, 0⟩
/-- ECU_CUT_SET.quadrants (R486), RW. -/
def F.ecuCutSet_quadrants : Fld := ⟨0x200200, 0, 32, 0⟩
/-- ECU_CUT_ADDR.addr (R486), RW. -/
def F.ecuCutAddr_addr : Fld := ⟨0x200208, 21, 43, 0⟩
/-- ECU_CUT_CTL.go (R486), W1S. -/
def F.ecuCutCtl_go : Fld := ⟨0x200210, 31, 1, 0⟩
/-- ECU_CUT_CTL.op (R486), RW. -/
def F.ecuCutCtl_op : Fld := ⟨0x200210, 28, 3, 0⟩
/-- ECU_CUT_CTL.mailbox (R486), RW. -/
def F.ecuCutCtl_mailbox : Fld := ⟨0x200210, 24, 4, 0⟩
/-- ECU_CUT_CTL.state (R486), RO. -/
def F.ecuCutCtl_state : Fld := ⟨0x200210, 20, 4, 0⟩
/-- ECU_CUT_CTL.status (R486), RO. -/
def F.ecuCutCtl_status : Fld := ⟨0x200210, 16, 4, 0⟩
/-- ECU_CUT_CTL.code (R486), RO. -/
def F.ecuCutCtl_code : Fld := ⟨0x200210, 0, 16, 0⟩
/-- REQ_NOW.us (R370), RO. -/
def F.reqNow_us : Fld := ⟨0x300000, 0, 64, 0⟩
/-- REQ_LIVE.live (R370), RO. -/
def F.reqLive_live : Fld := ⟨0x300008, 0, 17, 0⟩
/-- REQ_DROP.stale (R370), RO. -/
def F.reqDrop_stale : Fld := ⟨0x300010, 32, 32, 0⟩
/-- REQ_DROP.discarded (R370), RO. -/
def F.reqDrop_discarded : Fld := ⟨0x300010, 0, 32, 0⟩
/-- REQ_CMD.id (R401), WO. -/
def F.reqCmd_id : Fld := ⟨0x300018, 32, 32, 0⟩
/-- REQ_CMD.op (R401), WO. -/
def F.reqCmd_op : Fld := ⟨0x300018, 28, 4, 0⟩
/-- REQ_CMD.arg (R401), WO. -/
def F.reqCmd_arg : Fld := ⟨0x300018, 0, 16, 0⟩
/-- REQ_CMD_STAT.busy (R401), RO. -/
def F.reqCmdStat_busy : Fld := ⟨0x300020, 31, 1, 0⟩
/-- REQ_CMD_STAT.status (R401), RO. -/
def F.reqCmdStat_status : Fld := ⟨0x300020, 0, 4, 0⟩
/-- REQ_SQ_BASE.addr (R371), RW. -/
def F.reqSqBase_addr (i : Nat) : Fld := ⟨0x301000 + i * 0x40, 12, 52, 0⟩
/-- REQ_CQ_BASE.addr (R371), RW. -/
def F.reqCqBase_addr (i : Nat) : Fld := ⟨0x301008 + i * 0x40, 12, 52, 0⟩
/-- REQ_Q_CFG.en (R371), RW. -/
def F.reqQCfg_en (i : Nat) : Fld := ⟨0x301010 + i * 0x40, 31, 1, 0⟩
/-- REQ_Q_CFG.irq_en (R371), RW. -/
def F.reqQCfg_irq_en (i : Nat) : Fld := ⟨0x301010 + i * 0x40, 30, 1, 0⟩
/-- REQ_Q_CFG.vector (R371), RW. -/
def F.reqQCfg_vector (i : Nat) : Fld := ⟨0x301010 + i * 0x40, 16, 5, 0⟩
/-- REQ_Q_CFG.cq_log2n (R371), RW. -/
def F.reqQCfg_cq_log2n (i : Nat) : Fld := ⟨0x301010 + i * 0x40, 8, 5, 6⟩
/-- REQ_Q_CFG.sq_log2n (R371), RW. -/
def F.reqQCfg_sq_log2n (i : Nat) : Fld := ⟨0x301010 + i * 0x40, 0, 5, 6⟩
/-- REQ_SQ_TAIL.tail (R371), RW. -/
def F.reqSqTail_tail (i : Nat) : Fld := ⟨0x301014 + i * 0x40, 0, 16, 0⟩
/-- REQ_SQ_HEAD.head (R371), RO. -/
def F.reqSqHead_head (i : Nat) : Fld := ⟨0x301018 + i * 0x40, 0, 16, 0⟩
/-- REQ_CQ_TAIL.tail (R371), RO. -/
def F.reqCqTail_tail (i : Nat) : Fld := ⟨0x30101c + i * 0x40, 0, 16, 0⟩
/-- REQ_CQ_HEAD.head (R371), RW. -/
def F.reqCqHead_head (i : Nat) : Fld := ⟨0x301020 + i * 0x40, 0, 16, 0⟩
/-- REQ_Q_STAT.state (R371), RO. -/
def F.reqQStat_state (i : Nat) : Fld := ⟨0x301024 + i * 0x40, 30, 2, 0⟩
/-- REQ_Q_STAT.code (R371), RO. -/
def F.reqQStat_code (i : Nat) : Fld := ⟨0x301024 + i * 0x40, 0, 16, 0⟩
/-- REQ_SVC_ADDR.addr (R375), RW. -/
def F.reqSvcAddr_addr (i : Nat) : Fld := ⟨0x302000 + i * 0x10, 8, 56, 0⟩
/-- REQ_SVC_CTL.go (R375), W1S. -/
def F.reqSvcCtl_go (i : Nat) : Fld := ⟨0x302008 + i * 0x10, 31, 1, 0⟩
/-- REQ_SVC_CTL.op (R375), RW. -/
def F.reqSvcCtl_op (i : Nat) : Fld := ⟨0x302008 + i * 0x10, 24, 4, 0⟩
/-- REQ_SVC_CTL.status (R375), RO. -/
def F.reqSvcCtl_status (i : Nat) : Fld := ⟨0x302008 + i * 0x10, 20, 4, 0⟩
/-- REQ_SVC_CTL.code (R375), RO. -/
def F.reqSvcCtl_code (i : Nat) : Fld := ⟨0x302008 + i * 0x10, 0, 16, 0⟩
/-- REQ_POOL_BASE.addr (R386), RW. -/
def F.reqPoolBase_addr (i : Nat) : Fld := ⟨0x303000 + i * 0x20, 8, 56, 0⟩
/-- REQ_POOL_PAGE.en (R386), RW. -/
def F.reqPoolPage_en (i : Nat) : Fld := ⟨0x303008 + i * 0x20, 31, 1, 0⟩
/-- REQ_POOL_PAGE.page_units (R386), RW. -/
def F.reqPoolPage_page_units (i : Nat) : Fld := ⟨0x303008 + i * 0x20, 0, 24, 0⟩
/-- REQ_POOL_N.npages (R386), RW. -/
def F.reqPoolN_npages (i : Nat) : Fld := ⟨0x30300c + i * 0x20, 0, 24, 0⟩
/-- REQ_POOL_FREE.free (R386), RO. -/
def F.reqPoolFree_free (i : Nat) : Fld := ⟨0x303010 + i * 0x20, 0, 24, 0⟩
/-- REQ_POOL_LOW.low_water (R386), RW. -/
def F.reqPoolLow_low_water (i : Nat) : Fld := ⟨0x303014 + i * 0x20, 0, 24, 0⟩
/-- REQ_GRP_STAT.state (R381), RO. -/
def F.reqGrpStat_state (i : Nat) : Fld := ⟨0x304000 + i * 0x8, 30, 2, 0⟩
/-- REQ_GRP_STAT.service (R381), RO. -/
def F.reqGrpStat_service (i : Nat) : Fld := ⟨0x304000 + i * 0x8, 24, 6, 0⟩
/-- REQ_GRP_STAT.placed (R381), RO. -/
def F.reqGrpStat_placed (i : Nat) : Fld := ⟨0x304000 + i * 0x8, 0, 24, 0⟩
/-- REQ_GRP_CTL.reset (R381), W1S. -/
def F.reqGrpCtl_reset (i : Nat) : Fld := ⟨0x304004 + i * 0x8, 0, 1, 0⟩
/-- REQ_PFX_BASE.addr (R392), RW. -/
def F.reqPfxBase_addr : Fld := ⟨0x305000, 12, 52, 0⟩
/-- REQ_PFX_CFG.en (R392), RW. -/
def F.reqPfxCfg_en : Fld := ⟨0x305008, 31, 1, 0⟩
/-- REQ_PFX_CFG.log2nodes (R392), RW. -/
def F.reqPfxCfg_log2nodes : Fld := ⟨0x305008, 0, 5, 0xa⟩
/-- REQ_PFX_STAT.reused (R392), RO. -/
def F.reqPfxStat_reused : Fld := ⟨0x305010, 32, 32, 0⟩
/-- REQ_PFX_STAT.nodes (R392), RO. -/
def F.reqPfxStat_nodes : Fld := ⟨0x305010, 0, 21, 0⟩
/-- ING_CFG.shard_tmo_us (R321), RW. -/
def F.ingCfg_shard_tmo_us : Fld := ⟨0x400000, 0, 20, 0x3e8⟩
/-- ING_UNIT_IN.bytes (R322), RO. -/
def F.ingUnitIn_bytes (i : Nat) : Fld := ⟨0x400100 + i * 0x20, 0, 64, 0⟩
/-- ING_UNIT_OUT.bytes (R322), RO. -/
def F.ingUnitOut_bytes (i : Nat) : Fld := ⟨0x400108 + i * 0x20, 0, 64, 0⟩
/-- ING_UNIT_SHARD.retries (R322), RO. -/
def F.ingUnitShard_retries (i : Nat) : Fld := ⟨0x400110 + i * 0x20, 32, 32, 0⟩
/-- ING_UNIT_SHARD.shards (R322), RO. -/
def F.ingUnitShard_shards (i : Nat) : Fld := ⟨0x400110 + i * 0x20, 0, 32, 0⟩
/-- ING_BIND_IMAGE.addr (R308), RW. -/
def F.ingBindImage_addr (i : Nat) : Fld := ⟨0x410000 + i * 0x40, 8, 56, 0⟩
/-- ING_BIND_NEXT.addr (R308), RW. -/
def F.ingBindNext_addr (i : Nat) : Fld := ⟨0x410008 + i * 0x40, 8, 56, 0⟩
/-- ING_BIND_PLACE.addr (R308), RW. -/
def F.ingBindPlace_addr (i : Nat) : Fld := ⟨0x410010 + i * 0x40, 8, 56, 0⟩
/-- ING_BIND_STAGE.addr (R308), RW. -/
def F.ingBindStage_addr (i : Nat) : Fld := ⟨0x410018 + i * 0x40, 8, 56, 0⟩
/-- ING_BIND_CTL.go (R308), W1S. -/
def F.ingBindCtl_go (i : Nat) : Fld := ⟨0x410020 + i * 0x40, 31, 1, 0⟩
/-- ING_BIND_CTL.part (R308), RW. -/
def F.ingBindCtl_part (i : Nat) : Fld := ⟨0x410020 + i * 0x40, 8, 4, 0⟩
/-- ING_BIND_CTL.op (R308), RW. -/
def F.ingBindCtl_op (i : Nat) : Fld := ⟨0x410020 + i * 0x40, 0, 4, 0⟩
/-- ING_BIND_STAT.state (R308), RO. -/
def F.ingBindStat_state (i : Nat) : Fld := ⟨0x410028 + i * 0x40, 61, 3, 0⟩
/-- ING_BIND_STAT.committed (R308), RO. -/
def F.ingBindStat_committed (i : Nat) : Fld := ⟨0x410028 + i * 0x40, 48, 13, 0⟩
/-- ING_BIND_STAT.failed (R308), RO. -/
def F.ingBindStat_failed (i : Nat) : Fld := ⟨0x410028 + i * 0x40, 35, 13, 0⟩
/-- ING_BIND_STAT.version (R308), RO. -/
def F.ingBindStat_version (i : Nat) : Fld := ⟨0x410028 + i * 0x40, 16, 16, 0⟩
/-- ING_BIND_STAT.code (R308), RO. -/
def F.ingBindStat_code (i : Nat) : Fld := ⟨0x410028 + i * 0x40, 0, 16, 0⟩
/-- ING_WIN_CFG.en (R311), RW. -/
def F.ingWinCfg_en (i : Nat) : Fld := ⟨0x420000 + i * 0x20, 31, 1, 0⟩
/-- ING_WIN_CFG.mode (R311), RW. -/
def F.ingWinCfg_mode (i : Nat) : Fld := ⟨0x420000 + i * 0x20, 30, 1, 0⟩
/-- ING_WIN_CFG.dst_sel (R311), RW. -/
def F.ingWinCfg_dst_sel (i : Nat) : Fld := ⟨0x420000 + i * 0x20, 29, 1, 0⟩
/-- ING_WIN_CFG.size_m1 (R311), RW. -/
def F.ingWinCfg_size_m1 (i : Nat) : Fld := ⟨0x420000 + i * 0x20, 23, 6, 0⟩
/-- ING_WIN_CFG.first (R311), RW. -/
def F.ingWinCfg_first (i : Nat) : Fld := ⟨0x420000 + i * 0x20, 8, 12, 0⟩
/-- ING_WIN_CFG.binding (R311), RW. -/
def F.ingWinCfg_binding (i : Nat) : Fld := ⟨0x420000 + i * 0x20, 0, 8, 0⟩
/-- ING_WIN_SLOTS.addr (R311), RW. -/
def F.ingWinSlots_addr (i : Nat) : Fld := ⟨0x420008 + i * 0x20, 8, 56, 0⟩
/-- ING_WIN_SLOTB.slot_len (R311), RW. -/
def F.ingWinSlotb_slot_len (i : Nat) : Fld := ⟨0x420010 + i * 0x20, 0, 32, 0⟩
/-- ING_WIN_POS.active (R311), RO. -/
def F.ingWinPos_active (i : Nat) : Fld := ⟨0x420018 + i * 0x20, 31, 1, 0⟩
/-- ING_WIN_POS.pos (R311), RO. -/
def F.ingWinPos_pos (i : Nat) : Fld := ⟨0x420018 + i * 0x20, 0, 12, 0⟩
/-- STR_MAP_PAGE.page (R240), RW. -/
def F.strMapPage_page : Fld := ⟨0x580000, 0, 24, 0⟩
/-- STR_MAP_ARG.count_m1 (R241), RW. -/
def F.strMapArg_count_m1 : Fld := ⟨0x580008, 48, 16, 0⟩
/-- STR_MAP_ARG.tier (R241), RW. -/
def F.strMapArg_tier : Fld := ⟨0x580008, 40, 2, 0⟩
/-- STR_MAP_ARG.place_any (R241), RW. -/
def F.strMapArg_place_any : Fld := ⟨0x580008, 39, 1, 0⟩
/-- STR_MAP_ARG.unit (R241), RW. -/
def F.strMapArg_unit : Fld := ⟨0x580008, 34, 5, 0⟩
/-- STR_MAP_ARG.part (R241), RW. -/
def F.strMapArg_part : Fld := ⟨0x580008, 30, 4, 0⟩
/-- STR_MAP_ARG.ro (R241), RW. -/
def F.strMapArg_ro : Fld := ⟨0x580008, 29, 1, 0⟩
/-- STR_MAP_ARG.hint (R241), RW. -/
def F.strMapArg_hint : Fld := ⟨0x580008, 27, 2, 0⟩
/-- STR_MAP_CTL.go (R242), W1S. -/
def F.strMapCtl_go : Fld := ⟨0x580010, 31, 1, 0⟩
/-- STR_MAP_CTL.op (R242), RW. -/
def F.strMapCtl_op : Fld := ⟨0x580010, 0, 4, 0⟩
/-- STR_MAP_STAT.busy (R242), RO. -/
def F.strMapStat_busy : Fld := ⟨0x580014, 31, 1, 0⟩
/-- STR_MAP_STAT.status (R242), RO. -/
def F.strMapStat_status : Fld := ⟨0x580014, 24, 4, 0⟩
/-- STR_MAP_STAT.done (R242), RO. -/
def F.strMapStat_done : Fld := ⟨0x580014, 0, 17, 0⟩
/-- STR_MAP_PTE.pte (R243), RO. -/
def F.strMapPte_pte : Fld := ⟨0x580018, 0, 64, 0⟩
/-- STR_MIG_CTL.auto (R250), RW. -/
def F.strMigCtl_auto : Fld := ⟨0x580020, 31, 1, 0⟩
/-- STR_MIG_CTL.max_inflight (R250), RW. -/
def F.strMigCtl_max_inflight : Fld := ⟨0x580020, 24, 5, 8⟩
/-- STR_MIG_CTL.low_water (R250), RW. -/
def F.strMigCtl_low_water : Fld := ⟨0x580020, 0, 15, 0x800⟩
/-- STR_MIG_STAT.completed (R250), RO. -/
def F.strMigStat_completed : Fld := ⟨0x580028, 32, 32, 0⟩
/-- STR_MIG_STAT.abandoned (R250), RO. -/
def F.strMigStat_abandoned : Fld := ⟨0x580028, 16, 16, 0⟩
/-- STR_MIG_STAT.inflight (R250), RO. -/
def F.strMigStat_inflight : Fld := ⟨0x580028, 0, 5, 0⟩
/-- STR_FRAME_FREE.total (R246), RO. -/
def F.strFrameFree_total (i : Nat) : Fld := ⟨0x580100 + i * 0x8, 32, 24, 0⟩
/-- STR_FRAME_FREE.free (R246), RO. -/
def F.strFrameFree_free (i : Nat) : Fld := ⟨0x580100 + i * 0x8, 0, 24, 0⟩
/-- STR_HQ_BASE.addr (R283), RW. -/
def F.strHqBase_addr (i : Nat) : Fld := ⟨0x581000 + i * 0x40, 12, 52, 0⟩
/-- STR_HQ_CPL_BASE.addr (R283), RW. -/
def F.strHqCplBase_addr (i : Nat) : Fld := ⟨0x581008 + i * 0x40, 12, 52, 0⟩
/-- STR_HQ_CFG.en (R284), RW. -/
def F.strHqCfg_en (i : Nat) : Fld := ⟨0x581010 + i * 0x40, 31, 1, 0⟩
/-- STR_HQ_CFG.irq_en (R284), RW. -/
def F.strHqCfg_irq_en (i : Nat) : Fld := ⟨0x581010 + i * 0x40, 30, 1, 0⟩
/-- STR_HQ_CFG.vector (R284), RW. -/
def F.strHqCfg_vector (i : Nat) : Fld := ⟨0x581010 + i * 0x40, 16, 5, 0⟩
/-- STR_HQ_CFG.log2n (R284), RW. -/
def F.strHqCfg_log2n (i : Nat) : Fld := ⟨0x581010 + i * 0x40, 0, 5, 6⟩
/-- STR_HQ_TAIL.tail (R285), RW. -/
def F.strHqTail_tail (i : Nat) : Fld := ⟨0x581014 + i * 0x40, 0, 16, 0⟩
/-- STR_HQ_HEAD.head (R285), RO. -/
def F.strHqHead_head (i : Nat) : Fld := ⟨0x581018 + i * 0x40, 0, 16, 0⟩
/-- STR_HQ_CTAIL.ctail (R285), RO. -/
def F.strHqCtail_ctail (i : Nat) : Fld := ⟨0x58101c + i * 0x40, 0, 16, 0⟩
/-- STR_HQ_CHEAD.chead (R285), RW. -/
def F.strHqChead_chead (i : Nat) : Fld := ⟨0x581020 + i * 0x40, 0, 16, 0⟩
/-- STR_HQ_STAT.state (R286), RO. -/
def F.strHqStat_state (i : Nat) : Fld := ⟨0x581024 + i * 0x40, 30, 2, 0⟩
/-- STR_HQ_STAT.code (R286), RO. -/
def F.strHqStat_code (i : Nat) : Fld := ⟨0x581024 + i * 0x40, 0, 16, 0⟩
/-- STR_HQ_CTL.abort (R286), W1S. -/
def F.strHqCtl_abort (i : Nat) : Fld := ⟨0x581028 + i * 0x40, 1, 1, 0⟩
/-- STR_HQ_CTL.resume (R286), W1S. -/
def F.strHqCtl_resume (i : Nat) : Fld := ⟨0x581028 + i * 0x40, 0, 1, 0⟩
/-- STR_HQ_FAULT.addr (R287), RO. -/
def F.strHqFault_addr (i : Nat) : Fld := ⟨0x581030 + i * 0x40, 0, 64, 0⟩
/-- STR_HQ_FINFO.side (R287), RO. -/
def F.strHqFinfo_side (i : Nat) : Fld := ⟨0x581038 + i * 0x40, 31, 1, 0⟩
/-- STR_HQ_FINFO.entry (R287), RO. -/
def F.strHqFinfo_entry (i : Nat) : Fld := ⟨0x581038 + i * 0x40, 0, 16, 0⟩
/-- CHD_PKG_ID.gen (R441), RW. -/
def F.chdPkgId_gen : Fld := ⟨0x600000, 16, 8, 0⟩
/-- CHD_PKG_ID.pkg (R441), RW. -/
def F.chdPkgId_pkg : Fld := ⟨0x600000, 0, 12, 0⟩
/-- CHD_CFG.en (R441), RW. -/
def F.chdCfg_en : Fld := ⟨0x600004, 31, 1, 0⟩
/-- CHD_CFG.ver_max (R441), RO. -/
def F.chdCfg_ver_max : Fld := ⟨0x600004, 8, 8, 3⟩
/-- CHD_CFG.ver_min (R441), RO. -/
def F.chdCfg_ver_min : Fld := ⟨0x600004, 0, 8, 2⟩
/-- CHD_DROP.stale (R461), RO. -/
def F.chdDrop_stale : Fld := ⟨0x600010, 32, 32, 0⟩
/-- CHD_DROP.quarantined (R461), RO. -/
def F.chdDrop_quarantined : Fld := ⟨0x600010, 0, 32, 0⟩
/-- CHD_ERR.auth (R461), RO. -/
def F.chdErr_auth : Fld := ⟨0x600018, 32, 32, 0⟩
/-- CHD_ERR.dup (R461), RO. -/
def F.chdErr_dup : Fld := ⟨0x600018, 0, 32, 0⟩
/-- CHD_LINK_CTL.en (R442), RW. -/
def F.chdLinkCtl_en (i : Nat) : Fld := ⟨0x600100 + i * 0x20, 31, 1, 1⟩
/-- CHD_LINK_CTL.retrain (R442), W1S. -/
def F.chdLinkCtl_retrain (i : Nat) : Fld := ⟨0x600100 + i * 0x20, 30, 1, 0⟩
/-- CHD_LINK_CTL.test (R442), RW. -/
def F.chdLinkCtl_test (i : Nat) : Fld := ⟨0x600100 + i * 0x20, 28, 2, 0⟩
/-- CHD_LINK_STAT.state (R442), RO. -/
def F.chdLinkStat_state (i : Nat) : Fld := ⟨0x600104 + i * 0x20, 29, 3, 0⟩
/-- CHD_LINK_STAT.version (R442), RO. -/
def F.chdLinkStat_version (i : Nat) : Fld := ⟨0x600104 + i * 0x20, 16, 8, 0⟩
/-- CHD_LINK_STAT.lanes_ok (R442), RO. -/
def F.chdLinkStat_lanes_ok (i : Nat) : Fld := ⟨0x600104 + i * 0x20, 8, 8, 0⟩
/-- CHD_LINK_STAT.trains (R442), RO. -/
def F.chdLinkStat_trains (i : Nat) : Fld := ⟨0x600104 + i * 0x20, 0, 8, 0⟩
/-- CHD_FEC_CNT.uncorrectable (R442), RO. -/
def F.chdFecCnt_uncorrectable (i : Nat) : Fld := ⟨0x600108 + i * 0x20, 32, 32, 0⟩
/-- CHD_FEC_CNT.corrected (R442), RO. -/
def F.chdFecCnt_corrected (i : Nat) : Fld := ⟨0x600108 + i * 0x20, 0, 32, 0⟩
/-- CHD_REFL.orl (R442), RO. -/
def F.chdRefl_orl (i : Nat) : Fld := ⟨0x600110 + i * 0x20, 16, 16, 0⟩
/-- CHD_REFL.dist (R442), RO. -/
def F.chdRefl_dist (i : Nat) : Fld := ⟨0x600110 + i * 0x20, 4, 12, 0⟩
/-- CHD_REFL.dist_valid (R442), RO. -/
def F.chdRefl_dist_valid (i : Nat) : Fld := ⟨0x600110 + i * 0x20, 3, 1, 0⟩
/-- CHD_OPT.rx_pow (R460), RO. -/
def F.chdOpt_rx_pow (i : Nat) : Fld := ⟨0x601000 + i * 0x4, 16, 16, 0x8000⟩
/-- CHD_OPT.tx_pow (R460), RO. -/
def F.chdOpt_tx_pow (i : Nat) : Fld := ⟨0x601000 + i * 0x4, 0, 16, 0x8000⟩
/-- CHD_LASER.in_pow (R460), RO. -/
def F.chdLaser_in_pow (i : Nat) : Fld := ⟨0x601800 + i * 0x4, 0, 16, 0x8000⟩
/-- CHD_PRBS_CTL.gen_en (R459), RW. -/
def F.chdPrbsCtl_gen_en (i : Nat) : Fld := ⟨0x604000 + i * 0x10, 31, 1, 0⟩
/-- CHD_PRBS_CTL.chk_en (R459), RW. -/
def F.chdPrbsCtl_chk_en (i : Nat) : Fld := ⟨0x604000 + i * 0x10, 30, 1, 0⟩
/-- CHD_PRBS_CTL.poly (R459), RW. -/
def F.chdPrbsCtl_poly (i : Nat) : Fld := ⟨0x604000 + i * 0x10, 28, 2, 0⟩
/-- CHD_PRBS_CTL.lock (R459), RO. -/
def F.chdPrbsCtl_lock (i : Nat) : Fld := ⟨0x604000 + i * 0x10, 27, 1, 0⟩
/-- CHD_PRBS_ERR.errors (R459), RO. -/
def F.chdPrbsErr_errors (i : Nat) : Fld := ⟨0x604004 + i * 0x10, 0, 32, 0⟩
/-- CHD_PRBS_BITS.kbits (R459), RO. -/
def F.chdPrbsBits_kbits (i : Nat) : Fld := ⟨0x604008 + i * 0x10, 0, 64, 0⟩
/-- CHD_ROUTE.mask (R450), RW. -/
def F.chdRoute_mask (i : Nat) : Fld := ⟨0x608000 + i * 0x8, 0, 64, 0xffffffffffffffff⟩
/-- CHD_PEER.state (R456), RO. -/
def F.chdPeer_state (i : Nat) : Fld := ⟨0x610000 + i * 0x4, 30, 2, 0⟩
/-- CHD_PEER.gen (R456), RO. -/
def F.chdPeer_gen (i : Nat) : Fld := ⟨0x610000 + i * 0x4, 20, 8, 0⟩
/-- CHD_PEER.part_mask (R456), RW. -/
def F.chdPeer_part_mask (i : Nat) : Fld := ⟨0x610000 + i * 0x4, 0, 16, 0⟩
/-- CHD_PEER_CTL.go (R456), W1S. -/
def F.chdPeerCtl_go : Fld := ⟨0x614000, 31, 1, 0⟩
/-- CHD_PEER_CTL.op (R456), RW. -/
def F.chdPeerCtl_op : Fld := ⟨0x614000, 28, 3, 0⟩
/-- CHD_PEER_CTL.gen (R456), RW. -/
def F.chdPeerCtl_gen : Fld := ⟨0x614000, 20, 8, 0⟩
/-- CHD_PEER_CTL.status (R456), RO. -/
def F.chdPeerCtl_status : Fld := ⟨0x614000, 16, 4, 0⟩
/-- CHD_PEER_CTL.pkg (R456), RW. -/
def F.chdPeerCtl_pkg : Fld := ⟨0x614000, 0, 12, 0⟩
/-- CHD_PART_CRYPT.req (R458), RW. -/
def F.chdPartCrypt_req (i : Nat) : Fld := ⟨0x614100 + i * 0x4, 31, 1, 0⟩
/-- CHD_PART_CRYPT.active (R458), RW. -/
def F.chdPartCrypt_active (i : Nat) : Fld := ⟨0x614100 + i * 0x4, 30, 1, 0⟩
/-- CHD_PART_CRYPT.slot_b (R458), RW. -/
def F.chdPartCrypt_slot_b (i : Nat) : Fld := ⟨0x614100 + i * 0x4, 8, 8, 0⟩
/-- CHD_PART_CRYPT.slot_a (R458), RW. -/
def F.chdPartCrypt_slot_a (i : Nat) : Fld := ⟨0x614100 + i * 0x4, 0, 8, 0⟩
/-- CHD_ROUTE_EFF.mask (R450), RO. -/
def F.chdRouteEff_mask (i : Nat) : Fld := ⟨0x618000 + i * 0x8, 0, 64, 0⟩
/-- SEQ_SLOT_CTX.bound (R407), RW. -/
def F.seqSlotCtx_bound (q i : Nat) : Fld := ⟨quadBlock q + 0x300 + i * 0x4, 31, 1, 0⟩
/-- SEQ_SLOT_CTX.irq_en (R407), RW. -/
def F.seqSlotCtx_irq_en (q i : Nat) : Fld := ⟨quadBlock q + 0x300 + i * 0x4, 30, 1, 0⟩
/-- SEQ_SLOT_CTX.vector (R407), RW. -/
def F.seqSlotCtx_vector (q i : Nat) : Fld := ⟨quadBlock q + 0x300 + i * 0x4, 16, 5, 0⟩
/-- SEQ_SLOT_CTX.ctx (R407), RW. -/
def F.seqSlotCtx_ctx (q i : Nat) : Fld := ⟨quadBlock q + 0x300 + i * 0x4, 0, 6, 0⟩
/-- SEQ_CQ_PUSH.tag (R409), WO. -/
def F.seqCqPush_tag (q i : Nat) : Fld := ⟨quadBlock q + 0x340 + i * 0x8, 32, 16, 0⟩
/-- SEQ_CQ_PUSH.irq (R409), WO. -/
def F.seqCqPush_irq (q i : Nat) : Fld := ⟨quadBlock q + 0x340 + i * 0x8, 31, 1, 0⟩
/-- SEQ_CQ_PUSH.start (R409), WO. -/
def F.seqCqPush_start (q i : Nat) : Fld := ⟨quadBlock q + 0x340 + i * 0x8, 0, 14, 0⟩
/-- SEQ_CQ_STAT.overflow (R410), W1C. -/
def F.seqCqStat_overflow (q i : Nat) : Fld := ⟨quadBlock q + 0x380 + i * 0x4, 31, 1, 0⟩
/-- SEQ_CQ_STAT.queued (R410), RO. -/
def F.seqCqStat_queued (q i : Nat) : Fld := ⟨quadBlock q + 0x380 + i * 0x4, 16, 5, 0⟩
/-- SEQ_CQ_STAT.done (R410), RO. -/
def F.seqCqStat_done (q i : Nat) : Fld := ⟨quadBlock q + 0x380 + i * 0x4, 0, 16, 0⟩
/-- SEQ_CQ_DONE.code (R410), RO. -/
def F.seqCqDone_code (q i : Nat) : Fld := ⟨quadBlock q + 0x3a0 + i * 0x4, 16, 16, 0⟩
/-- SEQ_CQ_DONE.tag (R410), RO. -/
def F.seqCqDone_tag (q i : Nat) : Fld := ⟨quadBlock q + 0x3a0 + i * 0x4, 0, 16, 0⟩
/-- SEQ_NFLAG.first_site (R124), RO. -/
def F.seqNflag_first_site (q i : Nat) : Fld := ⟨quadBlock q + 0x400 + i * 0x4, 24, 8, 0xff⟩
/-- SEQ_NFLAG.stop (R124), RW. -/
def F.seqNflag_stop (q i : Nat) : Fld := ⟨quadBlock q + 0x400 + i * 0x4, 16, 5, 0⟩
/-- SEQ_NFLAG.flags (R124), W1C. -/
def F.seqNflag_flags (q i : Nat) : Fld := ⟨quadBlock q + 0x400 + i * 0x4, 0, 5, 0⟩
/-- SEQ_NFLAG_Q.flags (R126), RO. -/
def F.seqNflagQ_flags (q : Nat) : Fld := ⟨quadBlock q + 0x420, 0, 5, 0⟩
/-- SEQ_PC.held (R178), RO. -/
def F.seqPc_held (q i : Nat) : Fld := ⟨quadBlock q + 0x440 + i * 0x4, 31, 1, 0⟩
/-- SEQ_PC.kind (R178), RO. -/
def F.seqPc_kind (q i : Nat) : Fld := ⟨quadBlock q + 0x440 + i * 0x4, 27, 4, 0⟩
/-- SEQ_PC.active (R178), RO. -/
def F.seqPc_active (q i : Nat) : Fld := ⟨quadBlock q + 0x440 + i * 0x4, 14, 1, 0⟩
/-- SEQ_PC.step (R178), RO. -/
def F.seqPc_step (q i : Nat) : Fld := ⟨quadBlock q + 0x440 + i * 0x4, 0, 14, 0⟩
/-- SEQ_SEC_CTL.load (R200), W1S. -/
def F.seqSecCtl_load (q : Nat) : Fld := ⟨quadBlock q + 0x600, 31, 1, 0⟩
/-- SEQ_SEC_CTL.commit (R200), W1S. -/
def F.seqSecCtl_commit (q : Nat) : Fld := ⟨quadBlock q + 0x600, 30, 1, 0⟩
/-- SEQ_SEC_CTL.discard (R200), W1S. -/
def F.seqSecCtl_discard (q : Nat) : Fld := ⟨quadBlock q + 0x600, 29, 1, 0⟩
/-- SEQ_SEC_CTL.busy (R200), RO. -/
def F.seqSecCtl_busy (q : Nat) : Fld := ⟨quadBlock q + 0x600, 0, 1, 0⟩
/-- SEQ_SEC_ADDR.addr (R201), RW. -/
def F.seqSecAddr_addr (q : Nat) : Fld := ⟨quadBlock q + 0x608, 8, 56, 0⟩
/-- SEQ_SEC_STAT.shadow (R202), RO. -/
def F.seqSecStat_shadow (q : Nat) : Fld := ⟨quadBlock q + 0x610, 30, 2, 0⟩
/-- SEQ_SEC_STAT.committed (R202), RO. -/
def F.seqSecStat_committed (q : Nat) : Fld := ⟨quadBlock q + 0x610, 29, 1, 0⟩
/-- SEQ_SEC_STAT.paired (R202), RO. -/
def F.seqSecStat_paired (q : Nat) : Fld := ⟨quadBlock q + 0x610, 28, 1, 0⟩
/-- SEQ_SEC_STAT.commits (R202), RO. -/
def F.seqSecStat_commits (q : Nat) : Fld := ⟨quadBlock q + 0x610, 16, 8, 0⟩
/-- SEQ_SEC_STAT.last_refusal (R202), RO. -/
def F.seqSecStat_last_refusal (q : Nat) : Fld := ⟨quadBlock q + 0x610, 0, 16, 0⟩
/-- SEQ_SEC_ID.active_id (R203), RO. -/
def F.seqSecId_active_id (q : Nat) : Fld := ⟨quadBlock q + 0x618, 0, 32, 0⟩
/-- SEQ_SEC_SHADOW_ID.shadow_id (R203), RO. -/
def F.seqSecShadowId_shadow_id (q : Nat) : Fld := ⟨quadBlock q + 0x61c, 0, 32, 0⟩
/-- SEQ_SEC_FAULT.code (R222), RO. -/
def F.seqSecFault_code (q : Nat) : Fld := ⟨quadBlock q + 0x620, 48, 16, 0⟩
/-- SEQ_SEC_FAULT.resource (R222), RO. -/
def F.seqSecFault_resource (q : Nat) : Fld := ⟨quadBlock q + 0x620, 40, 8, 0⟩
/-- SEQ_SEC_FAULT.site (R222), RO. -/
def F.seqSecFault_site (q : Nat) : Fld := ⟨quadBlock q + 0x620, 32, 8, 0⟩
/-- SEQ_SEC_FAULT.slot (R222), RO. -/
def F.seqSecFault_slot (q : Nat) : Fld := ⟨quadBlock q + 0x620, 29, 3, 0⟩
/-- SEQ_SEC_FAULT.step (R222), RO. -/
def F.seqSecFault_step (q : Nat) : Fld := ⟨quadBlock q + 0x620, 0, 14, 0⟩
/-- SEQ_FN_CTL.go (R141), W1S. -/
def F.seqFnCtl_go (q : Nat) : Fld := ⟨quadBlock q + 0x800, 31, 1, 0⟩
/-- SEQ_FN_CTL.status (R141), RO. -/
def F.seqFnCtl_status (q : Nat) : Fld := ⟨quadBlock q + 0x800, 20, 4, 0⟩
/-- SEQ_FN_CTL.slot (R141), RW. -/
def F.seqFnCtl_slot (q : Nat) : Fld := ⟨quadBlock q + 0x800, 8, 5, 0⟩
/-- SEQ_FN_CTL.busy (R141), RO. -/
def F.seqFnCtl_busy (q : Nat) : Fld := ⟨quadBlock q + 0x800, 0, 1, 0⟩
/-- SEQ_FN_ADDR.addr (R142), RW. -/
def F.seqFnAddr_addr (q : Nat) : Fld := ⟨quadBlock q + 0x808, 9, 55, 0⟩
/-- SEQ_FN_DIGEST.digest (R143), RO. -/
def F.seqFnDigest_digest (q i : Nat) : Fld := ⟨quadBlock q + 0x900 + i * 0x8, 0, 64, 0⟩
/-- SEQ_GATE_TMO.limit_us (R179), RW. -/
def F.seqGateTmo_limit_us (q i : Nat) : Fld := ⟨quadBlock q + 0xa04 + i * 0x4, 0, 20, if i = 0 then 1000 else if i = 1 then 100000 else 1000000⟩
/-- SEQ_MBOX.value (R180), RW. -/
def F.seqMbox_value (q i : Nat) : Fld := ⟨quadBlock q + 0xb00 + i * 0x4, 0, 32, 0⟩
/-- SEQ_SHAPE.value (R181), RO. -/
def F.seqShape_value (q i j : Nat) : Fld := ⟨quadBlock q + 0xc00 + i * 0x20 + j * 0x4, 0, 32, 0⟩
/-- SEQ_WHEEL0.pos0_7 (R414), RW. -/
def F.seqWheel0_pos0_7 (q : Nat) : Fld := ⟨quadBlock q + 0xd00, 0, 32, 0xfedcba98⟩
/-- SEQ_WHEEL1.pos8_15 (R414), RW. -/
def F.seqWheel1_pos8_15 (q : Nat) : Fld := ⟨quadBlock q + 0xd04, 0, 32, 0xfedcba98⟩
/-- SEQ_PRE_CTL.go (R420), W1S. -/
def F.seqPreCtl_go (q : Nat) : Fld := ⟨quadBlock q + 0xd10, 31, 1, 0⟩
/-- SEQ_PRE_CTL.op (R420), RW. -/
def F.seqPreCtl_op (q : Nat) : Fld := ⟨quadBlock q + 0xd10, 8, 4, 0⟩
/-- SEQ_PRE_CTL.save_area (R420), RW. -/
def F.seqPreCtl_save_area (q : Nat) : Fld := ⟨quadBlock q + 0xd10, 4, 3, 0⟩
/-- SEQ_PRE_CTL.restore_area (R420), RW. -/
def F.seqPreCtl_restore_area (q : Nat) : Fld := ⟨quadBlock q + 0xd10, 0, 3, 0⟩
/-- SEQ_PRE_STAT.busy (R420), RO. -/
def F.seqPreStat_busy (q : Nat) : Fld := ⟨quadBlock q + 0xd14, 31, 1, 0⟩
/-- SEQ_PRE_STAT.phase (R420), RO. -/
def F.seqPreStat_phase (q : Nat) : Fld := ⟨quadBlock q + 0xd14, 28, 3, 0⟩
/-- SEQ_PRE_STAT.status (R420), RO. -/
def F.seqPreStat_status (q : Nat) : Fld := ⟨quadBlock q + 0xd14, 24, 4, 0⟩
/-- SEQ_PRE_STAT.code (R420), RO. -/
def F.seqPreStat_code (q : Nat) : Fld := ⟨quadBlock q + 0xd14, 0, 16, 0⟩
/-- SEQ_PRE_AREA.state (R420), RO. -/
def F.seqPreArea_state (q i : Nat) : Fld := ⟨quadBlock q + 0xd20 + i * 0x8, 30, 2, 0⟩
/-- SEQ_PRE_AREA.paired (R420), RO. -/
def F.seqPreArea_paired (q i : Nat) : Fld := ⟨quadBlock q + 0xd20 + i * 0x8, 29, 1, 0⟩
/-- SEQ_PRE_AREA.part (R420), RO. -/
def F.seqPreArea_part (q i : Nat) : Fld := ⟨quadBlock q + 0xd20 + i * 0x8, 24, 4, 0⟩
/-- SEQ_PRE_AREA_ID.section_id (R420), RO. -/
def F.seqPreAreaId_section_id (q i : Nat) : Fld := ⟨quadBlock q + 0xd24 + i * 0x8, 0, 32, 0⟩
/-- SEQ_GATE_HOLD.held (R182), RO. -/
def F.seqGateHold_held (q i j : Nat) : Fld := ⟨quadBlock q + 0x1000 + i * 0x100 + j * 0x10, 0, 64, 0⟩
/-- SEQ_GATE_STAT.max (R182), RO. -/
def F.seqGateStat_max (q i j : Nat) : Fld := ⟨quadBlock q + 0x1008 + i * 0x100 + j * 0x10, 32, 32, 0⟩
/-- SEQ_GATE_STAT.passes (R182), RO. -/
def F.seqGateStat_passes (q i j : Nat) : Fld := ⟨quadBlock q + 0x1008 + i * 0x100 + j * 0x10, 0, 32, 0⟩
/-- SEQ_DIG_BASE.addr (R341), RW. -/
def F.seqDigBase_addr (q : Nat) : Fld := ⟨quadBlock q + 0x2000, 12, 52, 0⟩
/-- SEQ_DIG_CFG.en (R341), RW. -/
def F.seqDigCfg_en (q : Nat) : Fld := ⟨quadBlock q + 0x2008, 31, 1, 0⟩
/-- SEQ_DIG_CFG.log2n (R341), RW. -/
def F.seqDigCfg_log2n (q : Nat) : Fld := ⟨quadBlock q + 0x2008, 0, 5, 0xa⟩
/-- SEQ_DIG_TAIL.tail (R341), RO. -/
def F.seqDigTail_tail (q : Nat) : Fld := ⟨quadBlock q + 0x200c, 0, 16, 0⟩
/-- SEQ_DIG_HEAD.head (R341), RW. -/
def F.seqDigHead_head (q : Nat) : Fld := ⟨quadBlock q + 0x2010, 0, 16, 0⟩
/-- SEQ_DIG_STAT.dropped (R341), RO. -/
def F.seqDigStat_dropped (q : Nat) : Fld := ⟨quadBlock q + 0x2014, 16, 16, 0⟩
/-- SEQ_DIG_STAT.queued (R341), RO. -/
def F.seqDigStat_queued (q : Nat) : Fld := ⟨quadBlock q + 0x2014, 8, 8, 0⟩
/-- LAT_GEOM.kind (R91), RO. -/
def F.latGeom_kind (q : Nat) : Fld := ⟨quadBlock q + 0x20000, 31, 1, 0⟩
/-- LAT_GEOM.columns (R91), RO. -/
def F.latGeom_columns (q : Nat) : Fld := ⟨quadBlock q + 0x20000, 20, 4, 0⟩
/-- LAT_GEOM.rows (R91), RO. -/
def F.latGeom_rows (q : Nat) : Fld := ⟨quadBlock q + 0x20000, 16, 4, 0⟩
/-- LAT_GEOM.sectors (R91), RO. -/
def F.latGeom_sectors (q : Nat) : Fld := ⟨quadBlock q + 0x20000, 8, 8, 0⟩
/-- LAT_GEOM.prisms (R91), RO. -/
def F.latGeom_prisms (q : Nat) : Fld := ⟨quadBlock q + 0x20000, 0, 8, 0⟩
/-- LAT_SNAP_CTL.snap_seq (R89), RO. -/
def F.latSnapCtl_snap_seq (q : Nat) : Fld := ⟨quadBlock q + 0x20004, 16, 16, 0⟩
/-- LAT_SNAP_CTL.busy (R89), RO. -/
def F.latSnapCtl_busy (q : Nat) : Fld := ⟨quadBlock q + 0x20004, 2, 1, 0⟩
/-- LAT_SNAP_CTL.clear (R89), W1S. -/
def F.latSnapCtl_clear (q : Nat) : Fld := ⟨quadBlock q + 0x20004, 1, 1, 0⟩
/-- LAT_SNAP_CTL.snap (R89), W1S. -/
def F.latSnapCtl_snap (q : Nat) : Fld := ⟨quadBlock q + 0x20004, 0, 1, 0⟩
/-- LAT_SNAP_FC.count (R93), RO. -/
def F.latSnapFc_count (q : Nat) : Fld := ⟨quadBlock q + 0x20008, 0, 64, 0⟩
/-- LAT_Q_RUN.count (R93), RO. -/
def F.latQRun_count (q : Nat) : Fld := ⟨quadBlock q + 0x20010, 0, 64, 0⟩
/-- LAT_Q_HOLD.count (R93), RO. -/
def F.latQHold_count (q : Nat) : Fld := ⟨quadBlock q + 0x20018, 0, 64, 0⟩
/-- LAT_Q_IDLE.count (R93), RO. -/
def F.latQIdle_count (q : Nat) : Fld := ⟨quadBlock q + 0x20020, 0, 64, 0⟩
/-- LAT_ERR_CNT.uncorrectable (R92), RO. -/
def F.latErrCnt_uncorrectable (q : Nat) : Fld := ⟨quadBlock q + 0x20028, 24, 8, 0⟩
/-- LAT_ERR_CNT.merge (R92), RO. -/
def F.latErrCnt_merge (q : Nat) : Fld := ⟨quadBlock q + 0x20028, 16, 8, 0⟩
/-- LAT_ERR_CNT.corrected (R92), RO. -/
def F.latErrCnt_corrected (q : Nat) : Fld := ⟨quadBlock q + 0x20028, 0, 16, 0⟩
/-- LAT_EQ_IN.count (R93), RO. -/
def F.latEqIn_count (q i : Nat) : Fld := ⟨quadBlock q + 0x20100 + i * 0x20, 0, 64, 0⟩
/-- LAT_EQ_STARVE.count (R93), RO. -/
def F.latEqStarve_count (q i : Nat) : Fld := ⟨quadBlock q + 0x20108 + i * 0x20, 0, 64, 0⟩
/-- LAT_EQ_OCC.count (R93), RO. -/
def F.latEqOcc_count (q i : Nat) : Fld := ⟨quadBlock q + 0x20110 + i * 0x20, 0, 64, 0⟩
/-- LAT_EQ_STAT.discarded (R93), RO. -/
def F.latEqStat_discarded (q i : Nat) : Fld := ⟨quadBlock q + 0x20118 + i * 0x20, 16, 16, 0⟩
/-- LAT_EQ_STAT.peak (R93), RO. -/
def F.latEqStat_peak (q i : Nat) : Fld := ⟨quadBlock q + 0x20118 + i * 0x20, 0, 5, 0⟩
/-- LAT_NFLAG.flags (R123), W1C. -/
def F.latNflag_flags (q i : Nat) : Fld := ⟨quadBlock q + 0x20800 + i * 0x4, 0, 5, 0⟩
/-- LAT_P_ARRAY.count (R93), RO. -/
def F.latPArray_count (q i : Nat) : Fld := ⟨quadBlock q + 0x30000 + i * 0x40, 0, 64, 0⟩
/-- LAT_P_ANULL.count (R93), RO. -/
def F.latPAnull_count (q i : Nat) : Fld := ⟨quadBlock q + 0x30008 + i * 0x40, 0, 64, 0⟩
/-- LAT_P_VEC.count (R93), RO. -/
def F.latPVec_count (q i : Nat) : Fld := ⟨quadBlock q + 0x30010 + i * 0x40, 0, 64, 0⟩
/-- LAT_P_VNULL.count (R93), RO. -/
def F.latPVnull_count (q i : Nat) : Fld := ⟨quadBlock q + 0x30018 + i * 0x40, 0, 64, 0⟩
/-- LAT_P_FN.count (R93), RO. -/
def F.latPFn_count (q i : Nat) : Fld := ⟨quadBlock q + 0x30020 + i * 0x40, 0, 64, 0⟩
/-- LAT_V_B1.count (R93), RO. -/
def F.latVB1_count (q i : Nat) : Fld := ⟨quadBlock q + 0x30030 + i * 0x40, 0, 64, 0⟩
/-- LAT_V_DFLT.count (R93), RO. -/
def F.latVDflt_count (q i : Nat) : Fld := ⟨quadBlock q + 0x30038 + i * 0x40, 0, 64, 0⟩

def globalRegs0 : List RegSpec := [
  /- MGT_ID -/ ⟨0x0, 1, 0x0, 1, 0x0, false, .view, [⟨16, 16, 0x3132, .ro⟩, ⟨0, 16, 0x2a5c, .ro⟩]⟩,
  /- MGT_VERSION -/ ⟨0x4, 1, 0x0, 1, 0x0, false, .stored, [⟨16, 8, 3, .ro⟩, ⟨8, 8, 0x30, .ro⟩, ⟨4, 4, 1, .ro⟩, ⟨0, 4, 1, .ro⟩]⟩,
  /- MGT_QUAD_EN -/ ⟨0x8, 1, 0x0, 1, 0x0, false, .view, [⟨24, 8, 0xff, .ro⟩, ⟨0, 24, 0xffffff, .ro⟩]⟩,
  /- MGT_CAP_BLK -/ ⟨0x10, 16, 0x4, 1, 0x0, false, .view, [⟨28, 4, 0, .ro⟩, ⟨22, 6, 0, .ro⟩, ⟨16, 6, 0, .ro⟩, ⟨0, 10, 0, .ro⟩]⟩,
  /- MGT_GEOM -/ ⟨0x1000, 1, 0x0, 1, 0x0, false, .stored, [⟨31, 1, 0, .rwl⟩, ⟨0, 8, 0, .rwl⟩]⟩,
  /- MGT_EPOCH -/ ⟨0x2000, 1, 0x0, 1, 0x0, true, .stored, [⟨0, 64, 0, .ro⟩]⟩,
  /- MGT_PWR_SET -/ ⟨0x2010, 1, 0x0, 1, 0x0, false, .stored, [⟨30, 2, 0, .wo⟩, ⟨0, 16, 0, .wo⟩]⟩,
  /- MGT_PWR_CFG -/ ⟨0x2014, 1, 0x0, 1, 0x0, false, .stored, [⟨31, 1, 0, .rw⟩, ⟨16, 10, 0xc8, .rw⟩]⟩,
  /- MGT_PWR_STAT -/ ⟨0x2018, 1, 0x0, 1, 0x0, false, .stored, [⟨16, 16, 0xaf0, .ro⟩, ⟨0, 16, 0xaf0, .ro⟩]⟩,
  /- MGT_PWR_ACH -/ ⟨0x201c, 1, 0x0, 1, 0x0, false, .stored, [⟨16, 16, 0, .ro⟩, ⟨0, 16, 0, .ro⟩]⟩,
  /- MGT_PWR_FLAGS -/ ⟨0x2020, 1, 0x0, 1, 0x0, false, .stored, [⟨31, 1, 0, .ro⟩, ⟨30, 1, 0, .ro⟩, ⟨29, 1, 0, .ro⟩, ⟨28, 1, 0, .ro⟩, ⟨27, 1, 0, .ro⟩, ⟨26, 1, 0, .ro⟩, ⟨24, 2, 0, .ro⟩]⟩,
  /- MGT_ENERGY -/ ⟨0x2028, 1, 0x0, 1, 0x0, true, .stored, [⟨0, 64, 0, .ro⟩]⟩,
  /- MGT_CLK_CAP -/ ⟨0x2100, 8, 0x4, 1, 0x0, false, .stored, [⟨0, 6, 0x30, .rw⟩]⟩,
  /- MGT_CLK_STAT -/ ⟨0x2120, 8, 0x4, 1, 0x0, false, .stored, [⟨26, 6, 0x30, .ro⟩, ⟨21, 5, 0x10, .ro⟩, ⟨18, 3, 0, .ro⟩, ⟨0, 16, 0x258, .ro⟩]⟩,
  /- MGT_THROT_CFG -/ ⟨0x2140, 1, 0x0, 1, 0x0, false, .stored, [⟨0, 6, 0x10, .rw⟩]⟩,
  /- MGT_THERM_CFG -/ ⟨0x2200, 1, 0x0, 1, 0x0, false, .stored, [⟨0, 8, 0x5f, .rw⟩]⟩,
  /- MGT_TJ -/ ⟨0x2210, 22, 0x4, 1, 0x0, false, .stored, [⟨16, 16, 0x8000, .ro⟩, ⟨0, 16, 0x8000, .ro⟩]⟩,
  /- MGT_FW_ADDR -/ ⟨0x2300, 1, 0x0, 1, 0x0, true, .stored, [⟨12, 52, 0, .rw⟩]⟩,
  /- MGT_FW_CTL -/ ⟨0x2308, 1, 0x0, 1, 0x0, false, .stored, [⟨31, 1, 0, .w1s⟩, ⟨28, 3, 0, .rw⟩, ⟨24, 4, 0, .ro⟩, ⟨23, 1, 0, .ro⟩, ⟨1, 1, 0, .ro⟩, ⟨0, 1, 0, .ro⟩]⟩,
  /- MGT_RST -/ ⟨0x2400, 1, 0x0, 1, 0x0, false, .stored, [⟨31, 1, 0, .w1s⟩, ⟨28, 3, 0, .rw⟩, ⟨24, 4, 0, .ro⟩, ⟨0, 5, 0, .rw⟩]⟩]

def globalRegs1 : List RegSpec := [
  /- MGT_START_STAT -/ ⟨0x2404, 1, 0x0, 1, 0x0, false, .stored, [⟨31, 1, 0, .ro⟩, ⟨30, 1, 0, .ro⟩, ⟨16, 3, 0, .ro⟩, ⟨0, 16, 0, .ro⟩]⟩,
  /- MGT_ALERT -/ ⟨0x2410, 1, 0x0, 1, 0x0, false, .stored, [⟨16, 5, 0, .w1c⟩, ⟨0, 5, 0x1f, .rw⟩]⟩,
  /- MGT_SIDEBAND -/ ⟨0x2414, 1, 0x0, 1, 0x0, false, .stored, [⟨31, 1, 0, .ro⟩, ⟨30, 1, 0, .ro⟩, ⟨29, 1, 0, .ro⟩, ⟨0, 16, 0, .ro⟩]⟩,
  /- MGT_RECAL_CTL -/ ⟨0x2500, 1, 0x0, 1, 0x0, false, .stored, [⟨31, 1, 0, .w1s⟩, ⟨30, 1, 1, .rw⟩, ⟨24, 4, 0, .ro⟩, ⟨23, 1, 0, .ro⟩, ⟨5, 4, 0, .rw⟩, ⟨0, 5, 0, .rw⟩]⟩,
  /- MGT_RECAL_STAT -/ ⟨0x2504, 1, 0x0, 1, 0x0, false, .stored, [⟨0, 32, 0, .ro⟩]⟩,
  /- MGT_ACCT_CTL -/ ⟨0x3f00, 1, 0x0, 1, 0x0, false, .stored, [⟨16, 16, 0, .ro⟩, ⟨2, 1, 0, .ro⟩, ⟨1, 1, 0, .w1s⟩, ⟨0, 1, 0, .w1s⟩]⟩,
  /- MGT_ENERGY_OVH -/ ⟨0x3f10, 1, 0x0, 1, 0x0, true, .stored, [⟨0, 64, 0, .ro⟩]⟩,
  /- MGT_ENERGY_SNAP -/ ⟨0x3f18, 1, 0x0, 1, 0x0, true, .stored, [⟨0, 64, 0, .ro⟩]⟩,
  /- MGT_SAVE_CFG -/ ⟨0x3f20, 1, 0x0, 1, 0x0, false, .stored, [⟨0, 3, 2, .rw⟩]⟩,
  /- MGT_CTX_CFG -/ ⟨0x4000, 64, 0x80, 1, 0x0, false, .stored, [⟨31, 1, 0, .rw⟩, ⟨30, 1, 0, .ro⟩, ⟨16, 4, 0, .rw⟩, ⟨0, 16, 0, .ro⟩]⟩,
  /- MGT_CTX_WAITQ -/ ⟨0x4008, 64, 0x80, 1, 0x0, true, .stored, [⟨0, 64, 0, .ro⟩]⟩,
  /- MGT_CTX_WAITW -/ ⟨0x4010, 64, 0x80, 1, 0x0, true, .stored, [⟨0, 64, 0, .ro⟩]⟩,
  /- MGT_CTX_RUN -/ ⟨0x4018, 64, 0x80, 1, 0x0, true, .stored, [⟨0, 64, 0, .ro⟩]⟩,
  /- MGT_CTX_HOLD -/ ⟨0x4020, 64, 0x80, 1, 0x0, true, .stored, [⟨0, 64, 0, .ro⟩]⟩,
  /- MGT_CTX_PRE -/ ⟨0x4028, 64, 0x80, 1, 0x0, true, .stored, [⟨32, 32, 0, .ro⟩]⟩,
  /- MGT_CTX_PRETIME -/ ⟨0x4030, 64, 0x80, 1, 0x0, true, .stored, [⟨0, 64, 0, .ro⟩]⟩,
  /- MGT_CTX_ENERGY -/ ⟨0x4038, 64, 0x80, 1, 0x0, true, .stored, [⟨0, 64, 0, .ro⟩]⟩,
  /- MGT_CTX_YIELD -/ ⟨0x4040, 64, 0x80, 6, 0x8, true, .stored, [⟨40, 24, 0, .ro⟩, ⟨0, 40, 0, .ro⟩]⟩,
  /- SEC_DEV_SN -/ ⟨0x100000, 1, 0x0, 1, 0x0, true, .view, [⟨0, 64, 0, .ro⟩]⟩,
  /- SEC_STAT -/ ⟨0x100008, 1, 0x0, 1, 0x0, false, .stored, [⟨30, 2, 0, .ro⟩, ⟨29, 1, 0, .ro⟩, ⟨0, 8, 0, .ro⟩]⟩]

def globalRegs2 : List RegSpec := [
  /- SEC_VIOL -/ ⟨0x100010, 1, 0x0, 1, 0x0, false, .stored, [⟨16, 16, 0, .ro⟩, ⟨8, 8, 0, .ro⟩]⟩,
  /- SEC_VIOL_ADDR -/ ⟨0x100014, 1, 0x0, 1, 0x0, false, .stored, [⟨0, 32, 0, .ro⟩]⟩,
  /- SEC_LOCK -/ ⟨0x100018, 1, 0x0, 1, 0x0, false, .stored, [⟨4, 1, 0, .w1s⟩, ⟨3, 1, 0, .w1s⟩, ⟨2, 1, 0, .w1s⟩, ⟨1, 1, 0, .w1s⟩, ⟨0, 1, 0, .w1s⟩]⟩,
  /- SEC_OWNER_ID -/ ⟨0x10001c, 1, 0x0, 1, 0x0, false, .stored, [⟨0, 32, 0, .wonce⟩]⟩,
  /- SEC_SVN -/ ⟨0x100020, 1, 0x0, 1, 0x0, false, .stored, [⟨31, 1, 0, .w1s⟩, ⟨8, 8, 0, .ro⟩, ⟨0, 8, 0, .ro⟩]⟩,
  /- SEC_VF_PART -/ ⟨0x100040, 32, 0x4, 1, 0x0, false, .stored, [⟨31, 1, 0, .rwl⟩, ⟨0, 4, 0, .rwl⟩]⟩,
  /- SEC_QUAD_OWN -/ ⟨0x1000c0, 32, 0x4, 1, 0x0, false, .stored, [⟨31, 1, 0, .rwl⟩, ⟨0, 4, 0, .rwl⟩]⟩,
  /- SEC_FAR_CRYPT -/ ⟨0x100140, 16, 0x4, 1, 0x0, false, .stored, [⟨31, 1, 0, .rwl⟩, ⟨0, 6, 0, .rwl⟩]⟩,
  /- SEC_PEER_MINSVN -/ ⟨0x100184, 1, 0x0, 1, 0x0, false, .stored, [⟨0, 8, 0, .rwl⟩]⟩,
  /- SEC_ATT_CTL -/ ⟨0x100190, 1, 0x0, 1, 0x0, false, .stored, [⟨31, 1, 0, .w1s⟩, ⟨30, 1, 0, .ro⟩, ⟨0, 12, 0, .rw⟩]⟩,
  /- SEC_EXT_CTL -/ ⟨0x100630, 1, 0x0, 1, 0x0, false, .stored, [⟨31, 1, 0, .w1s⟩, ⟨0, 4, 8, .rw⟩]⟩,
  /- SEC_KEY_CTL -/ ⟨0x100790, 1, 0x0, 1, 0x0, false, .stored, [⟨31, 1, 0, .w1s⟩, ⟨28, 3, 0, .rw⟩, ⟨24, 4, 0, .ro⟩, ⟨8, 4, 0, .rw⟩, ⟨0, 6, 0, .rw⟩]⟩,
  /- SEC_KEY_ATTR -/ ⟨0x100800, 64, 0x4, 1, 0x0, false, .stored, [⟨30, 2, 0, .ro⟩, ⟨0, 4, 0, .ro⟩]⟩,
  /- SEC_PEER_ATT -/ ⟨0x101000, 4096, 0x4, 1, 0x0, false, .stored, [⟨30, 2, 0, .ro⟩, ⟨16, 14, 0x3fff, .ro⟩, ⟨0, 8, 0, .ro⟩]⟩,
  /- ECU_STAT -/ ⟨0x200000, 1, 0x0, 1, 0x0, false, .stored, [⟨31, 1, 0, .ro⟩, ⟨16, 8, 0, .ro⟩, ⟨0, 16, 0, .ro⟩]⟩,
  /- ECU_FENCE -/ ⟨0x200008, 1, 0x0, 1, 0x0, false, .stored, [⟨0, 32, 0, .ro⟩]⟩,
  /- ECU_FENCE_CTL -/ ⟨0x20000c, 1, 0x0, 1, 0x0, false, .stored, [⟨31, 1, 0, .w1s⟩, ⟨28, 3, 0, .rw⟩, ⟨24, 4, 0, .ro⟩, ⟨23, 1, 0, .ro⟩, ⟨0, 5, 0, .rw⟩]⟩,
  /- ECU_SEAM -/ ⟨0x200010, 1, 0x0, 1, 0x0, false, .stored, [⟨0, 14, 0, .ro⟩]⟩,
  /- ECU_FACET -/ ⟨0x200014, 1, 0x0, 1, 0x0, false, .stored, [⟨0, 8, 0, .ro⟩]⟩,
  /- ECU_STK -/ ⟨0x200020, 12, 0x4, 1, 0x0, false, .stored, [⟨31, 1, 0, .ro⟩, ⟨30, 1, 0, .ro⟩, ⟨0, 5, 0, .ro⟩]⟩]

def globalRegs3 : List RegSpec := [
  /- ECU_SPARE -/ ⟨0x200050, 8, 0x4, 1, 0x0, false, .stored, [⟨0, 16, 0, .ro⟩]⟩,
  /- ECU_POLICY -/ ⟨0x200070, 1, 0x0, 1, 0x0, false, .stored, [⟨24, 8, 4, .rw⟩, ⟨16, 8, 0x40, .rw⟩]⟩,
  /- ECU_LOG_TAIL -/ ⟨0x200100, 1, 0x0, 1, 0x0, false, .stored, [⟨0, 32, 0, .ro⟩]⟩,
  /- ECU_LOG_DROP -/ ⟨0x200104, 1, 0x0, 1, 0x0, false, .stored, [⟨0, 32, 0, .ro⟩]⟩,
  /- ECU_LOG_DUR -/ ⟨0x200108, 1, 0x0, 1, 0x0, false, .stored, [⟨0, 32, 0, .ro⟩]⟩,
  /- ECU_LOG_PREV -/ ⟨0x20010c, 1, 0x0, 1, 0x0, false, .stored, [⟨0, 13, 0, .ro⟩]⟩,
  /- ECU_CUT_SET -/ ⟨0x200200, 1, 0x0, 1, 0x0, false, .stored, [⟨0, 32, 0, .rw⟩]⟩,
  /- ECU_CUT_ADDR -/ ⟨0x200208, 1, 0x0, 1, 0x0, true, .stored, [⟨21, 43, 0, .rw⟩]⟩,
  /- ECU_CUT_CTL -/ ⟨0x200210, 1, 0x0, 1, 0x0, false, .stored, [⟨31, 1, 0, .w1s⟩, ⟨28, 3, 0, .rw⟩, ⟨24, 4, 0, .rw⟩, ⟨20, 4, 0, .ro⟩, ⟨16, 4, 0, .ro⟩, ⟨0, 16, 0, .ro⟩]⟩,
  /- REQ_NOW -/ ⟨0x300000, 1, 0x0, 1, 0x0, true, .view, [⟨0, 64, 0, .ro⟩]⟩,
  /- REQ_LIVE -/ ⟨0x300008, 1, 0x0, 1, 0x0, false, .stored, [⟨0, 17, 0, .ro⟩]⟩,
  /- REQ_DROP -/ ⟨0x300010, 1, 0x0, 1, 0x0, true, .stored, [⟨32, 32, 0, .ro⟩, ⟨0, 32, 0, .ro⟩]⟩,
  /- REQ_CMD -/ ⟨0x300018, 1, 0x0, 1, 0x0, true, .stored, [⟨32, 32, 0, .wo⟩, ⟨28, 4, 0, .wo⟩, ⟨0, 16, 0, .wo⟩]⟩,
  /- REQ_CMD_STAT -/ ⟨0x300020, 1, 0x0, 1, 0x0, false, .stored, [⟨31, 1, 0, .ro⟩, ⟨0, 4, 0, .ro⟩]⟩,
  /- REQ_SQ_BASE -/ ⟨0x301000, 16, 0x40, 1, 0x0, true, .stored, [⟨12, 52, 0, .rw⟩]⟩,
  /- REQ_CQ_BASE -/ ⟨0x301008, 16, 0x40, 1, 0x0, true, .stored, [⟨12, 52, 0, .rw⟩]⟩,
  /- REQ_Q_CFG -/ ⟨0x301010, 16, 0x40, 1, 0x0, false, .stored, [⟨31, 1, 0, .rw⟩, ⟨30, 1, 0, .rw⟩, ⟨16, 5, 0, .rw⟩, ⟨8, 5, 6, .rw⟩, ⟨0, 5, 6, .rw⟩]⟩,
  /- REQ_SQ_TAIL -/ ⟨0x301014, 16, 0x40, 1, 0x0, false, .stored, [⟨0, 16, 0, .rw⟩]⟩,
  /- REQ_SQ_HEAD -/ ⟨0x301018, 16, 0x40, 1, 0x0, false, .stored, [⟨0, 16, 0, .ro⟩]⟩,
  /- REQ_CQ_TAIL -/ ⟨0x30101c, 16, 0x40, 1, 0x0, false, .stored, [⟨0, 16, 0, .ro⟩]⟩]

def globalRegs4 : List RegSpec := [
  /- REQ_CQ_HEAD -/ ⟨0x301020, 16, 0x40, 1, 0x0, false, .stored, [⟨0, 16, 0, .rw⟩]⟩,
  /- REQ_Q_STAT -/ ⟨0x301024, 16, 0x40, 1, 0x0, false, .stored, [⟨30, 2, 0, .ro⟩, ⟨0, 16, 0, .ro⟩]⟩,
  /- REQ_SVC_ADDR -/ ⟨0x302000, 64, 0x10, 1, 0x0, true, .stored, [⟨8, 56, 0, .rw⟩]⟩,
  /- REQ_SVC_CTL -/ ⟨0x302008, 64, 0x10, 1, 0x0, false, .stored, [⟨31, 1, 0, .w1s⟩, ⟨24, 4, 0, .rw⟩, ⟨20, 4, 0, .ro⟩, ⟨0, 16, 0, .ro⟩]⟩,
  /- REQ_POOL_BASE -/ ⟨0x303000, 32, 0x20, 1, 0x0, true, .stored, [⟨8, 56, 0, .rw⟩]⟩,
  /- REQ_POOL_PAGE -/ ⟨0x303008, 32, 0x20, 1, 0x0, false, .stored, [⟨31, 1, 0, .rw⟩, ⟨0, 24, 0, .rw⟩]⟩,
  /- REQ_POOL_N -/ ⟨0x30300c, 32, 0x20, 1, 0x0, false, .stored, [⟨0, 24, 0, .rw⟩]⟩,
  /- REQ_POOL_FREE -/ ⟨0x303010, 32, 0x20, 1, 0x0, false, .stored, [⟨0, 24, 0, .ro⟩]⟩,
  /- REQ_POOL_LOW -/ ⟨0x303014, 32, 0x20, 1, 0x0, false, .stored, [⟨0, 24, 0, .rw⟩]⟩,
  /- REQ_GRP_STAT -/ ⟨0x304000, 256, 0x8, 1, 0x0, false, .stored, [⟨30, 2, 0, .ro⟩, ⟨24, 6, 0, .ro⟩, ⟨0, 24, 0, .ro⟩]⟩,
  /- REQ_GRP_CTL -/ ⟨0x304004, 256, 0x8, 1, 0x0, false, .stored, [⟨0, 1, 0, .w1s⟩]⟩,
  /- REQ_PFX_BASE -/ ⟨0x305000, 1, 0x0, 1, 0x0, true, .stored, [⟨12, 52, 0, .rw⟩]⟩,
  /- REQ_PFX_CFG -/ ⟨0x305008, 1, 0x0, 1, 0x0, false, .stored, [⟨31, 1, 0, .rw⟩, ⟨0, 5, 0xa, .rw⟩]⟩,
  /- REQ_PFX_STAT -/ ⟨0x305010, 1, 0x0, 1, 0x0, true, .stored, [⟨32, 32, 0, .ro⟩, ⟨0, 21, 0, .ro⟩]⟩,
  /- ING_CFG -/ ⟨0x400000, 1, 0x0, 1, 0x0, false, .stored, [⟨0, 20, 0x3e8, .rw⟩]⟩,
  /- ING_UNIT_IN -/ ⟨0x400100, 2, 0x20, 1, 0x0, true, .stored, [⟨0, 64, 0, .ro⟩]⟩,
  /- ING_UNIT_OUT -/ ⟨0x400108, 2, 0x20, 1, 0x0, true, .stored, [⟨0, 64, 0, .ro⟩]⟩,
  /- ING_UNIT_SHARD -/ ⟨0x400110, 2, 0x20, 1, 0x0, true, .stored, [⟨32, 32, 0, .ro⟩, ⟨0, 32, 0, .ro⟩]⟩,
  /- ING_BIND_IMAGE -/ ⟨0x410000, 256, 0x40, 1, 0x0, true, .stored, [⟨8, 56, 0, .rw⟩]⟩,
  /- ING_BIND_NEXT -/ ⟨0x410008, 256, 0x40, 1, 0x0, true, .stored, [⟨8, 56, 0, .rw⟩]⟩]

def globalRegs5 : List RegSpec := [
  /- ING_BIND_PLACE -/ ⟨0x410010, 256, 0x40, 1, 0x0, true, .stored, [⟨8, 56, 0, .rw⟩]⟩,
  /- ING_BIND_STAGE -/ ⟨0x410018, 256, 0x40, 1, 0x0, true, .stored, [⟨8, 56, 0, .rw⟩]⟩,
  /- ING_BIND_CTL -/ ⟨0x410020, 256, 0x40, 1, 0x0, false, .stored, [⟨31, 1, 0, .w1s⟩, ⟨8, 4, 0, .rw⟩, ⟨0, 4, 0, .rw⟩]⟩,
  /- ING_BIND_STAT -/ ⟨0x410028, 256, 0x40, 1, 0x0, true, .stored, [⟨61, 3, 0, .ro⟩, ⟨48, 13, 0, .ro⟩, ⟨35, 13, 0, .ro⟩, ⟨16, 16, 0, .ro⟩, ⟨0, 16, 0, .ro⟩]⟩,
  /- ING_WIN_CFG -/ ⟨0x420000, 2048, 0x20, 1, 0x0, false, .stored, [⟨31, 1, 0, .rw⟩, ⟨30, 1, 0, .rw⟩, ⟨29, 1, 0, .rw⟩, ⟨23, 6, 0, .rw⟩, ⟨8, 12, 0, .rw⟩, ⟨0, 8, 0, .rw⟩]⟩,
  /- ING_WIN_SLOTS -/ ⟨0x420008, 2048, 0x20, 1, 0x0, true, .stored, [⟨8, 56, 0, .rw⟩]⟩,
  /- ING_WIN_SLOTB -/ ⟨0x420010, 2048, 0x20, 1, 0x0, false, .stored, [⟨0, 32, 0, .rw⟩]⟩,
  /- ING_WIN_POS -/ ⟨0x420018, 2048, 0x20, 1, 0x0, false, .stored, [⟨31, 1, 0, .ro⟩, ⟨0, 12, 0, .ro⟩]⟩,
  /- STR_MAP_PAGE -/ ⟨0x580000, 1, 0x0, 1, 0x0, false, .stored, [⟨0, 24, 0, .rw⟩]⟩,
  /- STR_MAP_ARG -/ ⟨0x580008, 1, 0x0, 1, 0x0, true, .stored, [⟨48, 16, 0, .rw⟩, ⟨40, 2, 0, .rw⟩, ⟨39, 1, 0, .rw⟩, ⟨34, 5, 0, .rw⟩, ⟨30, 4, 0, .rw⟩, ⟨29, 1, 0, .rw⟩, ⟨27, 2, 0, .rw⟩]⟩,
  /- STR_MAP_CTL -/ ⟨0x580010, 1, 0x0, 1, 0x0, false, .stored, [⟨31, 1, 0, .w1s⟩, ⟨0, 4, 0, .rw⟩]⟩,
  /- STR_MAP_STAT -/ ⟨0x580014, 1, 0x0, 1, 0x0, false, .stored, [⟨31, 1, 0, .ro⟩, ⟨24, 4, 0, .ro⟩, ⟨0, 17, 0, .ro⟩]⟩,
  /- STR_MAP_PTE -/ ⟨0x580018, 1, 0x0, 1, 0x0, true, .stored, [⟨0, 64, 0, .ro⟩]⟩,
  /- STR_MIG_CTL -/ ⟨0x580020, 1, 0x0, 1, 0x0, false, .stored, [⟨31, 1, 0, .rw⟩, ⟨24, 5, 8, .rw⟩, ⟨0, 15, 0x800, .rw⟩]⟩,
  /- STR_MIG_STAT -/ ⟨0x580028, 1, 0x0, 1, 0x0, true, .stored, [⟨32, 32, 0, .ro⟩, ⟨16, 16, 0, .ro⟩, ⟨0, 5, 0, .ro⟩]⟩,
  /- STR_FRAME_FREE -/ ⟨0x580100, 28, 0x8, 1, 0x0, true, .stored, [⟨32, 24, 0, .ro⟩, ⟨0, 24, 0, .ro⟩]⟩,
  /- STR_HQ_BASE -/ ⟨0x581000, 16, 0x40, 1, 0x0, true, .stored, [⟨12, 52, 0, .rw⟩]⟩,
  /- STR_HQ_CPL_BASE -/ ⟨0x581008, 16, 0x40, 1, 0x0, true, .stored, [⟨12, 52, 0, .rw⟩]⟩,
  /- STR_HQ_CFG -/ ⟨0x581010, 16, 0x40, 1, 0x0, false, .stored, [⟨31, 1, 0, .rw⟩, ⟨30, 1, 0, .rw⟩, ⟨16, 5, 0, .rw⟩, ⟨0, 5, 6, .rw⟩]⟩,
  /- STR_HQ_TAIL -/ ⟨0x581014, 16, 0x40, 1, 0x0, false, .stored, [⟨0, 16, 0, .rw⟩]⟩]

def globalRegs6 : List RegSpec := [
  /- STR_HQ_HEAD -/ ⟨0x581018, 16, 0x40, 1, 0x0, false, .stored, [⟨0, 16, 0, .ro⟩]⟩,
  /- STR_HQ_CTAIL -/ ⟨0x58101c, 16, 0x40, 1, 0x0, false, .stored, [⟨0, 16, 0, .ro⟩]⟩,
  /- STR_HQ_CHEAD -/ ⟨0x581020, 16, 0x40, 1, 0x0, false, .stored, [⟨0, 16, 0, .rw⟩]⟩,
  /- STR_HQ_STAT -/ ⟨0x581024, 16, 0x40, 1, 0x0, false, .stored, [⟨30, 2, 0, .ro⟩, ⟨0, 16, 0, .ro⟩]⟩,
  /- STR_HQ_CTL -/ ⟨0x581028, 16, 0x40, 1, 0x0, false, .stored, [⟨1, 1, 0, .w1s⟩, ⟨0, 1, 0, .w1s⟩]⟩,
  /- STR_HQ_FAULT -/ ⟨0x581030, 16, 0x40, 1, 0x0, true, .stored, [⟨0, 64, 0, .ro⟩]⟩,
  /- STR_HQ_FINFO -/ ⟨0x581038, 16, 0x40, 1, 0x0, false, .stored, [⟨31, 1, 0, .ro⟩, ⟨0, 16, 0, .ro⟩]⟩,
  /- CHD_PKG_ID -/ ⟨0x600000, 1, 0x0, 1, 0x0, false, .stored, [⟨16, 8, 0, .rw⟩, ⟨0, 12, 0, .rw⟩]⟩,
  /- CHD_CFG -/ ⟨0x600004, 1, 0x0, 1, 0x0, false, .stored, [⟨31, 1, 0, .rw⟩, ⟨8, 8, 3, .ro⟩, ⟨0, 8, 2, .ro⟩]⟩,
  /- CHD_DROP -/ ⟨0x600010, 1, 0x0, 1, 0x0, true, .stored, [⟨32, 32, 0, .ro⟩, ⟨0, 32, 0, .ro⟩]⟩,
  /- CHD_ERR -/ ⟨0x600018, 1, 0x0, 1, 0x0, true, .stored, [⟨32, 32, 0, .ro⟩, ⟨0, 32, 0, .ro⟩]⟩,
  /- CHD_LINK_CTL -/ ⟨0x600100, 64, 0x20, 1, 0x0, false, .stored, [⟨31, 1, 1, .rw⟩, ⟨30, 1, 0, .w1s⟩, ⟨28, 2, 0, .rw⟩]⟩,
  /- CHD_LINK_STAT -/ ⟨0x600104, 64, 0x20, 1, 0x0, false, .stored, [⟨29, 3, 0, .ro⟩, ⟨16, 8, 0, .ro⟩, ⟨8, 8, 0, .ro⟩, ⟨0, 8, 0, .ro⟩]⟩,
  /- CHD_FEC_CNT -/ ⟨0x600108, 64, 0x20, 1, 0x0, true, .stored, [⟨32, 32, 0, .ro⟩, ⟨0, 32, 0, .ro⟩]⟩,
  /- CHD_REFL -/ ⟨0x600110, 64, 0x20, 1, 0x0, false, .stored, [⟨16, 16, 0, .ro⟩, ⟨4, 12, 0, .ro⟩, ⟨3, 1, 0, .ro⟩]⟩,
  /- CHD_OPT -/ ⟨0x601000, 512, 0x4, 1, 0x0, false, .stored, [⟨16, 16, 0x8000, .ro⟩, ⟨0, 16, 0x8000, .ro⟩]⟩,
  /- CHD_LASER -/ ⟨0x601800, 32, 0x4, 1, 0x0, false, .stored, [⟨0, 16, 0x8000, .ro⟩]⟩,
  /- CHD_PRBS_CTL -/ ⟨0x604000, 512, 0x10, 1, 0x0, false, .stored, [⟨31, 1, 0, .rw⟩, ⟨30, 1, 0, .rw⟩, ⟨28, 2, 0, .rw⟩, ⟨27, 1, 0, .ro⟩]⟩,
  /- CHD_PRBS_ERR -/ ⟨0x604004, 512, 0x10, 1, 0x0, false, .stored, [⟨0, 32, 0, .ro⟩]⟩,
  /- CHD_PRBS_BITS -/ ⟨0x604008, 512, 0x10, 1, 0x0, true, .stored, [⟨0, 64, 0, .ro⟩]⟩]

def globalRegs7 : List RegSpec := [
  /- CHD_ROUTE -/ ⟨0x608000, 4096, 0x8, 1, 0x0, true, .stored, [⟨0, 64, 0xffffffffffffffff, .rw⟩]⟩,
  /- CHD_PEER -/ ⟨0x610000, 4096, 0x4, 1, 0x0, false, .stored, [⟨30, 2, 0, .ro⟩, ⟨20, 8, 0, .ro⟩, ⟨0, 16, 0, .rw⟩]⟩,
  /- CHD_PEER_CTL -/ ⟨0x614000, 1, 0x0, 1, 0x0, false, .stored, [⟨31, 1, 0, .w1s⟩, ⟨28, 3, 0, .rw⟩, ⟨20, 8, 0, .rw⟩, ⟨16, 4, 0, .ro⟩, ⟨0, 12, 0, .rw⟩]⟩,
  /- CHD_PART_CRYPT -/ ⟨0x614100, 16, 0x4, 1, 0x0, false, .stored, [⟨31, 1, 0, .rw⟩, ⟨30, 1, 0, .rw⟩, ⟨8, 8, 0, .rw⟩, ⟨0, 8, 0, .rw⟩]⟩,
  /- CHD_ROUTE_EFF -/ ⟨0x618000, 4096, 0x8, 1, 0x0, true, .stored, [⟨0, 64, 0, .ro⟩]⟩]

/-- The registers outside the quadrant blocks (Table 139), each with its absolute BAR0 offset. -/
def globalRegs : List RegSpec :=
  globalRegs0 ++ globalRegs1 ++ globalRegs2 ++ globalRegs3 ++ globalRegs4 ++ globalRegs5 ++ globalRegs6 ++ globalRegs7

def quadRegs0 : List RegSpec := [
  /- SEQ_SLOT_CTX -/ ⟨0x300, 8, 0x4, 1, 0x0, false, .stored, [⟨31, 1, 0, .rw⟩, ⟨30, 1, 0, .rw⟩, ⟨16, 5, 0, .rw⟩, ⟨0, 6, 0, .rw⟩]⟩,
  /- SEQ_CQ_PUSH -/ ⟨0x340, 8, 0x8, 1, 0x0, true, .stored, [⟨32, 16, 0, .wo⟩, ⟨31, 1, 0, .wo⟩, ⟨0, 14, 0, .wo⟩]⟩,
  /- SEQ_CQ_STAT -/ ⟨0x380, 8, 0x4, 1, 0x0, false, .stored, [⟨31, 1, 0, .w1c⟩, ⟨16, 5, 0, .ro⟩, ⟨0, 16, 0, .ro⟩]⟩,
  /- SEQ_CQ_DONE -/ ⟨0x3a0, 8, 0x4, 1, 0x0, false, .stored, [⟨16, 16, 0, .ro⟩, ⟨0, 16, 0, .ro⟩]⟩,
  /- SEQ_NFLAG -/ ⟨0x400, 8, 0x4, 1, 0x0, false, .stored, [⟨24, 8, 0xff, .ro⟩, ⟨16, 5, 0, .rw⟩, ⟨0, 5, 0, .w1c⟩]⟩,
  /- SEQ_NFLAG_Q -/ ⟨0x420, 1, 0x0, 1, 0x0, false, .view, [⟨0, 5, 0, .ro⟩]⟩,
  /- SEQ_PC -/ ⟨0x440, 8, 0x4, 1, 0x0, false, .stored, [⟨31, 1, 0, .ro⟩, ⟨27, 4, 0, .ro⟩, ⟨14, 1, 0, .ro⟩, ⟨0, 14, 0, .ro⟩]⟩,
  /- SEQ_SEC_CTL -/ ⟨0x600, 1, 0x0, 1, 0x0, false, .stored, [⟨31, 1, 0, .w1s⟩, ⟨30, 1, 0, .w1s⟩, ⟨29, 1, 0, .w1s⟩, ⟨0, 1, 0, .ro⟩]⟩,
  /- SEQ_SEC_ADDR -/ ⟨0x608, 1, 0x0, 1, 0x0, true, .stored, [⟨8, 56, 0, .rw⟩]⟩,
  /- SEQ_SEC_STAT -/ ⟨0x610, 1, 0x0, 1, 0x0, false, .stored, [⟨30, 2, 0, .ro⟩, ⟨29, 1, 0, .ro⟩, ⟨28, 1, 0, .ro⟩, ⟨16, 8, 0, .ro⟩, ⟨0, 16, 0, .ro⟩]⟩,
  /- SEQ_SEC_ID -/ ⟨0x618, 1, 0x0, 1, 0x0, false, .stored, [⟨0, 32, 0, .ro⟩]⟩,
  /- SEQ_SEC_SHADOW_ID -/ ⟨0x61c, 1, 0x0, 1, 0x0, false, .stored, [⟨0, 32, 0, .ro⟩]⟩,
  /- SEQ_SEC_FAULT -/ ⟨0x620, 1, 0x0, 1, 0x0, true, .stored, [⟨48, 16, 0, .ro⟩, ⟨40, 8, 0, .ro⟩, ⟨32, 8, 0, .ro⟩, ⟨29, 3, 0, .ro⟩, ⟨0, 14, 0, .ro⟩]⟩,
  /- SEQ_FN_CTL -/ ⟨0x800, 1, 0x0, 1, 0x0, false, .stored, [⟨31, 1, 0, .w1s⟩, ⟨20, 4, 0, .ro⟩, ⟨8, 5, 0, .rw⟩, ⟨0, 1, 0, .ro⟩]⟩,
  /- SEQ_FN_ADDR -/ ⟨0x808, 1, 0x0, 1, 0x0, true, .stored, [⟨9, 55, 0, .rw⟩]⟩,
  /- SEQ_FN_DIGEST -/ ⟨0x900, 32, 0x8, 1, 0x0, true, .stored, [⟨0, 64, 0, .ro⟩]⟩,
  /- SEQ_GATE_TMO -/ ⟨0xa04, 1, 0x0, 1, 0x0, false, .stored, [⟨0, 20, 0x3e8, .rw⟩]⟩,
  /- SEQ_GATE_TMO -/ ⟨0xa08, 1, 0x0, 1, 0x0, false, .stored, [⟨0, 20, 0x186a0, .rw⟩]⟩,
  /- SEQ_GATE_TMO -/ ⟨0xa0c, 1, 0x0, 1, 0x0, false, .stored, [⟨0, 20, 0xf4240, .rw⟩]⟩,
  /- SEQ_MBOX -/ ⟨0xb00, 16, 0x4, 1, 0x0, false, .stored, [⟨0, 32, 0, .rw⟩]⟩]

def quadRegs1 : List RegSpec := [
  /- SEQ_SHAPE -/ ⟨0xc00, 8, 0x20, 8, 0x4, false, .stored, [⟨0, 32, 0, .ro⟩]⟩,
  /- SEQ_WHEEL0 -/ ⟨0xd00, 1, 0x0, 1, 0x0, false, .stored, [⟨0, 32, 0xfedcba98, .rw⟩]⟩,
  /- SEQ_WHEEL1 -/ ⟨0xd04, 1, 0x0, 1, 0x0, false, .stored, [⟨0, 32, 0xfedcba98, .rw⟩]⟩,
  /- SEQ_PRE_CTL -/ ⟨0xd10, 1, 0x0, 1, 0x0, false, .stored, [⟨31, 1, 0, .w1s⟩, ⟨8, 4, 0, .rw⟩, ⟨4, 3, 0, .rw⟩, ⟨0, 3, 0, .rw⟩]⟩,
  /- SEQ_PRE_STAT -/ ⟨0xd14, 1, 0x0, 1, 0x0, false, .stored, [⟨31, 1, 0, .ro⟩, ⟨28, 3, 0, .ro⟩, ⟨24, 4, 0, .ro⟩, ⟨0, 16, 0, .ro⟩]⟩,
  /- SEQ_PRE_AREA -/ ⟨0xd20, 7, 0x8, 1, 0x0, false, .stored, [⟨30, 2, 0, .ro⟩, ⟨29, 1, 0, .ro⟩, ⟨24, 4, 0, .ro⟩]⟩,
  /- SEQ_PRE_AREA_ID -/ ⟨0xd24, 7, 0x8, 1, 0x0, false, .stored, [⟨0, 32, 0, .ro⟩]⟩,
  /- SEQ_GATE_HOLD -/ ⟨0x1010, 8, 0x100, 11, 0x10, true, .snap, [⟨0, 64, 0, .ro⟩]⟩,
  /- SEQ_GATE_STAT -/ ⟨0x1018, 8, 0x100, 11, 0x10, true, .snap, [⟨32, 32, 0, .ro⟩, ⟨0, 32, 0, .ro⟩]⟩,
  /- SEQ_DIG_BASE -/ ⟨0x2000, 1, 0x0, 1, 0x0, true, .stored, [⟨12, 52, 0, .rw⟩]⟩,
  /- SEQ_DIG_CFG -/ ⟨0x2008, 1, 0x0, 1, 0x0, false, .stored, [⟨31, 1, 0, .rw⟩, ⟨0, 5, 0xa, .rw⟩]⟩,
  /- SEQ_DIG_TAIL -/ ⟨0x200c, 1, 0x0, 1, 0x0, false, .stored, [⟨0, 16, 0, .ro⟩]⟩,
  /- SEQ_DIG_HEAD -/ ⟨0x2010, 1, 0x0, 1, 0x0, false, .stored, [⟨0, 16, 0, .rw⟩]⟩,
  /- SEQ_DIG_STAT -/ ⟨0x2014, 1, 0x0, 1, 0x0, false, .stored, [⟨16, 16, 0, .ro⟩, ⟨8, 8, 0, .ro⟩]⟩,
  /- LAT_GEOM -/ ⟨0x20000, 1, 0x0, 1, 0x0, false, .view, [⟨31, 1, 0, .ro⟩, ⟨20, 4, 0, .ro⟩, ⟨16, 4, 0, .ro⟩, ⟨8, 8, 0, .ro⟩, ⟨0, 8, 0, .ro⟩]⟩,
  /- LAT_SNAP_CTL -/ ⟨0x20004, 1, 0x0, 1, 0x0, false, .stored, [⟨16, 16, 0, .ro⟩, ⟨2, 1, 0, .ro⟩, ⟨1, 1, 0, .w1s⟩, ⟨0, 1, 0, .w1s⟩]⟩,
  /- LAT_SNAP_FC -/ ⟨0x20008, 1, 0x0, 1, 0x0, true, .snap, [⟨0, 64, 0, .ro⟩]⟩,
  /- LAT_Q_RUN -/ ⟨0x20010, 1, 0x0, 1, 0x0, true, .snap, [⟨0, 64, 0, .ro⟩]⟩,
  /- LAT_Q_HOLD -/ ⟨0x20018, 1, 0x0, 1, 0x0, true, .snap, [⟨0, 64, 0, .ro⟩]⟩,
  /- LAT_Q_IDLE -/ ⟨0x20020, 1, 0x0, 1, 0x0, true, .snap, [⟨0, 64, 0, .ro⟩]⟩]

def quadRegs2 : List RegSpec := [
  /- LAT_ERR_CNT -/ ⟨0x20028, 1, 0x0, 1, 0x0, false, .snap, [⟨24, 8, 0, .ro⟩, ⟨16, 8, 0, .ro⟩, ⟨0, 16, 0, .ro⟩]⟩,
  /- LAT_EQ_IN -/ ⟨0x20100, 4, 0x20, 1, 0x0, true, .snap, [⟨0, 64, 0, .ro⟩]⟩,
  /- LAT_EQ_STARVE -/ ⟨0x20108, 4, 0x20, 1, 0x0, true, .snap, [⟨0, 64, 0, .ro⟩]⟩,
  /- LAT_EQ_OCC -/ ⟨0x20110, 4, 0x20, 1, 0x0, true, .snap, [⟨0, 64, 0, .ro⟩]⟩,
  /- LAT_EQ_STAT -/ ⟨0x20118, 4, 0x20, 1, 0x0, true, .snap, [⟨16, 16, 0, .ro⟩, ⟨0, 5, 0, .ro⟩]⟩,
  /- LAT_NFLAG -/ ⟨0x20800, 132, 0x4, 1, 0x0, false, .stored, [⟨0, 5, 0, .w1c⟩]⟩,
  /- LAT_P_ARRAY -/ ⟨0x30000, 132, 0x40, 1, 0x0, true, .snap, [⟨0, 64, 0, .ro⟩]⟩,
  /- LAT_P_ANULL -/ ⟨0x30008, 132, 0x40, 1, 0x0, true, .snap, [⟨0, 64, 0, .ro⟩]⟩,
  /- LAT_P_VEC -/ ⟨0x30010, 132, 0x40, 1, 0x0, true, .snap, [⟨0, 64, 0, .ro⟩]⟩,
  /- LAT_P_VNULL -/ ⟨0x30018, 132, 0x40, 1, 0x0, true, .snap, [⟨0, 64, 0, .ro⟩]⟩,
  /- LAT_P_FN -/ ⟨0x30020, 132, 0x40, 1, 0x0, true, .snap, [⟨0, 64, 0, .ro⟩]⟩,
  /- LAT_V_B1 -/ ⟨0x30030, 132, 0x40, 1, 0x0, true, .snap, [⟨0, 64, 0, .ro⟩]⟩,
  /- LAT_V_DFLT -/ ⟨0x30038, 132, 0x40, 1, 0x0, true, .snap, [⟨0, 64, 0, .ro⟩]⟩]

/-- The SEQ and LAT registers, offsets in the quadrant block (R28, Table 139). -/
def quadRegs : List RegSpec :=
  quadRegs0 ++ quadRegs1 ++ quadRegs2

end Sys2Proof.Machine
end

