-- ==== Sys2Proof/Machine/State.lean ====
section
/-! DEFINITION. The state of the GX3 as plain data (INVENTORY.md, State). Register fields are in `regs`; what is
not a register has a field of its own. Every table is a sparse map whose unlisted keys read as the reset value. -/

namespace Sys2Proof.Machine

/-- How a command stops. No meaning of this model answers with a fault: what the spec calls a fault is an event and
the end of the work it names, a next state (R463). -/
inductive Fault where
  /-- Raised by nothing: kept so that the type is not empty. Safe. -/
  | unreachable
  deriving DecidableEq, Repr

/-- Why a command has no meaning. -/
inductive Refusal where
  /-- Raised by an arm of `exec` whose command has no meaning yet, under its mnemonic. Safe: nothing is claimed. -/
  | notModelled (mnemonic : String)
  deriving DecidableEq, Repr

/-! ## Lattice (chapter 2) -/

/-- A non-null item of a network (R53): 64 lanes for a word, one for a scalar or token. A null item is the absence
of an item. -/
structure Item where
  lanes : List Lane
  poison : Bool
  deriving DecidableEq, Repr

/-- An item under way: the lattice fc in which it enters the vertex of `site`, or is accepted by its unit. -/
structure Flight where
  due : Nat
  site : Nat
  toUnit : Bool
  net : Nat
  port : Nat
  item : Item
  deriving DecidableEq, Repr

/-- A word in a staging buffer (R67): fc of acceptance, the last fc in which it holds its entry once taken, and whether it
has a parity error not yet read (R85). -/
structure Staged where
  acc : Nat
  slot : Nat
  item : Item
  till : Option Nat
  bad : Bool
  deriving DecidableEq, Repr

/-- A timed micro-operation that a step started: next firing fc, firings left, index of the next firing. -/
structure Firing where
  uop : Nat
  slot : Nat
  next : Nat
  left : Nat
  period : Nat
  j : Nat
  deriving DecidableEq, Repr

/-- A tile in progress (R68) and the words bound to it so far, a missing or null word as none (R558). -/
structure Tile where
  start : Nat
  uop : Nat
  readoutUop : Option Nat
  readoutCfg : Nat
  bank : Nat
  slot : Nat
  aScale : List (Option Item)
  bScale : List (Option Item)
  aData : List (Option Item)
  bData : List (Option Item)
  deriving DecidableEq, Repr

/-- A vector, function or statistics firing whose words are entering V1. -/
structure Feed where
  start : Nat
  uop : Nat
  cfg : Nat
  slot : Nat
  words : List (Option Item)
  deriving DecidableEq, Repr

/-- A word in the six stages: fc of V1 entry, micro-operation, VCFG or slot image, the function registers (f0 is the
word itself), null and poison flags. -/
structure Pipe where
  entry : Nat
  uop : Nat
  cfg : Nat
  slot : Nat
  null : Bool
  poison : Bool
  /-- Flags of a statistics result, raised when it leaves V6. -/
  pend : BitVec 5
  f0 : List Lane
  f1 : List Lane
  f2 : List Lane
  f3 : List Lane
  deriving DecidableEq, Repr

/-- A prism (R65 to R75). Accumulators by bank × 1024 + row × 64 + column. -/
structure Prism where
  va : List Staged
  vb : List Staged
  acc : NMap Lane
  accPoison : List Nat
  rf : NMap (List Lane)
  rfPoison : List Nat
  bcast : Lane
  bcastPoison : Bool
  firings : List Firing
  tiles : List Tile
  feeds : List Feed
  pipes : List Pipe
  /-- Intervals of function-store operations (R132). -/
  fnSpans : List (Nat × Nat)
  /-- Elements with a parity error not yet read (R85): 4 + r register r, 20 + 16 b + r an accumulator of row r of bank b. -/
  parity : List Nat
  deriving DecidableEq, Repr

def Prism.init : Prism := ⟨[], [], [], [], [], [], 0, false, [], [], [], [], [], []⟩

/-- An address-generator entry in progress (R191, R192): its 256 bits, slot, first fc of its step (which names the timed
descriptor that its fill or drain addresses match, R270), position and next issue fc. -/
structure AgRun where
  ag : Nat
  entry : Nat
  slot : Nat
  step : Nat
  next : Nat
  i0 : Nat
  i1 : Nat
  i2 : Nat
  i3 : Nat
  deriving DecidableEq, Repr

/-- A scalar program in progress (R193): next index, fc of its next instruction, REP in progress, end of the step. -/
structure SalRun where
  pc : Nat
  next : Nat
  rep : Option (Nat × Nat)
  slot : Nat
  stop : Nat
  deriving DecidableEq, Repr

/-- A write accepted and not yet committed (R77): a whole word, or one lane of the scalar ALU. `due` counts lattice fc, of
a fill word facet fc (R80, R83). -/
structure SramWrite where
  due : Nat
  port : Nat
  word : Nat
  lane : Option Nat
  item : Item
  slot : Nat
  /-- The word feeds the digest accumulator of its slot when it commits (R338, R339). -/
  dg : Bool
  /-- A fill word (R80): the step whose timed descriptor it belongs to. -/
  fill : Option Nat
  deriving DecidableEq, Repr

/-- A sector (R76 to R82). -/
structure Sector where
  sram : List Host.Cell
  /-- Lanes with a correctable (false) or an uncorrectable (true) error, by word × 64 + lane (R82). -/
  bad : NMap (Option Bool)
  regs : NMap Lane
  regPoison : List Nat
  base0 : Lane
  base1 : Lane
  /-- Base registers that hold a poisoned value. -/
  basePoison : List Nat
  /-- Base writes not yet in force: fc, address generator, value, poison. -/
  basePend : List (Nat × Nat × Lane × Bool)
  ldPend : List (Nat × Nat × Lane × Bool)
  runs : List AgRun
  prog : Option SalRun
  writes : List SramWrite
  spare : Nat
  corrections : NMap Nat
  deriving DecidableEq, Repr

def Sector.init : Sector := ⟨[], [], [], [], 0, 0, [], [], [], [], none, [], 8, []⟩

/-- A drain word on its way to the base tier (R80, R82, R270): facet fc of its commit, unified address, slot and first fc of
the step that drains it, bytes, whether it is digested (R192, R354), and whether it is poisoned, so that it is not
committed. -/
structure DrainWord where
  due : Nat
  addr : Nat
  slot : Nat
  step : Nat
  bytes : List Byte
  dg : Bool
  poison : Bool
  deriving DecidableEq, Repr

/-- Items waiting in the edge queues of one quadrant: by boundary × 64 + network × 16 + link (R57). -/
structure Lattice where
  /-- Lattice fc: fc not held, since the quadrant's reset. -/
  fc : Nat
  /-- Facet fc, held ones included: the clock of the sector base ports, which go on in a hold (R83). -/
  clk : Nat
  /-- Route configuration in force, none for the idle configuration (R217). -/
  route : Option Nat
  flight : List Flight
  edgeQ : NMap (List Item)
  /-- Edge queues that overflowed with no command in force (R221). -/
  edgeOver : List Nat
  /-- Resources whose first overflow has been raised (R220), until a command starts. -/
  overflowed : List Nat
  prisms : NMap Prism
  sectors : NMap Sector
  /-- Drain words on their way to the base tier (R80). -/
  drains : List DrainWord
  deriving DecidableEq, Repr

def Lattice.init : Lattice := ⟨0, 0, none, [], [], [], [], [], [], []⟩

/-! ## Sequencer, sections and slots (chapters 5, 6, 8, 10, 13) -/

/-- A section image as read, its address, and the pin translations recorded at load (R205, R211): (page, entry). -/
structure Section where
  addr : Nat
  bytes : List Byte
  pins : List (Nat × BitVec 64)
  /-- Its pins are held: from its first commit until it leaves the quadrant (R251). -/
  held : Bool
  /-- Package and admission of each entry of its peer table, as bound at its commit; admission 0 is lost (R448). -/
  peers : List (Nat × Nat)
  /-- Seams already retired at its commit, which its routes avoid (R41, R42). -/
  seams : Nat
  /-- Its descriptors after patches, by table index, while it is in the shadow (R390). -/
  patched : NMap Nat
  deriving DecidableEq, Repr

/-- A hold at a gate (R173): counter index, fc counted so far, tick at which it began, timeout in µs. -/
structure Hold where
  kind : Nat
  fc : Nat
  since : Nat
  limit : Nat
  deriving DecidableEq, Repr

/-- A layer window as the slot's command took it at its start (R311, R312): registers, present position, and the layers
of a streaming window deposited for this command. -/
structure Win where
  bind : Nat
  streaming : Bool
  dstSel : Nat
  size : Nat
  first : Nat
  addr : Nat
  slotLen : Nat
  pos : Nat
  here : List Nat
  deriving DecidableEq, Repr

/-- A command in progress in a slot. The step index and the held flag are in SEQ_PC, the shape registers in
SEQ_SHAPE. -/
structure Cmd where
  tag : Nat
  irq : Bool
  /-- Counts of the active loop levels (R163). -/
  loops : NMap Nat
  hold : Option Hold
  /-- Causes waiting for the end of the step in force (R560): the code with which the command ends, and the code with which
  its context ends, where one of the causes ends it. -/
  ending : Option (Code × Option Code)
  /-- The poisoned word of a timed descriptor that ends it (R255, R292): first fc of the step that started the descriptor,
  position of the element, and the progress field of that position. -/
  fault : Option (Nat × Nat × Nat)
  /-- Versions bound by BARRIER or at first use (R169, R315): binding, version. -/
  versions : NMap Nat
  /-- Enabled layer windows (R311). -/
  windows : NMap (Option Win)
  /-- Groups whose GATE REQ it has reached (R403). -/
  groups : List Nat
  /-- fc not held since its first step (R340). -/
  run : Nat
  /-- Its next step is gated and its condition was sampled true where the wheel selected the slot (R173, R415, R416);
  the pass is counted already when a restart of R416 took it. -/
  passed : Option Bool
  deriving DecidableEq, Repr

/-- A slot: queue of 64-bit entries, low word of SEQ_CQ_PUSH, digest accumulator (R338). -/
structure Slot where
  cmd : Option Cmd
  queue : List Nat
  low : Lane
  digD : Dword
  digN : Nat
  digPoison : Bool
  deriving DecidableEq, Repr

def Slot.init : Slot := ⟨none, [], 0, 0, 0, false⟩

/-- A descriptor in progress (R261): its 1,024 bits, the slot and step that started it, receiver of a SEND. -/
structure Desc where
  bits : Nat
  slot : Nat
  index : Nat
  remote : Bool
  /-- Channel and receiving quadrant of a SEND, and peer package. -/
  chan : Option Nat
  quad : Nat
  peer : Nat
  /-- Elements already committed (progress point, R268). -/
  pos : Nat
  suspended : Bool
  /-- section_id of the receiver it waits for (R424). -/
  waitFor : Option Nat
  /-- Of a remote SEND (R445): its number, next word not in a transaction, words acknowledged, and word ranges (first,
  count) whose transactions were given back. -/
  uid : Nat
  next : Nat
  acked : Nat
  redo : List (Nat × Nat)
  /-- Batches of which its completion is the emit, by group and number (R394). -/
  emit : List (Nat × Nat)
  deriving DecidableEq, Repr

def Desc.init : Desc := ⟨0, 0, 0, false, none, 0, 0, 0, false, none, 0, 0, 0, [], []⟩

/-- A timed descriptor in progress (R270): bits, slot of the command, table index, descriptor slot that it holds (R261), first
fc of the step that started it, words matched so far, and the batches of which its completion is the emit (R394). -/
structure Timed where
  bits : Nat
  slot : Nat
  index : Nat
  place : Nat
  step : Nat
  words : Nat
  emit : List (Nat × Nat)
  deriving DecidableEq, Repr

/-- A word of a transfer from another package that waits in the engine for the quadrant (R272): sector address, bytes, the
channel whose arrival its commit is, and the chord and package whose buffer space it frees (R444). -/
structure RxWord where
  addr : Nat
  bytes : List Byte
  chan : Option Nat
  frees : Option (Nat × Nat)
  deriving DecidableEq, Repr

/-- A digest entry waiting in the post queue (R339, R340). -/
structure DigestEntry where
  bytes : List Byte
  deriving DecidableEq, Repr

/-- A patch staged for a consumer (R388 to R390): group, batch, descriptor index, end (1 dst), address. -/
structure Patch where
  group : Nat
  batch : Nat
  desc : Nat
  dst : Bool
  addr : Nat
  deriving DecidableEq, Repr

/-- A function slot: as every quadrant reset leaves it (shipped or empty, R139), or an installed image. -/
inductive FnSlot where
  | initial
  | image (bytes : List Byte)
  deriving DecidableEq, Repr

/-- What a save area or a cut part holds of an occupant (Table 103). -/
structure Saved where
  sectionOf : Section
  paired : Bool
  part : Nat
  lat : Lattice
  slots : NMap Slot
  descs : NMap Desc
  timed : List Timed
  chanArr : NMap Nat
  chanRcp : NMap Nat
  /-- Register fields of the slots and the wheel. -/
  regs : NMap Nat
  patched : NMap Nat
  staged : List Patch
  /-- Tick of the switch point at which it was saved. -/
  since : Nat
  deriving DecidableEq, Repr

/-- Phase of a pre-emption in progress: operation and areas. -/
structure PreOp where
  op : Nat
  saveArea : Nat
  restoreArea : Nat
  /-- The other quadrant of a locked pair. -/
  mate : Option Nat
  /-- Tick of the switch point at which it stopped the quadrant (R428). -/
  since : Nat
  deriving DecidableEq, Repr

/-- One quadrant: everything of it that is not a register. -/
structure Quad where
  committed : Option Section
  shadow : Option Section
  /-- Address of the load in progress and the header as the load write read it, empty where it cannot be read (R205, R208). -/
  loading : Option (Nat × List Byte)
  slots : NMap Slot
  /-- Slot in force. -/
  cur : Option Nat
  /-- A wheel decision is due (R413). -/
  due : Bool
  /-- SEQ_WHEEL0 and 1 as the wheel uses them, until the next switch point (R414). -/
  wheel : Nat
  wheelLast : Nat
  chanArr : NMap Nat
  chanRcp : NMap Nat
  digQueue : List DigestEntry
  digSeq : Nat
  fnStore : NMap FnSlot
  fnAddr : Option (Nat × Nat)
  /-- Live counters of Table 22 and SEQ_GATE_HOLD/STAT by field key, and the snapshot copies. -/
  ctr : NMap Nat
  snap : NMap Nat
  snapClear : Bool
  lat : Lattice
  timed : List Timed
  descs : NMap (Option Desc)
  /-- Words received that wait for a hold or for the quadrant to be idle (R272), oldest first. -/
  inbox : List RxWord
  /-- Descriptors after patches, by table index (R390). -/
  patched : NMap Nat
  /-- Patches staged for batches not yet taken (R390). -/
  staged : List Patch
  pre : Option PreOp
  areas : NMap (Option Saved)
  /-- Scrub in progress: the owner register value that takes effect (R494). -/
  scrub : Option Nat
  /-- Corrections in this epoch (R86). -/
  epochCorr : Nat
  /-- Operations that wait, in arrival order: loads, bindings, pre-emption operations and owner writes for a scrub
  (R494), host commits for a function install (R145). -/
  deferred : List Instr
  deriving DecidableEq, Repr

def Quad.init : Quad :=
  { committed := none, shadow := none, loading := none, slots := [], cur := none, due := false,
    wheel := 0xFEDCBA98FEDCBA98, wheelLast := 15, chanArr := [], chanRcp := [], digQueue := [], digSeq := 0,
    fnStore := [], fnAddr := none, ctr := [], snap := [], snapClear := false, lat := Lattice.init, timed := [],
    descs := [], inbox := [], patched := [], staged := [], pre := none, areas := [], scrub := none, epochCorr := 0, deferred := [] }

/-! ## Package state -/

/-- A message that left the package: a management response, an SPDM response or a chord packet. -/
structure Sent where
  path : Nat
  dest : Nat
  bytes : List Byte
  deriving DecidableEq, Repr

/-- An MSI-X message: partition whose work it announces, and vector. -/
structure Msix where
  part : Nat
  vector : Nat
  deriving DecidableEq, Repr

/-- One-time programmable fuses (R5, R495, R498, R509; log entry 4); the voltage curve of R525 is a free value of Config. -/
structure Fuses where
  serial : Dword
  deviceId : BitVec 16
  dEn : BitVec 24
  /-- Rollback counter: data bits and mark bits (R498). -/
  svnData : BitVec 64
  svnMark : BitVec 64
  debugDisabled : Bool
  deriving DecidableEq, Repr

/-! ## The page table (chapter 7) -/

/-- What a frame is used for (R234, R238, R245 to R247); an unlisted frame is free. -/
inductive FrameUse where
  | free
  | mapped
  | reserved
  | zeroing
  | draining
  | dest
  | withdrawn
  | absent
  deriving DecidableEq, Repr

/-- The page operation in progress (R244). -/
structure MapOp where
  op : Nat
  orig : Orig
  /-- STR_MAP_ARG as the operation took it. -/
  arg : Nat
  /-- Next page to start, and pages left to start. -/
  next : Nat
  left : Nat
  done : Nat
  /-- Pages whose frames are being zeroed (R245): page, unit, frame. -/
  zeroing : List (Nat × Nat × Nat)
  /-- Status of the page that stopped it while earlier pages are still being zeroed. -/
  stop : Nat
  /-- The page it waits for: a drain (R238) or a migration (R247). -/
  wait : Option Nat
  deriving DecidableEq, Repr

/-- A migration in progress (R247, R248): page, destination, held writes (offset in the page, byte), whether a MIGRATE
operation started it, and whether a transfer waits at its stream engine with a word for the page. -/
structure Migration where
  page : Nat
  unit : Nat
  frame : Nat
  held : List (Nat × Byte)
  explicit : Bool
  waits : Bool
  deriving DecidableEq, Repr

/-- A change to a page-table entry whose drain is still running (R238): page, frame freed by it. -/
structure Drain where
  page : Nat
  unit : Nat
  frame : Nat
  deriving DecidableEq, Repr

/-! ## Host queues (chapter 8) -/

/-- An entry of a host queue in progress (R288 to R291): ring index, descriptor, phase 0 running, 1 suspended, 2 finished,
progress position, faulting side and address, code of its record. -/
structure HqEntry where
  idx : Nat
  bits : Nat
  phase : Nat
  pos : Nat
  side : Bool
  addr : Nat
  code : Nat
  deriving DecidableEq, Repr

/-- A host queue (R282 to R291): entries submitted and not yet read by ring index, entries in progress in ring order,
suspended entries in the order in which they faulted, a write of STR_HQ_CFG with en = 1 held until the queue has finished
(R284). -/
structure Hq where
  subm : NMap (Option Nat)
  act : List HqEntry
  susp : List Nat
  held : Option Lane
  deriving DecidableEq, Repr

def Hq.init : Hq := ⟨[], [], [], none⟩

/-! ## Keys (chapter 16) -/

/-- The security block's secrets and buffers (R499 to R504, R509). -/
structure Secure where
  /-- Measurement registers 0 to 15 (R499). -/
  meas : NMap (BitVec 384)
  extData : NMap Lane
  keyBlob : NMap Lane
  /-- Key slots: 512 bits, a GCM key in the low 256. -/
  keys : NMap (BitVec 512)
  keks : NMap (Option (BitVec 256))
  debugPending : Bool
  /-- Peer attestation in progress: package and start time. -/
  att : Option (Nat × Nat)
  /-- SPDM state: version negotiated, algorithms negotiated (R501). -/
  spdmVersion : Bool
  spdmAlgs : Bool
  deriving DecidableEq, Repr

def Secure.init : Secure := ⟨[], [], [], [], [], false, none, false, false⟩

/-! ## Ingest (chapter 9) -/

/-- A layer of a binding: version committed at dst0 and at dst1, code of its last failed load and the tier code that
R306 delivers, 0 when none. -/
structure Layer where
  c0 : Option Nat
  c1 : Option Nat
  fail : Nat
  tier : Nat
  deriving DecidableEq, Repr

def Layer.init : Layer := ⟨none, none, 0, 0⟩

/-- A model binding (R308 to R318): what is not in its registers. -/
structure Bind where
  part : Nat
  /-- Images as accepted, layer count, destinations of each layer by the placement list as read at acceptance (R309). -/
  image : Nat
  next : Nat
  n : Nat
  place : NMap (Nat × Nat)
  /-- During a replacement the destinations of the other list: the new one of a layer not yet replaced, the old one of a layer
  replaced (R309, R317, R318). -/
  other : NMap (Nat × Nat)
  layers : NMap Layer
  /-- Layers already replaced in state 5 and not yet rolled back. -/
  replaced : List Nat
  deriving DecidableEq, Repr

def Bind.init : Bind := ⟨0, 0, 0, 0, [], [], [], []⟩

/-- A shard of a load in progress (R303): attempts made, phase 0 waiting, 1 reading, 2 passed, 3 deposited, µs of the
attempt's first read, code of the last failed attempt (0 timeout), whether that failure was of the digest. -/
structure Shard where
  tries : Nat
  phase : Nat
  start : Nat
  last : Nat
  digest : Bool
  /-- Deposited region: offset and length (R296). -/
  span : Option (Nat × Nat)
  /-- In phase 2 the stored bytes as the passing attempt read them (R303, R307); in phase 3 the deposit that waits for the layer's
  commit while the previous contents are live (R305). -/
  data : List Byte
  deriving DecidableEq, Repr

def Shard.init : Shard := ⟨0, 0, 0, 0, false, none, []⟩

/-- Why a layer is loaded: a LOAD queue, a window request, or the write or rollback of a replacement. -/
inductive LoadKind where
  | queue
  | window
  | write
  | back
  deriving DecidableEq, Repr

/-- A layer load (R303 to R307): binding, layer, destination, image, streaming windows it deposits for, shards; `copying`
while the copy to dst1 runs. -/
structure Load where
  bind : Nat
  layer : Nat
  dest : Nat
  image : Nat
  kind : LoadKind
  wins : List Nat
  /-- A request for the layer at its resident destination shares it (R307). -/
  resident : Bool
  /-- An attempt of its has begun. -/
  started : Bool
  /-- The attempts at its shard table, which is handled as a shard (R305): phase 2 once it has passed. -/
  table : Shard
  copying : Bool
  /-- Failed or released: the reads already in progress run to their end and are discarded (R305, R312). -/
  dead : Bool
  /-- Part of the queue of a LOAD (R310). -/
  queued : Bool
  shards : NMap Shard
  deriving DecidableEq, Repr

/-- The ingest units. -/
structure Ingest where
  binds : NMap Bind
  loads : List Load
  /-- Ingest unit 1 has failed (R44). -/
  failed : Bool
  deriving DecidableEq, Repr

def Ingest.init : Ingest := ⟨[], [], false⟩

/-! ## Request engine (chapter 12) -/

/-- A row of a placed batch (Table 97). -/
structure Row where
  id : Lane
  pos : Nat
  token : Lane
  sample : Bool
  draft : Bool
  /-- Row of a request that has moved to its fallback service (R400). -/
  dead : Bool
  deriving DecidableEq, Repr

/-- A batch placed and not yet finished with (R378, R380). -/
structure Batch where
  n : Nat
  rows : List Row
  emitted : Bool
  deriving DecidableEq, Repr

/-- A batch group (R380): consumer counts by quadrant, batches in flight, service and entry of the service. -/
structure Group where
  service : Nat
  entry : Nat
  /-- Batches placed since the counters were zeroed. -/
  placed : Nat
  counts : NMap Nat
  batches : List Batch
  /-- Completions of emit descriptors not yet processed, by batch number (R394). -/
  emits : List Nat
  deriving DecidableEq, Repr

def Group.init : Group := ⟨0, 0, 0, [], [], []⟩

/-- An entry of the request table (R367, R368, R398). Times are µs of REQ_NOW. -/
structure ReqEntry where
  gen : BitVec 16
  state : Nat
  /-- The 1,024 bits of the descriptor and the 2,048 of the stop block. -/
  desc : Nat
  stop : Nat
  part : Nat
  service : Nat
  seq : Nat
  len : Nat
  /-- Next prompt position not yet placed. -/
  nextPos : Nat
  reused : Nat
  written : Nat
  /-- Tokens emitted so far, for stop sequences (R396). -/
  tokens : List Lane
  input : Option Lane
  drafts : List Lane
  group : Option Nat
  /-- Prefill group order or decode joining order. -/
  joined : Nat
  /-- Prompt tokens as last read from host memory. -/
  prompt : List Lane
  pages : NMap (List Nat)
  /-- Pages per shard that the request needs beyond the reused ones, and those reserved: 0 while it waits (R387). -/
  want : Nat
  reserved : Nat
  head : Nat
  tail : Nat
  tAccept : Nat
  tFirst : Option Nat
  tLast : Nat
  tbtSum : Nat
  tbtMax : Nat
  intervals : Nat
  wgate : Nat
  ttftMiss : Bool
  tbtMiss : Bool
  fellBack : Bool
  version : Nat
  /-- Completion record waiting for ring space (R402). -/
  record : Option (List Byte)
  freedAt : Nat
  deriving DecidableEq, Repr

def ReqEntry.init : ReqEntry :=
  { gen := 0, state := 0, desc := 0, stop := 0, part := 0, service := 0, seq := 0, len := 0, nextPos := 0, reused := 0,
    written := 0, tokens := [], input := none, drafts := [], group := none, joined := 0, prompt := [], pages := [], want := 0, reserved := 0,
    head := 0, tail := 0, tAccept := 0, tFirst := none, tLast := 0, tbtSum := 0, tbtMax := 0, intervals := 0,
    wgate := 0, ttftMiss := false, tbtMiss := false, fellBack := false, version := 0, record := none, freedAt := 0 }

/-- A node of the prefix tree (R393). -/
structure PfxNode where
  binding : Nat
  version : Nat
  part : Nat
  parent : Option Nat
  tokens : List Lane
  /-- (pool, page) of each shard. -/
  pages : List (Nat × Nat)
  used : Nat
  deriving DecidableEq, Repr

/-- The request engine. -/
structure ReqEngine where
  entries : NMap ReqEntry
  services : NMap (List Byte)
  groups : NMap Group
  /-- References on page p of pool k, by k × 2^24 + p. -/
  pageRefs : NMap Nat
  nodes : NMap (Option PfxNode)
  /-- Node of a handle, by partition × 2^32 + handle, with the time of its last use. -/
  handles : NMap (Option (Nat × Nat))
  cmdLow : Lane
  peek : List Lane
  /-- Admissions so far: the order of R382. -/
  admitted : Nat
  /-- Partitions whose token vector is due at the end of the 10 µs interval (R397). -/
  tokenDue : NMap Bool
  /-- Pages of requests that moved, released once the batches that carry them have emitted (R400): identifier, (pool, page). -/
  orphans : List (Nat × List (Nat × Nat))
  /-- Pages of host memory, of 4 KiB, at which the engine's writes end with an error, as the host stands (log entry 100). -/
  bad : List Nat
  deriving DecidableEq, Repr

def ReqEngine.init : ReqEngine := ⟨[], [], [], [], [], [], 0, [], 0, [], [], []⟩

/-- Live accounting (R428, R429): counters of context c by c × 16 + index (0 WAITQ, 1 WAITW, 2 RUN, 3 HOLD, 4 PRE,
5 PRETIME, 6 ENERGY, 7 to 12 YIELD as count × 2^40 + ticks), the overhead energy; and of the present epoch, run and held
fc by quadrant × 128 + context (64 none) and bytes through the rims by context; the classes of R426 that have a cause in force, by
bit; yields in force by context × 4 + class with their start tick and whether a request of the context has been flagged a miss
during them; a snapshot asked to clear. -/
structure Acct where
  live : NMap Nat
  ovh : Nat
  fc : NMap Nat
  bytes : NMap Nat
  causes : Nat
  yields : NMap (Option (Nat × Bool))
  clear : Bool
  deriving DecidableEq, Repr

def Acct.init : Acct := ⟨[], 0, [], [], 0, [], false⟩

/-! ## Chords (chapter 14) -/

/-- A chord: what is not in its registers. -/
structure ChordLink where
  /-- Bounds of Table 110 exceeded in a row (R439). -/
  bounds : Nat
  /-- Version agreed from the capability flit (R440). -/
  version : Option Nat
  /-- Sequence number of the next codeword to accept, replays of it asked for, and whether one is awaited (R436). -/
  seq : Option Nat
  fails : Nat
  replay : Bool
  /-- Flits of a packet not yet whole. -/
  flits : List (BitVec 512)
  /-- Corrections in this epoch, and CHD:0x011 logged in it (R463, R562). -/
  fec : Nat
  logged : Bool
  /-- CHD:0x071 logged while the return loss stays low (R460). -/
  orlLow : Bool
  deriving DecidableEq, Repr

def ChordLink.init : ChordLink := ⟨0, none, none, 0, false, [], 0, false, false⟩

/-- A transaction (R445 to R447): quadrant, number of its descriptor and context slot; partition, peer package and
key; receiver and channel, and whether it carries chan_last; the words it covers, with address and bytes. -/
structure Trans where
  q : Nat
  uid : Nat
  slot : Nat
  part : Nat
  pkg : Nat
  /-- Encryption: the key index flag and the key slot, as they were when it started (R457). -/
  key : Option (Nat × Nat)
  last : Bool
  quad : Nat
  chan : Nat
  first : Nat
  data : List (Nat × List Byte)
  /-- Chord of the present send, packets sent in it, packets whose credit is held, sends begun, whether the receiver is
  busy. -/
  chord : Option Nat
  sent : Nat
  paid : Nat
  sends : Nat
  busy : Bool
  /-- The configured mask with which it started (R450). -/
  mask : Nat
  deriving DecidableEq, Repr

/-- A transaction being received (R446): source, tag, packets accepted. -/
structure RxTrans where
  pkg : Nat
  tag : Nat
  got : List Nat
  deriving DecidableEq, Repr

/-- A peer (R444, R453): number of its admission, 0 when not admitted; by rim, packets sent and not yet credited, credits to
return, and PROBEs sent; CHD:0x060 logged in this epoch. -/
structure Peer where
  adm : Nat
  out : NMap Nat
  owe : NMap Nat
  turn : NMap Nat
  logged : Bool
  deriving DecidableEq, Repr

def Peer.init : Peer := ⟨0, [], [], [], false⟩

/-- The chord fabric. -/
structure Chords where
  links : NMap ChordLink
  trans : NMap (Option Trans)
  /-- Present generation of each tag slot, and slots in their 100 µs hold (R445). -/
  gens : NMap Nat
  holds : NMap Bool
  rx : List RxTrans
  /-- Acknowledged tags kept (R446): package, tag. -/
  kept : List (Nat × Nat)
  peers : NMap Peer
  /-- Switches that have reported a package's port down (R449). -/
  down : NMap Nat
  admissions : Nat
  nextUid : Nat
  /-- IV counters by rim × 2^12 + partition × 64 + key slot (R457). -/
  counters : NMap Nat
  /-- Stale packets in this epoch (R446). -/
  stale : Nat
  /-- Laser inputs below +15.0 dBm (R433). -/
  laserLow : NMap Bool
  /-- MGMT messages handed to the security block (R501): package, bytes. -/
  mgmt : List (Nat × List Byte)
  deriving DecidableEq, Repr

def Chords.init : Chords := ⟨[], [], [], [], [], [], [], [], 0, 0, [], 0, [], []⟩

/-! ## Containment (chapter 15) -/

/-- A copy of the persistent log (R482): its entries, oldest first, the first seq not yet in it, commits made, the last
commit record (number, last seq, CRC-64), and the end of the commit in progress. -/
structure LogCopy where
  entries : List (List Byte)
  next : Nat
  commits : Nat
  last : Option (Nat × Nat × Dword)
  busy : Option Nat
  deriving DecidableEq, Repr

def LogCopy.init : LogCopy := ⟨[], 0, 0, none, none⟩

/-- A part of a cut region (R487): its header and the save set. -/
structure CutPart where
  sectionId : Nat
  addr : Nat
  digest : Nat
  part : Nat
  quad : Nat
  pkgId : Nat
  now : Nat
  geom : Nat
  saved : Saved
  deriving DecidableEq, Repr

/-- The collector and its agents: READMIT in progress, the two copies of the log, losses already reported (R562), frames that
leave service when they are unmapped (R472), rim S lost, the parts of cut regions by their first page, the far ports whose link
is down (R244, R255) by bit, and a read of the page table that failed in its only copy (R235, R476). -/
structure Ecu where
  readmit : Option Nat
  copyA : LogCopy
  copyB : LogCopy
  dropSeen : Nat
  badFrames : NMap Bool
  rimS : Bool
  cuts : NMap (Option CutPart)
  farDown : Nat
  tableFail : Bool
  deriving DecidableEq, Repr

def Ecu.init : Ecu := ⟨none, LogCopy.init, LogCopy.init, 0, [], false, [], 0, false⟩

/-! ## Management (chapters 17 and 18) -/

/-- A firmware slot of the flash (R513): the image shipped in it, erased, or an image that WRITE put there. -/
inductive FwSlot where
  | shipped
  | erased
  | image (bytes : List Byte)
  deriving DecidableEq, Repr

/-- A selector record (R514); its CRC-64 is what makes a copy valid. -/
structure Selector where
  seq : Nat
  slotB : Bool
  trial : Bool
  count : Nat
  deriving DecidableEq, Repr

/-- What the flash holds besides the log (R513): slots A and B, and the two selector copies, none where invalid. -/
structure Flash where
  slotA : FwSlot
  slotB : FwSlot
  sel0 : Option Selector
  sel1 : Option Selector
  deriving DecidableEq, Repr

/-- The test access port (R509): instruction in force, boundary-scan cells. -/
structure Tap where
  instr : Nat
  cells : List Bool
  deriving DecidableEq, Repr

/-- The management controller: what is not in its registers. -/
structure Mgmt where
  flash : Flash
  /-- The last WRITE gave status 1; the image that the WRITE in progress copies; a management reset is in progress; tick of the last
  watchdog reset; the next boot takes the other slot (R516, R532). -/
  written : Bool
  writing : Option (List Byte)
  resetting : Bool
  lastDog : Option Nat
  otherSlot : Bool
  /-- Pending target and its last writer (R519), target and commanded level in force. -/
  pending : Int
  source : Nat
  target : Nat
  cmd : Nat
  clamped : Bool
  /-- Epoch-applied settings in force (R511): follow, ramp, caps by facet, throt_step, thermal target, auto. -/
  follow : Bool
  ramp : Nat
  caps : NMap Nat
  throtStep : Nat
  therm : Nat
  auto : Bool
  /-- By facet: clock step in force, duty in sixteenths, limiter, µs left of the duty period's running part; the step whose set point
  VOUT_COMMAND last sent, and the one that MGT_CLK_STAT mv shows (R525). -/
  step : NMap Nat
  duty : NMap Nat
  limiter : NMap Nat
  budget : NMap Nat
  volt : NMap Nat
  mv : NMap Nat
  /-- By facet: thermal cap, duty under it, and whether it binds (R527). -/
  tcap : NMap Nat
  tduty : NMap Nat
  tbind : NMap Bool
  /-- Power samples of the epoch: sum, number, highest; epochs over in a row, and the measured excess in W (R521). -/
  powerSum : Nat
  powerN : Nat
  powerPeak : Nat
  overs : Nat
  excess : Nat
  /-- Package energy since the last accounting clear (R518), and the energy of epochs missed in a management reset: facet f at f,
  the rest at 8. -/
  energy : Nat
  missed : NMap Nat
  /-- Assertions latched before ready, SHED_N and THROT_N (R545). -/
  latchShed : Bool
  latchThrot : Bool
  /-- Pins as they stand, the states of R522 and R523 in force, and those that were in force at some time of the epoch. -/
  shedPin : Bool
  throtPin : Bool
  shed : Bool
  throt : Bool
  hot : Bool
  wasShed : Bool
  wasThrot : Bool
  wasHot : Bool
  /-- Epochs in a row in which every reading stayed below 100 °C, and whether this one has so far (R528). -/
  cool : Nat
  warm : Bool
  /-- Ticks that passed in the shed state, which no timeout of R522 counts. -/
  paused : Nat
  /-- Die readings: present and highest of the epoch, in 0.1 °C, as 16-bit patterns; 0x8000 none. -/
  tj : NMap Nat
  tjMax : NMap Nat
  /-- Device-reported error counts at the last readout (R228). -/
  stkErr : NMap Nat
  /-- By stack device: channel being recalibrated, and whether MGT_RECAL_CTL asked for it; by device × 32 + channel: epoch and
  temperature of the last calibration (R531). -/
  recal : NMap (Option (Nat × Bool))
  calibrated : NMap (Nat × Nat)
  /-- By stack device: temperature when start-up calibrated it (Table 129). -/
  calTj : NMap Nat
  tap : Tap
  /-- PERST_N is asserted; the host link is trained; no power; start-up has stopped (R497, R535, R541); ticks from PWRGD to the
  last package reset. -/
  perst : Bool
  hostLink : Bool
  off : Bool
  stuck : Bool
  since : Nat
  /-- Save areas per quadrant for which start-up reserved frames (R419). -/
  areas : Nat
  deriving DecidableEq, Repr

def Mgmt.init : Mgmt :=
  { flash := ⟨.shipped, .shipped, none, none⟩, written := false, writing := none, resetting := false, lastDog := none
    otherSlot := false, pending := 2800, source := 0, target := 2800, cmd := 2800, clamped := false, follow := false
    ramp := 200, caps := [], throtStep := 16, therm := 95, auto := true, step := [], duty := [], limiter := [], budget := []
    volt := [], mv := [], tcap := [], tduty := [], tbind := [], powerSum := 0, powerN := 0, powerPeak := 0, overs := 0, excess := 0
    energy := 0, missed := [], latchShed := false, latchThrot := false, shedPin := false, throtPin := false, shed := false, throt := false, hot := false
    wasShed := false, wasThrot := false, wasHot := false, cool := 0, warm := false, paused := 0, tj := [], tjMax := [], stkErr := []
    recal := [], calibrated := [], calTj := [], tap := ⟨0, []⟩, perst := false, hostLink := false, off := false, stuck := false
    since := 0, areas := 2 }

/-- The whole state. -/
structure State where
  pending : List Instr
  ticks : Nat
  boot : Nat
  freeCtr : Nat
  readData : Dword
  /-- Writes that the management bus answered with completed-with-violation status, oldest first: originator code and
  register address (R25). Every other write is answered as completed. -/
  busViol : List (Nat × Nat)
  wideLatch : NMap (Option Lane)
  regs : NMap Nat
  mem : List Host.Cell
  memBad : NMap (Option Bool)
  hostMem : List Host.Cell
  msix : List Msix
  sent : List Sent
  fuses : Fuses
  pages : NMap (BitVec 64)
  tableLost : Option Nat
  frames : NMap FrameUse
  farFrames : NMap Nat
  mapOp : Option MapOp
  migrations : List Migration
  drains : List Drain
  /-- Stack devices whose evictable pages are being moved out (R249), by bit. -/
  evict : Nat
  /-- Corrections of each unit in this epoch (R227, R229). -/
  tierCorr : NMap Nat
  hqs : NMap Hq
  quads : NMap Quad
  ing : Ingest
  req : ReqEngine
  acct : Acct
  chord : Chords
  ecu : Ecu
  sec : Secure
  mgmt : Mgmt
  log : NMap (List Byte)
  logPrev : List (List Byte)
  deriving DecidableEq, Repr

/-- What a meaning answers. -/
abbrev Out := Host.Outcome State Fault Refusal

/-- The machine right after power-on reset, before start-up (R534): every register at its reset value. -/
def State.reset : State :=
  { pending := [], ticks := 0, boot := 0, freeCtr := 0, readData := 0, busViol := [], wideLatch := [], regs := [], mem := [],
    memBad := [], hostMem := [], msix := [], sent := [],
    fuses := ⟨0, 0x3132, 0xFFFFFF, 0, 0, false⟩, pages := [], tableLost := none, frames := [], farFrames := [],
    mapOp := none, migrations := [], drains := [], evict := 0, tierCorr := [], hqs := [], quads := [], ing := Ingest.init, req := ReqEngine.init, acct := Acct.init, chord := Chords.init, ecu := Ecu.init, sec := Secure.init, mgmt := Mgmt.init, log := [], logPrev := [] }

end Sys2Proof.Machine
end

