-- ==== Sys2Proof/Machine/Operands.lean ====
section
/-! DEFINITION. Operand forms: bit fields and byte order (R18), the CRC-64 of R135, and the fields of the encoded
programs: steps, micro-operations, VCFG entries, address generators, routes, rules, scalars, descriptors, section
headers and page-table entries. -/

namespace Sys2Proof.Machine

/-- Bits [hi:lo] of a number. -/
def bits (x hi lo : Nat) : Nat := x / 2 ^ lo % 2 ^ (hi + 1 - lo)

/-- Bit `i` of a number. -/
def bit (x i : Nat) : Bool := x / 2 ^ i % 2 = 1

/-- Replace bits [lo + n - 1:lo] of x by v. -/
def putBits (x lo n v : Nat) : Nat := x - x / 2 ^ lo % 2 ^ n * 2 ^ lo + v % 2 ^ n * 2 ^ lo

/-- Two's-complement value of the low n bits. -/
def signed (n x : Nat) : Int := if x % 2 ^ n < 2 ^ (n - 1) then (x % 2 ^ n : Nat) else (x % 2 ^ n : Nat) - (2 : Int) ^ n

/-- Little-endian value of a byte string (R18). -/
def leNat : List Byte → Nat
  | [] => 0
  | b :: r => b.toNat + 256 * leNat r

/-- `n` little-endian bytes of a value (R18). -/
def leBytes : Nat → Nat → List Byte
  | 0, _ => []
  | n + 1, v => BitVec.ofNat 8 v :: leBytes n (v / 256)

/-- The value of `n` bytes at offset `off`; bytes beyond the end read as zero. -/
def byteField (b : List Byte) (off n : Nat) : Nat := leNat ((b.drop off).take n)

/-- One step of the CRC-64 of R135 by a bit. -/
def crcBit (c : Dword) : Dword :=
  if c.getLsbD 63 then (c <<< 1) ^^^ 0x42F0E1EBA9EA3693 else c <<< 1

/-- One step of the CRC-64 of R135 by a byte. -/
def crcByte (c : Dword) (b : Byte) : Dword :=
  let x := c ^^^ (b.setWidth 64 <<< 56)
  crcBit (crcBit (crcBit (crcBit (crcBit (crcBit (crcBit (crcBit x)))))))

/-- The CRC-64 of R135 over a byte string in ascending address order. -/
def crc64 (l : List Byte) : Dword := l.foldl crcByte 0

/-- The 256 bytes of a word of 64 lanes (R53). -/
def wordBytes (l : List Lane) : List Byte := (List.range 64).flatMap fun i => leBytes 4 (l.getD i 0).toNat

/-- The 64 lanes of 256 bytes. -/
def wordLanes (b : List Byte) : List Lane := (List.range 64).map fun i => BitVec.ofNat 32 (byteField b (4 * i) 4)

/-- Lane i of an item. -/
def Item.lane (it : Item) (i : Nat) : Lane := it.lanes.getD i 0

/-! ## Geometry (R49 to R52) -/

def isW (q : Nat) : Bool := decide (24 ≤ q)
def columns (q : Nat) : Nat := if isW q then 8 else 12
def rows (q : Nat) : Nat := if isW q then 9 else 11
def sites (q : Nat) : Nat := columns q * rows q

/-- Whether a site holds a prism (R50, R51). -/
def isPrism (q s : Nat) : Bool :=
  if isW q then (s / 8) % 3 = 1 ∧ s / 8 < 9 ∧ ((s % 8 = 1 ∨ s % 8 = 2) ∨ (s % 8 = 5 ∨ s % 8 = 6))
  else s / 12 < 11 ∧ s % 12 % 3 = 1

def isSector (q s : Nat) : Bool := decide (s < sites q) && !isPrism q s

/-- Prism sites, then sector sites, in ascending order (R198). -/
def prismSites (q : Nat) : List Nat := (List.range (sites q)).filter (isPrism q)
def sectorSites (q : Nat) : List Nat := (List.range (sites q)).filter (isSector q)

/-- Index of a site among the units of its kind. -/
def prismIndex (q s : Nat) : Nat := ((List.range s).filter (isPrism q)).length
def sectorIndex (q s : Nat) : Nat := ((List.range s).filter (isSector q)).length

/-- The quadrant across boundary b (0 N, 1 E, 2 S, 3 W) of q, where R52 gives edge links. -/
def neighbour (q b : Nat) : Option Nat :=
  let pos := q % 4
  if b = 1 ∧ pos % 2 = 0 then some (q + 1)
  else if b = 3 ∧ pos % 2 = 1 then some (q - 1)
  else if b = 2 ∧ pos < 2 then some (q + 2)
  else if b = 0 ∧ 2 ≤ pos then some (q - 2)
  else none

/-- Edge links of a boundary (R52). -/
def edgeLinks (q b : Nat) : Nat := if b % 2 = 1 then rows q else columns q

/-- The site at the quadrant's end of an edge link. -/
def edgeSite (q b link : Nat) : Nat :=
  let C := columns q
  if b = 0 then link
  else if b = 2 then (rows q - 1) * C + link
  else if b = 1 then link * C + (C - 1)
  else link * C

/-- Index of an edge queue: boundary, network, link (R57). -/
def edgeKey (b net link : Nat) : Nat := b * 64 + net * 16 + link

/-! ## Steps (Tables 42 to 44) -/

abbrev Step := Nat
def Step.op (w : Step) : Nat := bits w 127 122
def Step.dur (w : Step) : Nat := bits w 121 98
def Step.route (w : Step) : Nat := bits w 97 93
def Step.uop (w : Step) : Nat := bits w 92 84
def Step.agEn (w : Step) : Bool := bit w 83
def Step.ag (w : Step) : Nat := bits w 82 79
def Step.salEn (w : Step) : Bool := bit w 78
def Step.sal (w : Step) : Nat := bits w 77 72
/-- RUN (R162). -/
def Step.descEn (w : Step) : Bool := bit w 71
def Step.runDesc (w : Step) : Nat := bits w 70 55
def Step.descOff (w : Step) : Nat := bits w 54 31
/-- LOOP (R163). -/
def Step.target (w : Step) : Nat := bits w 71 58
def Step.level (w : Step) : Nat := bits w 57 55
def Step.countSrc (w : Step) : Bool := bit w 54
def Step.loopShreg (w : Step) : Nat := bits w 53 51
def Step.count (w : Step) : Nat := bits w 50 27
/-- GATE kinds of Table 44. -/
def Step.kind (w : Step) : Nat := bits w 71 68
/-- Timeout class: GATE and BARRIER [67:66], RECV [64:63] (Table 43). -/
def Step.tmo (w : Step) : Nat :=
  if Step.op w = 0x09 then bits w 64 63 else if Step.op w = 0x0B then 0 else bits w 67 66
def Step.gateWindow (w : Step) : Nat := bits w 65 63
def Step.gateLayer (w : Step) : Nat := bits w 62 47
def Step.gateTag (w : Step) : Nat := bits w 65 50
def Step.boundary (w : Step) : Nat := bits w 65 64
def Step.network (w : Step) : Nat := bits w 63 62
def Step.link (w : Step) : Nat := bits w 61 58
def Step.items (w : Step) : Nat := bits w 57 53
def Step.group (w : Step) : Nat := bits w 65 58
def Step.mailbox (w : Step) : Nat := bits w 65 62
/-- RECV and SEND (R166, R172). -/
def Step.remote (w : Step) : Bool := bit w 71
def Step.channel (w : Step) : Nat := bits w 70 65
def Step.sendDesc (w : Step) : Nat := bits w 64 49
def Step.peer (w : Step) : Nat := bits w 48 37
def Step.quadrant (w : Step) : Nat := bits w 36 32
/-- BARRIER (R169): the binding field. -/
def Step.binding (w : Step) : Nat := bits w 71 68
/-- SSW (R170). -/
def Step.sectionId (w : Step) : Nat := bits w 71 40
def Step.entry (w : Step) : Nat := bits w 39 26
/-- WADV (R167). -/
def Step.window (w : Step) : Nat := bits w 71 69
def Step.layers (w : Step) : Nat := bits w 68 61
/-- DMARK (R168). -/
def Step.layer (w : Step) : Nat := bits w 71 56
def Step.point (w : Step) : Nat := bits w 55 48
/-- SHRD (R164). -/
def Step.src (w : Step) : Bool := bit w 71
def Step.shreg (w : Step) : Nat := bits w 70 68
def Step.address (w : Step) : Nat := bits w 67 36
def Step.hi (w : Step) : Nat := bits w 35 12
def Step.lo (w : Step) : Nat := bits w 11 0

/-- Whether a step is gated in its own right (R155). -/
def Step.gated (w : Step) : Bool := decide (Step.op w = 0x08 ∨ Step.op w = 0x09 ∨ Step.op w = 0x0A ∨ Step.op w = 0x0B)

/-- Counter index of a gated step (Table 44); 10 for an ungated one. -/
def Step.index (w : Step) : Nat :=
  if Step.op w = 0x08 then Step.kind w
  else if Step.op w = 0x09 then (if Step.remote w then 7 else 6)
  else if Step.op w = 0x0A then 8
  else if Step.op w = 0x0B then 9
  else 10

/-! ## Micro-operations (Tables 46, 47) and VCFG entries (R190) -/

abbrev Uop := Nat
def Uop.kind (u : Uop) : Nat := bits u 127 124
def Uop.next (u : Uop) : Nat := bits u 123 115
def Uop.start (u : Uop) : Nat := bits u 114 91
def Uop.count (u : Uop) : Nat := bits u 90 75
def Uop.period (u : Uop) : Nat := bits u 74 51
/-- ARRAY (R187). -/
def Uop.plain (u : Uop) : Bool := bit u 50
def Uop.fmtA (u : Uop) : Nat := bits u 49 46
def Uop.fmtB (u : Uop) : Nat := bits u 45 42
def Uop.bank (u : Uop) : Nat := bits u 41 41
def Uop.bankAlt (u : Uop) : Bool := bit u 40
def Uop.zero (u : Uop) : Bool := bit u 39
def Uop.nsteps (u : Uop) : Nat := bits u 38 15
def Uop.readout (u : Uop) : Nat := bits u 14 6
/-- VEC (R188). -/
def Uop.vcfg (u : Uop) : Nat := bits u 50 42
def Uop.imm (u : Uop) : Nat := bits u 17 2
/-- FN and STAT (R189). -/
def Uop.slot (u : Uop) : Nat := bits u 50 46
def Uop.fusedPre (u : Uop) : Nat := bits u 31 30
def Uop.fusedPost (u : Uop) : Nat := bits u 29 28
def Uop.regS (u : Uop) : Nat := bits u 27 24
def Uop.regB (u : Uop) : Nat := bits u 23 20
def Uop.outFmt (u : Uop) : Nat := bits u 7 4
def Uop.statOp (u : Uop) : Nat := bits u 50 49
def Uop.nM1 (u : Uop) : Nat := bits u 42 25
def Uop.mReg (u : Uop) : Nat := bits u 24 21
def Uop.mZero (u : Uop) : Bool := bit u 20
/-- Fields that VEC, FN and STAT share at different places. -/
def Uop.srcReg (u : Uop) : Nat :=
  if Uop.kind u = 2 then bits u 41 38 else if Uop.kind u = 3 then bits u 43 40 else bits u 46 43
def Uop.words (u : Uop) : Nat :=
  if Uop.kind u = 2 then bits u 37 30 + 1 else if Uop.kind u = 3 then bits u 39 32 + 1 else Uop.nM1 u / 64 + 1
def Uop.rfWe (u : Uop) : Bool := if Uop.kind u = 2 then bit u 29 else if Uop.kind u = 3 then bit u 19 else true
def Uop.rfDst (u : Uop) : Nat :=
  if Uop.kind u = 2 then bits u 28 25 else if Uop.kind u = 3 then bits u 18 15 else bits u 19 16
def Uop.lane (u : Uop) : Nat := if Uop.kind u = 2 then bits u 24 19 else bits u 14 9
def Uop.coEn (u : Uop) : Bool := if Uop.kind u = 2 then bit u 18 else bit u 8
/-- Source of an FN or STAT: 0 VA, 1 VB, 2 register file. -/
def Uop.src (u : Uop) : Nat := if Uop.kind u = 3 then bits u 45 44 else bits u 48 47

abbrev Vcfg := Nat
def Vcfg.v1Src (v : Vcfg) : Nat := bits v 123 122
def Vcfg.trunc (v : Vcfg) : Bool := bit v 121
def Vcfg.sat (v : Vcfg) : Bool := bit v 120
/-- Stage field of Vs, s = 1 to 6. -/
def Vcfg.stage (v : Vcfg) (s : Nat) : Nat := bits v (139 - 20 * s) (120 - 20 * s)
abbrev VStage := Nat
def VStage.op (x : VStage) : Nat := bits x 19 14
def VStage.fmt (x : VStage) : Nat := bits x 13 10
def VStage.dfmt (x : VStage) : Nat := bits x 9 6
def VStage.src2 (x : VStage) : Nat := bits x 5 4
def VStage.reg (x : VStage) : Nat := bits x 3 0

/-! ## Function entries (Table 34) -/

abbrev FnEntry := Nat
def FnEntry.op (e : FnEntry) : Nat := bits e 63 58
def FnEntry.trunc (e : FnEntry) : Bool := bit e 57
def FnEntry.sat (e : FnEntry) : Bool := bit e 56
def FnEntry.fd (e : FnEntry) : Nat := bits e 55 54
def FnEntry.dfmt (e : FnEntry) : Nat := bits e 53 50
def FnEntry.sfmt (e : FnEntry) : Nat := bits e 49 46
def FnEntry.sa (e : FnEntry) : Nat := bits e 45 41
def FnEntry.sb (e : FnEntry) : Nat := bits e 40 36
def FnEntry.sc (e : FnEntry) : Nat := bits e 35 31
def FnEntry.aux (e : FnEntry) : Nat := bits e 30 23

/-- Entry i of a slot image, and constant j of its pool (Table 33). -/
def fnEntry (img : List Byte) (i : Nat) : FnEntry := byteField img (0x40 + 8 * i) 8
def fnPool (img : List Byte) (j : Nat) : Lane := BitVec.ofNat 32 (byteField img (0x100 + 4 * j) 4)

/-! ## Address-generator entries (Table 49) -/

abbrev AgEntry := Nat
def AgEntry.mode (e : AgEntry) : Nat := bits e 255 253
def AgEntry.last (e : AgEntry) : Bool := bit e 252
def AgEntry.next (e : AgEntry) : Nat := bits e 251 248
def AgEntry.start (e : AgEntry) : Nat := bits e 247 224
def AgEntry.baseSrc (e : AgEntry) : Bool := bit e 223
def AgEntry.base (e : AgEntry) : Nat := bits e 222 211
def AgEntry.lo (e : AgEntry) : Nat := bits e 210 199
def AgEntry.hi (e : AgEntry) : Nat := bits e 198 187
/-- Loop level l = 0 to 3: L3 at [186:152], L0 at [81:47]. -/
def AgEntry.level (e : AgEntry) (l : Nat) : Nat := bits e (81 + 35 * l) (47 + 35 * l)
def AgEntry.countM1 (e : AgEntry) (l : Nat) : Nat := bits (AgEntry.level e l) 34 23
def AgEntry.stride (e : AgEntry) (l : Nat) : Int := signed 13 (bits (AgEntry.level e l) 22 10)
def AgEntry.gap (e : AgEntry) (l : Nat) : Nat := bits (AgEntry.level e l) 9 0
def AgEntry.dg (e : AgEntry) : Bool := bit e 46

/-! ## Routes and rules (R195, R196) -/

/-- Source code of an output link: network 0 vector (N E S W L0 L1), 1 scalar, 2 control (N E S W L). -/
def routeSrc (r net out : Nat) : Nat :=
  if net = 0 then bits r (127 - 4 * out) (124 - 4 * out)
  else if net = 1 then bits r (103 - 4 * out) (100 - 4 * out)
  else bits r (83 - 4 * out) (80 - 4 * out)

/-- Rule that a configuration enables in the vector (net 0) or scalar (net 1) bisector. -/
def routeRule (r net : Nat) : Option Nat :=
  if net = 0 then (if bit r 63 then some (bits r 62 59) else none)
  else if net = 1 then (if bit r 58 then some (bits r 57 54) else none)
  else none

/-- Number of output links of a vertex on a network. -/
def routeOuts (net : Nat) : Nat := if net = 0 then 6 else 5

/-! ## Scalar instructions (R193) -/

def salOp (i : Nat) : Nat := bits i 31 26
def salRd (i : Nat) : Nat := bits i 25 22
def salRa (i : Nat) : Nat := bits i 21 18
def salRb (i : Nat) : Nat := bits i 17 14
def salImm (i : Nat) : Nat := bits i 13 0

/-! ## Descriptors (Tables 69, 70) -/

def descSrc (d : Nat) : Nat := bits d 63 0
def descDst (d : Nat) : Nat := bits d 127 64
def descTag (d : Nat) : Nat := bits d 143 128
def descNdim (d : Nat) : Nat := bits d 151 144
def descSrcSpace (d : Nat) : Nat := bits d 155 152
def descDstSpace (d : Nat) : Nat := bits d 159 156
def descElem (d : Nat) : Nat := bits d 183 160
def descPadWidth (d : Nat) : Nat := 2 ^ bits d 185 184
def descPad (d : Nat) : Nat := bits d 223 192
def descIrq (d : Nat) : Bool := bit d 224
def descDim (d k : Nat) : Nat := bits d (256 + 128 * k + 127) (256 + 128 * k)
def dimCount (r : Nat) : Nat := bits r 127 104 + 1
def dimPadLo (r : Nat) : Nat := bits r 103 88
def dimPadHi (r : Nat) : Nat := bits r 87 72
def dimSstride (r : Nat) : Int := signed 36 (bits r 71 36)
def dimDstride (r : Nat) : Int := signed 36 (bits r 35 0)
def descProgress (d : Nat) : Nat := bits d 1023 896

/-- Number of positions of a descriptor (R266). -/
def descPositions (d : Nat) : Nat :=
  (List.range (descNdim d)).foldl (fun n k => n * dimCount (descDim d k)) 1

/-- Index of position p in dimension k, i0 varying fastest (R268). -/
def descIndex (d p : Nat) : Nat → Nat
  | 0 => p % dimCount (descDim d 0)
  | k + 1 => (List.range (k + 1)).foldl (fun n j => n / dimCount (descDim d j)) p % dimCount (descDim d (k + 1))

/-- Whether position p is padded (R266). -/
def descPadded (d p : Nat) : Bool :=
  (List.range (descNdim d)).any fun k =>
    let r := descDim d k
    decide (descIndex d p k < dimPadLo r) || decide (dimCount r - 1 < descIndex d p k + dimPadHi r)

/-- Destination and source addresses of position p (R266), modulo 2^64. -/
def descDstAddr (d p : Nat) : Nat :=
  (((List.range (descNdim d)).foldl
    (fun (a : Int) k => a + (descIndex d p k : Int) * dimDstride (descDim d k)) (descDst d : Int)) % 2 ^ 64).toNat
def descSrcAddr (d p : Nat) : Nat :=
  (((List.range (descNdim d)).foldl
    (fun (a : Int) k => a + ((descIndex d p k : Int) - dimPadLo (descDim d k)) * dimSstride (descDim d k))
    (descSrc d : Int)) % 2 ^ 64).toNat

/-- The pad value repeated over an element (R267). -/
def descPadBytes (d : Nat) : List Byte :=
  (List.range (descElem d)).map fun i => BitVec.ofNat 8 (descPad d / 256 ^ (i % descPadWidth d))

/-- Progress field (Table 73) of a state and position. -/
def progressField (d st p : Nat) : Nat :=
  st * 2 ^ 120 + (if st = 2 then 0
    else (List.range (descNdim d)).foldl (fun n k => n + descIndex d p k * 2 ^ (24 * k)) 0)

/-! ## Section images (Tables 53, 54) -/

def imgByte (b : List Byte) (off : Nat) : Nat := byteField b off 1
def imgKind (b : List Byte) : Nat := imgByte b 5
def imgPaired (b : List Byte) : Bool := bit (imgByte b 6) 0
def imgHasSuccessor (b : List Byte) : Bool := bit (imgByte b 6) 1
def imgPairPos (b : List Byte) : Nat := imgByte b 7
def imgSectionId (b : List Byte) : Nat := byteField b 8 4
def imgLen (b : List Byte) : Nat := byteField b 0xC 4
def imgDigest (b : List Byte) : Nat := byteField b 0x10 8
def imgSuccessor (b : List Byte) : Nat := byteField b 0x18 8
def imgPartner (b : List Byte) : Nat := byteField b 0x20 8
def imgNsteps (b : List Byte) : Nat := byteField b 0x28 2
def imgNdesc (b : List Byte) : Nat := byteField b 0x2A 2
def imgNpeer (b : List Byte) : Nat := imgByte b 0x2C
def imgNpin (b : List Byte) : Nat := byteField b 0x2E 2
def imgFnUsed (b : List Byte) : Nat := byteField b 0x30 4
def imgReadShare (b : List Byte) : Nat := byteField b 0x34 4
def imgWriteShare (b : List Byte) : Nat := byteField b 0x38 4
def imgRemoteShare (b : List Byte) : Nat := byteField b 0x3C 4
/-- Offset and length of segment k. -/
def segOff (b : List Byte) (k : Nat) : Nat := byteField b (0x80 + 8 * k) 4
def segLen (b : List Byte) (k : Nat) : Nat := byteField b (0x84 + 8 * k) 4
/-- `n` bytes at offset `o` of segment k; an absent segment reads as zeros (R198). -/
def segField (b : List Byte) (k o n : Nat) : Nat :=
  if o + n ≤ segLen b k then byteField b (segOff b k + o) n else 0

def secStep (b : List Byte) (i : Nat) : Step := segField b 0 (16 * i) 16
def secRoute (b : List Byte) (site cfg : Nat) : Nat := segField b 1 (site * 512 + cfg * 16) 16
/-- Bisector rule: network 0 vector, 1 scalar. -/
def secRule (b : List Byte) (site net r : Nat) : Nat := segField b 2 (site * 128 + net * 64 + r * 4) 4
def secUop (q : Nat) (b : List Byte) (site u : Nat) : Uop := segField b 3 (prismIndex q site * 8192 + u * 16) 16
def secAg (q : Nat) (b : List Byte) (site ag e : Nat) : AgEntry :=
  segField b 4 (sectorIndex q site * 1024 + ag * 512 + e * 32) 32
def secSal (q : Nat) (b : List Byte) (site i : Nat) : Nat := segField b 5 (sectorIndex q site * 256 + i * 4) 4
/-- Reset value of lane l of register r of a prism, and of word w of a sector's reset state (R198, segment 6). -/
def secPrismReset (q : Nat) (b : List Byte) (site r l : Nat) : Lane :=
  BitVec.ofNat 32 (segField b 6 (prismIndex q site * 4096 + r * 256 + l * 4) 4)
def secSectorReset (q : Nat) (b : List Byte) (site w : Nat) : Lane :=
  BitVec.ofNat 32 (segField b 6 ((prismSites q).length * 4096 + sectorIndex q site * 128 + w * 4) 4)
def secDesc (b : List Byte) (i : Nat) : Nat := segField b 7 (128 * i) 128
def secPeer (b : List Byte) (i n : Nat) : Nat := segField b 8 (n * i) n
def secPin (b : List Byte) (i : Nat) : Nat := segField b 9 (8 * i) 8
def secFnDigest (b : List Byte) (i : Nat) : Nat := segField b 10 (8 * i) 8

/-! ## Page-table entries (Tables 62, 63) -/

abbrev Pte := BitVec 64
def Pte.valid (p : Pte) : Bool := p.getLsbD 63
def Pte.tier (p : Pte) : Nat := bits p.toNat 62 61
def Pte.part (p : Pte) : Nat := bits p.toNat 60 57
def Pte.pins (p : Pte) : Nat := bits p.toNat 56 50
def Pte.mig (p : Pte) : Bool := p.getLsbD 49
def Pte.ro (p : Pte) : Bool := p.getLsbD 48
def Pte.hint (p : Pte) : Nat := bits p.toNat 47 46
def Pte.pref (p : Pte) : Nat := bits p.toNat 45 41
def Pte.frameField (p : Pte) : Nat := bits p.toNat 22 0
/-- Unit of the entry's frame (R237). -/
def Pte.unit (p : Pte) : Nat :=
  let f := p.frameField
  if p.tier = 0 then bits f 22 20 else if p.tier = 1 then 8 + bits f 22 19 else 20 + bits f 22 20
/-- Frame number within the unit (Table 63). -/
def Pte.frame (p : Pte) : Nat :=
  let f := p.frameField
  if p.tier = 0 then bits f 11 0 else if p.tier = 1 then bits f 14 0 else bits f 19 0
/-- Tier of a unit (R237). -/
def tierOf (u : Nat) : Nat := if u < 8 then 0 else if u < 20 then 1 else 2
/-- Frame field of a frame of a unit. -/
def frameFieldOf (u fr : Nat) : Nat :=
  if u < 8 then u * 2 ^ 20 + fr else if u < 20 then (u - 8) * 2 ^ 19 + fr else (u - 20) * 2 ^ 20 + fr
/-- Replace a field of an entry. -/
def Pte.put (p : Pte) (lo n v : Nat) : Pte := BitVec.ofNat 64 (putBits p.toNat lo n v)
/-- The entry with another frame. -/
def Pte.setFrame (p : Pte) (u fr : Nat) : Pte := (p.put 61 2 (tierOf u)).put 0 23 (frameFieldOf u fr)

end Sys2Proof.Machine
end

