-- ==== Sys2Proof/Machine/Ops.lean ====
section
/-! DEFINITION. The named operations over registers, memory, events and work: reading and writing a register field,
a quadrant, the tiers through the page table, host memory; posting an event (R480); ending a request (R402), a command
(R560, R221, R410) and a context (R405). -/

namespace Sys2Proof.Machine

/-! ## Registers -/

/-- The value of a register field, of its width. -/
def State.get (s : State) (f : Fld) : Nat := nget s.regs f.reset f.key % 2 ^ f.len

/-- Write a register field; bits beyond its width are dropped. -/
def State.set (s : State) (f : Fld) (v : Nat) : State := { s with regs := nset s.regs f.reset f.key (v % 2 ^ f.len) }

/-- Whether a one-bit field is set. -/
def State.on (s : State) (f : Fld) : Bool := s.get f % 2 = 1

/-- Add to a field that wraps. -/
def State.inc (s : State) (f : Fld) (n : Nat) : State := s.set f (s.get f + n)

/-- Add to a field that saturates. -/
def State.incSat (s : State) (f : Fld) (n : Nat) : State := s.set f (min (s.get f + n) (2 ^ f.len - 1))

/-- Subtract from a field, stopping at 0. -/
def State.dec (s : State) (f : Fld) (n : Nat) : State := s.set f (s.get f - n)

/-- Return a field to its reset value. -/
def State.clearFld (s : State) (f : Fld) : State := s.set f f.reset

/-! ## Quadrants -/

def State.quad (s : State) (q : Nat) : Quad := nget s.quads Quad.init q
def State.setQuad (s : State) (q : Nat) (x : Quad) : State := { s with quads := nset s.quads Quad.init q x }
def State.modQuad (s : State) (q : Nat) (f : Quad → Quad) : State := s.setQuad q (f (s.quad q))

def Quad.slot (x : Quad) (n : Nat) : Slot := nget x.slots Slot.init n
def Quad.setSlot (x : Quad) (n : Nat) (v : Slot) : Quad := { x with slots := nset x.slots Slot.init n v }
def Quad.desc (x : Quad) (i : Nat) : Option Desc := nget x.descs none i
def Quad.setDesc (x : Quad) (i : Nat) (d : Option Desc) : Quad := { x with descs := nset x.descs none i d }
def Lattice.prism (l : Lattice) (s : Nat) : Prism := nget l.prisms Prism.init s
def Lattice.setPrism (l : Lattice) (s : Nat) (p : Prism) : Lattice := { l with prisms := nset l.prisms Prism.init s p }
def Lattice.sector (l : Lattice) (s : Nat) : Sector := nget l.sectors Sector.init s
def Lattice.setSector (l : Lattice) (s : Nat) (x : Sector) : Lattice :=
  { l with sectors := nset l.sectors Sector.init s x }

/-- Add to a live lattice counter of 64 bits, which wraps (R87). -/
def Quad.count (x : Quad) (f : Fld) (n : Nat) : Quad :=
  { x with ctr := nset x.ctr 0 f.key ((nget x.ctr 0 f.key + n) % 2 ^ f.len) }

/-- Add to a live counter field that saturates (R92, R93). -/
def Quad.countSat (x : Quad) (f : Fld) (n : Nat) : Quad :=
  { x with ctr := nset x.ctr 0 f.key (min (nget x.ctr 0 f.key + n) (2 ^ f.len - 1)) }

/-- Raise a live maximum. -/
def Quad.countMax (x : Quad) (f : Fld) (v : Nat) : Quad :=
  { x with ctr := nset x.ctr 0 f.key (max (nget x.ctr 0 f.key) (min v (2 ^ f.len - 1))) }

/-- Whether a command of some slot is in progress. -/
def Quad.inProgress (x : Quad) : Bool := (List.range 8).any fun n => (x.slot n).cmd.isSome

/-- The slot whose command is in force; 8, the slot of nothing, where there is none. -/
def Quad.inForce (x : Quad) : Nat :=
  match x.cur with
  | some n => if (x.slot n).cmd.isSome then n else 8
  | none => 8

/-- The slot that an event names. -/
def slotTag (n : Nat) : Option Nat := if n < 8 then some n else none

/-- Remove repeats. -/
def dedup {α : Type} [DecidableEq α] (l : List α) : List α := l.foldl (fun a x => if x ∈ a then a else a ++ [x]) []

/-! ## Time, originators and partitions -/

/-- REQ_NOW: µs of the reference clock since the package reset (R370). -/
def State.now (s : State) : Nat := s.ticks / 25

/-- The shed state is in force (R522, R528). -/
def State.shedding (s : State) : Bool := s.mgmt.shed || s.mgmt.hot

/-- The clock of the timeouts that stand still in the shed state (R522), in ticks. -/
def State.timer (s : State) : Nat := s.ticks - s.mgmt.paused

/-- Whether an originator acts for a partition (Table 120). -/
def State.actsFor (s : State) (o : Orig) (p : Nat) : Bool :=
  match o with
  | .internal => true
  | .mc => true
  | .pf => true
  | .vf v => s.on (F.secVfPart_en v) && decide (s.get (F.secVfPart_part v) = p)
  | .tap => false

/-- The partition an originator acts for, when it acts for one only (R556). -/
def State.onlyPart (s : State) (o : Orig) : Option Nat :=
  match o with
  | .vf v => if s.on (F.secVfPart_en v) then some (s.get (F.secVfPart_part v)) else none
  | _ => none

/-- The physical function and the management controller (Table 120). -/
def isPf : Orig → Bool
  | .internal => true
  | .mc => true
  | .pf => true
  | _ => false

/-- The owning partition of a quadrant (R493). -/
def State.owner (s : State) (q : Nat) : Option Nat :=
  if s.on (F.secQuadOwn_en q) then some (s.get (F.secQuadOwn_part q)) else none

/-- Whether a quadrant is active: the fused mask of R13. -/
def State.active (s : State) (q : Nat) : Bool := decide (24 ≤ q) || s.fuses.dEn.getLsbD q

/-- Whether a quadrant is fenced (R478). -/
def State.fenced (s : State) (q : Nat) : Bool := bit (s.get F.ecuFence_fenced) q

/-- The context bound to a slot (R407). -/
def State.ctxOf (s : State) (q n : Nat) : Option Nat :=
  if s.on (F.seqSlotCtx_bound q n) then some (s.get (F.seqSlotCtx_ctx q n)) else none

/-- Partition of the context bound to a slot. -/
def State.slotPart (s : State) (q n : Nat) : Option Nat :=
  match s.ctxOf q n with
  | some c => some (s.get (F.mgtCtxCfg_part c))
  | none => none

/-- The committed image of a quadrant. -/
def State.image (s : State) (q : Nat) : List Byte :=
  match (s.quad q).committed with
  | some x => x.bytes
  | none => []

/-- The locked-pair partner of a quadrant whose committed section is paired (R176). -/
def State.partner (s : State) (q : Nat) : Option Nat :=
  match (s.quad q).committed with
  | some x => if imgPaired x.bytes then some (q / 4 * 4 + imgPairPos x.bytes % 4) else none
  | none => none

/-! ## Events (R480) -/

/-- What an event carries (Table 117). -/
structure Ev where
  code : Nat
  cls : Nat
  die : Nat
  part : Option Nat
  quad : Option Nat
  slot : Option Nat
  site : Option Nat
  orig : Nat
  arg : Nat
  deriving DecidableEq, Repr

def clsC : Nat := 0
def clsR : Nat := 1
def clsE : Nat := 2
def clsP : Nat := 3
def clsN : Nat := 4
def rimN : Nat := 8
def rimS : Nat := 9

/-- The 32 bytes of a log entry (Table 117). -/
def Ev.entry (e : Ev) (seq boot time : Nat) : List Byte :=
  leBytes 4 seq ++ leBytes 4 boot ++ leBytes 8 time ++ leBytes 2 e.code ++ leBytes 1 e.cls
    ++ leBytes 1 (e.die % 16 + if e.part.isSome then 16 else 0)
    ++ leBytes 1 (e.quad.getD 0xFF)
    ++ leBytes 1 ((match e.slot with | some n => n % 8 + 8 | none => 0) + e.part.getD 0 % 16 * 16)
    ++ leBytes 1 (e.site.getD 0xFF) ++ leBytes 1 e.orig ++ leBytes 8 e.arg

/-- Post an event: a new entry of the ring of 4,096, the tail, the loss count, and for class E and P the last code
(R478, R480, R481) and the alert causes of R530. -/
def State.post (s : State) (e : Ev) : State :=
  let seq := s.get F.ecuLogTail_seq
  let s1 := { s with log := nset s.log [] (seq % 4096) (e.entry seq s.boot s.now) }
  let s2 := if s1.get F.ecuLogDur_seq + 4096 ≤ seq then s1.inc F.ecuLogDrop_lost 1 else s1
  let s3 := s2.inc F.ecuLogTail_seq 1
  let s4 := if e.cls = clsE ∨ e.cls = clsP then s3.set F.ecuStat_last_code e.code else s3
  let s5 := if e.cls = clsE then s4.set F.mgtAlert_cause (s4.get F.mgtAlert_cause ||| 0x10) else s4
  if e.code = 0xC011 then s5.set F.mgtAlert_cause (s5.get F.mgtAlert_cause ||| 0x04) else s5

/-- An event of a unit that exists once on rim N (R556). -/
def evRim (code cls arg : Nat) (part : Option Nat) (orig : Nat) : Ev :=
  ⟨code, cls, rimN, part, none, none, none, orig, arg⟩

/-- An event of a quadrant, in the partition of the slot named or of the quadrant's owner (R556). -/
def State.evQuad (s : State) (code cls q : Nat) (slot site : Option Nat) (orig arg : Nat) : Ev :=
  let p := match slot with
    | some n => (s.slotPart q n).or (s.owner q)
    | none => s.owner q
  ⟨code, cls, q / 4, p, some q, slot, site, orig, arg⟩

/-- An element fault or a correction of a quadrant: it concerns no partition (R556). -/
def evElement (code cls q : Nat) (site : Option Nat) (orig arg : Nat) : Ev := ⟨code, cls, q / 4, none, some q, none, site, orig, arg⟩

/-- An event of a unit on rim N about quadrant q, in the partition of its owner (R556). -/
def State.evAbout (s : State) (code cls q orig arg : Nat) : Ev := ⟨code, cls, rimN, s.owner q, some q, none, none, orig, arg⟩

/-- Log an event of a quadrant. -/
def State.postQuad (s : State) (code cls q : Nat) (slot site : Option Nat) (arg : Nat) : State :=
  s.post (s.evQuad code cls q slot site 0 arg)

/-- Log an event of a unit on rim N. -/
def State.postRim (s : State) (code cls arg : Nat) (part : Option Nat) (orig : Nat) : State :=
  s.post (evRim code cls arg part orig)

/-! ## Host memory -/

/-- Write bytes to host memory (R258). -/
def State.hostWrite (s : State) (addr : Nat) (b : List Byte) : State :=
  { s with hostMem := (b.foldl (fun (a : Nat × List Host.Cell) x => (a.1 + 1, nset a.2 0 a.1 x)) (addr, s.hostMem)).2 }

/-- Send an MSI-X message. -/
def State.sendMsix (s : State) (part vector : Nat) : State := { s with msix := s.msix ++ [⟨part, vector⟩] }

/-- Send a message on a path. -/
def State.send (s : State) (path dest : Nat) (b : List Byte) : State := { s with sent := s.sent ++ [⟨path, dest, b⟩] }

/-- Answer of a bus read. -/
def State.answer (s : State) (v : Nat) : State := { s with readData := BitVec.ofNat 64 v }

/-! ## The tiers (R225, R233, R236) -/

/-- Key of byte `off` of a frame of a unit. -/
def memKey (unit frame off : Nat) : Nat := unit * 2 ^ 44 + frame * 2 ^ 21 + off

/-- Frame key for the frame-use table. -/
def frameKey (unit frame : Nat) : Nat := unit * 2 ^ 21 + frame

def State.page (s : State) (p : Nat) : Pte := nget s.pages 0 p
def State.setPage (s : State) (p : Nat) (e : Pte) : State := { s with pages := nset s.pages 0 p e }
def State.useOf (s : State) (u fr : Nat) : FrameUse := nget s.frames .free (frameKey u fr)
def State.setUse (s : State) (u fr : Nat) (x : FrameUse) : State :=
  { s with frames := nset s.frames .free (frameKey u fr) x }

/-- The XTS key of a far frame of partition p, where far encryption is on (R506). -/
def State.farKey (s : State) (u p : Nat) : Option (BitVec 512) :=
  if 20 ≤ u && s.on (F.secFarCrypt_en p) then some (nget s.sec.keys 0 (s.get (F.secFarCrypt_slot p))) else none

/-- The tweak of a 256-byte word of a far frame (R506). -/
def farTweak (u fr w : Nat) : Nat := (u - 20) * 2 ^ 48 + fr * 2 ^ 21 + w * 256

/-- The 256 bytes of word w of a frame, as an access for partition p reads them. -/
def State.frameWord (s : State) (u fr w p : Nat) : List Byte :=
  let raw := (List.range 256).map fun i => nget s.mem 0 (memKey u fr (w * 256 + i))
  match s.farKey u p with
  | some k => Config.xtsDecrypt k (farTweak u fr w) raw
  | none => raw

/-- Byte at an offset of a frame. -/
def State.frameByte (s : State) (u fr off p : Nat) : Byte :=
  match s.farKey u p with
  | some _ => (s.frameWord u fr (off / 256) p).getD (off % 256) 0
  | none => nget s.mem 0 (memKey u fr off)

/-- Write bytes at an offset of a frame as they are stored. -/
def State.rawWrite (s : State) (u fr off : Nat) (b : List Byte) : State :=
  { s with mem := (b.foldl (fun (a : Nat × List Host.Cell) x => (a.1 + 1, nset a.2 0 (memKey u fr a.1) x))
      (off, s.mem)).2 }

/-- Write bytes at an offset of a frame, word by word where the frame is encrypted. -/
def State.frameWrite (s : State) (u fr off p : Nat) (b : List Byte) : State :=
  match s.farKey u p with
  | none => s.rawWrite u fr off b
  | some k =>
    let first := off / 256
    let last := (off + b.length - 1) / 256
    (List.range (last + 1 - first)).foldl (fun t i =>
      let w := first + i
      let old := t.frameWord u fr w p
      let new := (List.range 256).map fun j =>
        if off ≤ w * 256 + j ∧ w * 256 + j < off + b.length then b.getD (w * 256 + j - off) 0 else old.getD j 0
      t.rawWrite u fr (w * 256) (Config.xtsEncrypt k (farTweak u fr w) new)) s

/-- Bytes that a unit's error code protects and delivers together: a 256-byte word of a base die, a 64-byte line of a stack
device (R227, R229); of a far device the line of a CXL.mem access. -/
def eccUnit (u : Nat) : Nat := if u < 8 then 256 else 64

/-- Whether the word or line at an offset of a frame has an error: correctable (false) or not (true). The errors of a base word
are those of its 64-bit parts, by their first byte (R227). -/
def State.eccBad (s : State) (u fr off : Nat) (b : Bool) : Bool :=
  let lo := memKey u fr (off / eccUnit u * eccUnit u)
  s.memBad.any fun e => decide (lo ≤ e.1) && decide (e.1 < lo + eccUnit u) && decide (e.2 = some b)

/-- Whether the word or line at an offset of a frame reads poisoned (R227, R229, R474). -/
def State.wordBad (s : State) (u fr off : Nat) : Bool := s.eccBad u fr off true

/-- Code of an access that a tier refuses: a retired base die (R469), a retired stack device or channel (R474), a far port down or a withdrawn
extent (R255), or a poisoned word. -/
def State.tierError (s : State) (u fr off : Nat) : Option Nat :=
  if 8 ≤ u ∧ u < 20 then
    if s.on (F.ecuStk_dev_retired (u - 8)) then some 0xA022
    else if s.on (F.ecuStk_ch_retired (u - 8)) ∧ off / 256 % 32 = s.get (F.ecuStk_channel (u - 8)) then some 0xA021
    else if s.wordBad u fr off then some 0x4011
    else none
  else if 20 ≤ u then
    if bit s.ecu.farDown (u - 20) then some 0x5012
    else if s.useOf u fr = .withdrawn then some 0x5013
    else if s.wordBad u fr off then some 0x5010
    else none
  else if bit (s.get F.ecuFacet_retired) u then some 0xA018
  else if s.wordBad u fr off then some 0x3011
  else none

/-- The first error over `n` bytes at an offset of a frame, by the 64-byte lines that they touch. -/
def State.spanError (s : State) (u fr off n : Nat) : Option Nat :=
  (List.range ((off + n + 63) / 64 - off / 64)).findSome? fun i => s.tierError u fr ((off / 64 + i) * 64)

/-- Translation of an address for a partition (R233, R254): the entry, or the code of the fault. -/
def State.translate (s : State) (addr : Nat) (part : Option Nat) (wr : Bool) : Except Nat Pte :=
  if 2 ^ 45 ≤ addr then .error 0x6030
  else
    let e := s.page (addr / 2 ^ 21)
    if !e.valid then .error 0x6030
    else if part.isSome && part != some e.part then .error 0x6031
    else if wr && e.ro then .error 0x6032
    else .ok e

/-- The entries of every page that `n` bytes at an address touch, or the first fault with its address. -/
def State.translateSpan (s : State) (addr n : Nat) (part : Option Nat) (wr : Bool) : Except (Nat × Nat) Unit :=
  (List.range ((addr + n - 1) / 2 ^ 21 + 1 - addr / 2 ^ 21)).foldl (fun r i =>
    match r with
    | .error e => .error e
    | .ok _ =>
      let a := max addr ((addr / 2 ^ 21 + i) * 2 ^ 21)
      match s.translate a part wr with
      | .ok _ => .ok ()
      | .error c => .error (c, a)) (.ok ())

/-- Byte at an address of the unified range through the page table; 0 where the page is not mapped. -/
def State.byteAt (s : State) (addr : Nat) : Byte :=
  let e := s.page (addr / 2 ^ 21)
  if e.valid ∧ addr < 2 ^ 45 then s.frameByte e.unit e.frame (addr % 2 ^ 21) e.part else 0

/-- `n` bytes at an address of the unified range. -/
def State.bytesAt (s : State) (addr n : Nat) : List Byte := (List.range n).map fun i => s.byteAt (addr + i)

/-- The first tier error over `n` bytes at an address. -/
def State.rangeError (s : State) (addr n : Nat) : Option Nat :=
  (List.range ((addr + n + 63) / 64 - addr / 64)).findSome? fun i =>
    let a := (addr / 64 + i) * 64
    let e := s.page (a / 2 ^ 21)
    if e.valid then s.tierError e.unit e.frame (a % 2 ^ 21) else none

/-- The first tier error over `n` bytes at an address, with the address that its event carries: of the 256-byte word for a
base-tier error (R227), of the 64-byte line for a stack error (R229), else of the access (R256). -/
def State.addrFault (s : State) (addr n : Nat) : Option (Nat × Nat) :=
  (List.range ((addr + n + 63) / 64 - addr / 64)).findSome? fun i =>
    let a := (addr / 64 + i) * 64
    (s.rangeError a 64).map fun c => (c, if c = 0x3011 then a / 256 * 256 else if c = 0x4011 then a else max a addr)

/-! ## Events of accesses -/

/-- Die that holds the controller of a unit (R36, R37, R556). -/
def unitDie (u : Nat) : Nat :=
  if u < 8 then u else if u < 14 then u - 8 else if u < 17 then 6 else if u < 20 then 7 else if u < 24 then rimN else rimS

/-- Log a tier or translation event of an access (R256): BTR and STK events hold the byte address within the unit, STR
and FAR events the unified-range address. Accesses to a retired device, or to a port whose link is down, log nothing of
their own (R255, R474). -/
def State.postAccess (s : State) (code cls addr : Nat) (part quad slot : Option Nat) : State :=
  let e := s.page (addr / 2 ^ 21)
  if code / 4096 = 0xA ∨ code = 0x5012 then s
  else if code / 4096 = 0x6 then
    s.post ⟨code, cls, match quad with | some q => q / 4 | none => rimN, part, quad, slot, none, 0, addr⟩
  else
    s.post ⟨code, cls, unitDie e.unit, part, quad, slot, some e.unit, 0,
      if code / 4096 = 0x5 then addr else e.frame * 2 ^ 21 + addr % 2 ^ 21⟩

/-- Errors corrected in a read of `n` bytes at an offset of a frame are counted against its unit: base-tier words are read
whole (R227), stack lines too (R229). -/
def State.countSpan (s : State) (u fr off n : Nat) : State :=
  let g := eccUnit u
  let lo := memKey u fr (off / g * g)
  let hi := memKey u fr ((off + n + g - 1) / g * g)
  let k := (s.memBad.filter fun e => decide (lo ≤ e.1) && decide (e.1 < hi) && decide (e.2 = some false)).length
  if k = 0 ∨ 20 ≤ u then s else { s with tierCorr := nmod s.tierCorr 0 u (· + k) }

/-- The parts of `n` bytes at an address in the pages that they touch: page, offset in it, bytes. -/
def pageParts (addr n : Nat) : List (Nat × Nat × Nat) :=
  (List.range ((addr + n + 2 ^ 21 - 1) / 2 ^ 21 - addr / 2 ^ 21)).map fun i =>
    let p := addr / 2 ^ 21 + i
    let lo := max addr (p * 2 ^ 21)
    (p, lo % 2 ^ 21, min (addr + n) ((p + 1) * 2 ^ 21) - lo)

/-- Correctable errors that a read meets are counted against their unit (R227, R229). -/
def State.countCorr (s : State) (addr n : Nat) : State :=
  (pageParts addr n).foldl (fun t w =>
    let e := t.page w.1
    if e.valid then t.countSpan e.unit e.frame w.2.1 w.2.2 else t) s

/-- The event of the first error that a read outside a command's transfer meets: no work ends with it (R227, R229, R464). -/
def State.logRead (s : State) (addr n : Nat) (part quad : Option Nat) : State :=
  match s.addrFault addr n with
  | some f => s.postAccess f.1 clsN f.2 part quad none
  | none => s

/-! ## Writing through the page table -/

/-- Write one byte at an address: held where the page is being migrated (R248), lost where the page is not mapped. -/
def State.writeByte (s : State) (addr : Nat) (b : Byte) : State :=
  let p := addr / 2 ^ 21
  let e := s.page p
  if !e.valid then s
  else if e.mig then
    { s with migrations := s.migrations.map fun m =>
        if m.page = p then { m with held := m.held ++ [(addr % 2 ^ 21, b)] } else m }
  else s.frameWrite e.unit e.frame (addr % 2 ^ 21) e.part [b]

/-- A part or line that a write replaces whole holds the write's check bits, and its error is gone (log entry 83). -/
def State.heal (s : State) (addr n : Nat) : State :=
  (pageParts addr n).foldl (fun t w =>
    let e := t.page w.1
    let g := if e.unit < 8 then 8 else 64
    if !e.valid || e.mig then t
    else { t with memBad := t.memBad.filter fun c =>
      !(decide (memKey e.unit e.frame w.2.1 ≤ c.1) && decide (c.1 + g ≤ memKey e.unit e.frame (w.2.1 + w.2.2))) }) s

/-- Write bytes at an address of the unified range. -/
def State.writeAt (s : State) (addr : Nat) (b : List Byte) : State :=
  ((b.foldl (fun (a : Nat × State) x => (a.1 + 1, a.2.writeByte a.1 x)) (addr, s)).2).heal addr b.length

/-- Whether a write of `n` bytes at an address is held: a page that it reaches is being migrated (R248). -/
def State.migHolds (s : State) (addr n : Nat) : Bool :=
  (pageParts addr n).any fun w => (s.page w.1).valid && (s.page w.1).mig

/-- A transfer waits at its engine with a write of `n` bytes at an address, for the switch or the end of a migration. -/
def State.migWait (s : State) (addr n : Nat) : State :=
  { s with migrations := s.migrations.map fun m =>
      if (pageParts addr n).any fun w => w.1 = m.page then { m with waits := true } else m }

/-- Whether every page of `n` bytes is mapped and owned by a partition. -/
def State.owned (s : State) (addr n : Nat) (part : Nat) : Bool :=
  match s.translateSpan addr n (some part) false with
  | .ok _ => true
  | .error _ => false

/-- Zero `n` bytes of a frame (R244). -/
def State.zeroFrame (s : State) (u fr : Nat) : State :=
  { s with
    mem := s.mem.filter (fun c => !decide (memKey u fr 0 ≤ c.1 ∧ c.1 < memKey u fr (2 ^ 21)))
    memBad := s.memBad.filter (fun c => !decide (memKey u fr 0 ≤ c.1 ∧ c.1 < memKey u fr (2 ^ 21))) }

/-! ## Requests (R397, R402, R403) -/

def State.entryOf (s : State) (i : Nat) : ReqEntry := nget s.req.entries ReqEntry.init i
def State.setEntry (s : State) (i : Nat) (e : ReqEntry) : State :=
  { s with req := { s.req with entries := nset s.req.entries ReqEntry.init i e } }
def State.group (s : State) (g : Nat) : Group := nget s.req.groups Group.init g
def State.setGroup (s : State) (g : Nat) (x : Group) : State :=
  { s with req := { s.req with groups := nset s.req.groups Group.init g x } }

/-- Identifier of an entry (R367). -/
def reqId (i : Nat) (e : ReqEntry) : Nat := e.gen.toNat * 65536 + i

/-- Fields of a request descriptor (Table 93) that the engine uses after admission. -/
def rdCookie (d : Nat) : Nat := bits d 63 0
def rdService (d : Nat) : Nat := bits d 71 64
def rdFlags (d : Nat) : Nat := bits d 79 72
def rdPolicy (d : Nat) : Nat := bits d 87 80
def rdLog2ring (d : Nat) : Nat := bits d 95 88
def rdHandle (d : Nat) : Nat := bits d 127 96
def rdPrompt (d : Nat) : Nat := bits d 191 128
def rdPromptLen (d : Nat) : Nat := bits d 223 192
def rdMaxNew (d : Nat) : Nat := bits d 255 224
def rdRing (d : Nat) : Nat := bits d 319 256
def rdStop (d : Nat) : Nat := bits d 383 320
def rdTtft (d : Nat) : Nat := bits d 415 384
def rdTbt (d : Nat) : Nat := bits d 447 416
def rdTime (d : Nat) : Nat := bits d 479 448
def rdSample (d : Nat) : Nat := bits d 639 512

/-- The completion record (Table 100). -/
def completionRecord (s : State) (i : Nat) (e : ReqEntry) (code cause stopPos prog : Nat) : List Byte :=
  leBytes 4 (reqId i e) ++ leBytes 2 code ++ leBytes 1 cause
    ++ leBytes 1 ((if e.ttftMiss then 1 else 0) + (if e.tbtMiss then 2 else 0) + (if e.fellBack then 4 else 0)
        + (if 0 < e.reused then 8 else 0))
    ++ leBytes 8 (rdCookie e.desc) ++ leBytes 4 (rdPromptLen e.desc) ++ leBytes 4 e.reused ++ leBytes 4 e.written
    ++ leBytes 4 stopPos
    ++ leBytes 4 (match e.tFirst with | some t => t - e.tAccept | none => 0xFFFFFFFF)
    ++ leBytes 4 e.tbtMax ++ leBytes 8 e.tbtSum ++ leBytes 4 e.intervals ++ leBytes 2 e.version
    ++ leBytes 1 e.service ++ leBytes 1 0 ++ leBytes 8 e.tAccept ++ leBytes 8 s.now ++ leBytes 8 e.wgate
    ++ leBytes 16 prog ++ leBytes 32 0

/-- log2 of a ring size, values outside 6 to 16 acting as the nearer bound (R284, R371). -/
def clampLog (n : Nat) : Nat := if n < 6 then 6 else if 16 < n then 16 else n

/-- Whether the completion ring of a partition has room and has not been stopped by an error (R371, R402). -/
def State.cqRoom (s : State) (p : Nat) : Bool :=
  decide (s.get (F.reqQStat_state p) ≠ 3) &&
    decide ((s.get (F.reqCqTail_tail p) + 1) % 2 ^ clampLog (s.get (F.reqQCfg_cq_log2n p)) ≠ s.get (F.reqCqHead_head p))

/-- Whether a write of n bytes to host memory by the request engine ends with an error (R397, R402; log entry 100). -/
def State.hostFails (s : State) (addr n : Nat) : Bool :=
  s.req.bad.any fun p => decide (addr / 4096 ≤ p) && decide (p * 4096 < addr + n)

/-- A write of the request engine to host memory: nothing changes where it ends with an error. -/
def State.ringPut (s : State) (addr : Nat) (b : List Byte) : State :=
  if s.hostFails addr b.length then s else s.hostWrite addr b

/-- Address of the next record of a completion queue. -/
def State.cqAddr (s : State) (p : Nat) : Nat := s.get (F.reqCqBase_addr p) * 4096 + s.get (F.reqCqTail_tail p) * 128

/-- Log a request-engine event (R404): the identifier in arg, the service or group in the unit field. -/
def State.postReq (s : State) (code cls id unit part : Nat) : State :=
  s.post ⟨code, cls, rimN, some part, none, none, some unit, 0, id⟩

/-- A record write that fails stops the queue (R402). -/
def State.cqStop (s : State) (p : Nat) : State :=
  ((s.set (F.reqQStat_state p) 3).set (F.reqQStat_code p) 0x80F0).postReq 0x80F0 clsN 0 p p

/-- Write one record to the completion queue of a partition and ring the completion doorbell (R371, R402). -/
def State.cqWrite (s : State) (p : Nat) (rcd : List Byte) : State :=
  let tail := s.get (F.reqCqTail_tail p)
  let t := (s.hostWrite (s.cqAddr p) rcd).set (F.reqCqTail_tail p)
    ((tail + 1) % 2 ^ clampLog (s.get (F.reqQCfg_cq_log2n p)))
  if t.on (F.reqQCfg_irq_en p) then t.sendMsix p (t.get (F.reqQCfg_vector p)) else t

/-- Write the record of entry i, or leave it in the entry: the ring is full or stopped, or the write fails (R402). -/
def State.record (s : State) (i p : Nat) (e : ReqEntry) (rcd : List Byte) : State :=
  if !s.cqRoom p then s.setEntry i { e with record := some rcd }
  else if s.hostFails (s.cqAddr p) 128 then (s.cqStop p).setEntry i { e with record := some rcd }
  else (s.cqWrite p rcd).setEntry i { e with record := none }

/-- Whether a placed batch still carries a request. -/
def State.carried (s : State) (id : Nat) : Bool :=
  s.req.groups.any fun g => g.2.batches.any fun b => !b.emitted && b.rows.any fun r => decide (r.id.toNat = id)

/-- Drop one reference of a pool page; a page with none is free again. -/
def State.dropPage (s : State) (k p : Nat) : State :=
  let key := k * 2 ^ 24 + p
  let n := nget s.req.pageRefs 0 key
  let t := { s with req := { s.req with pageRefs := nset s.req.pageRefs 0 key (n - 1) } }
  if n = 1 then t.inc (F.reqPoolFree_free (k % 32)) 1 else t

/-- Pool of shard `sh` of a service (Table 95). -/
def State.poolOf (s : State) (sv sh : Nat) : Nat := imgByte (nget s.req.services [] sv) (0x20 + sh) % 32

/-- Release the pages a request took and what is left of its reservation (R387). -/
def State.releasePages (s : State) (i : Nat) : State :=
  let e := s.entryOf i
  let n := imgByte (nget s.req.services [] e.service) 0xA
  let t := (List.range n).foldl (fun t sh =>
    let k := t.poolOf e.service sh
    let taken := nget e.pages [] sh
    let t1 := taken.foldl (fun u p => u.dropPage k p) t
    t1.inc (F.reqPoolFree_free k) (e.reserved - (taken.length - e.reused / 256))) s
  t.setEntry i { e with pages := [], reserved := 0 }

/-- Let a retiring entry go once its record is written and no placed batch carries it (Table 92). -/
def State.retire (s : State) (i : Nat) : State :=
  let e := s.entryOf i
  if e.state = 5 && e.record.isNone && !s.carried (reqId i e) then
    let t := s.releasePages i
    (t.setEntry i { t.entryOf i with state := 1, freedAt := s.now, group := none }).dec F.reqLive_live 1
  else s

/-- End a request with a code and a stop cause (R402): ring state, completion record, state 5. Exactly one record is
written, so an entry already in state 5 is left alone. -/
def State.endRequest (s : State) (i code cause stopPos prog : Nat) : State :=
  let e := s.entryOf i
  if e.state < 2 ∨ 5 ≤ e.state then s
  else
    let s1 := s.ringPut (rdRing e.desc + 8) (leBytes 4 1)
    (s1.record i e.part { e with state := 5 } (completionRecord s1 i e code cause stopPos prog)).retire i

/-- End every request of a list of identifiers. -/
def State.endIds (s : State) (ids : List Nat) (code prog : Nat) : State :=
  ids.foldl (fun t id =>
    if (t.entryOf (id % 65536)).gen.toNat = id / 65536 then t.endRequest (id % 65536) code 0 0 prog else t) s

/-- A group breaks when the command of consumer q ends (R403): its requests with a row in a placed batch that has not
emitted or, for a command that ends with a code, that it holds, and its decode members, end with the code. -/
def State.breakGroup (s : State) (q g code prog : Nat) : State :=
  let x := s.group g
  let c := if code = 0 then 0x8050 else code
  let holds := fun (b : Batch) => decide (code ≠ 0) && decide (b.n + 1 = nget x.counts 0 q)
  let placed := (x.batches.filter (fun b => !b.emitted || holds b)).flatMap fun b =>
    (b.rows.filter fun r => !r.dead).map fun r => r.id.toNat
  let members := (s.req.entries.filter (fun e => decide (e.2.group = some g) && decide (e.2.state = 4))).map
    fun e => reqId e.1 e.2
  let s1 := (s.set (F.reqGrpStat_state (g % 256)) 2).setGroup g
    { x with batches := x.batches.map fun b => { b with emitted := true } }
  let ids := placed ++ members
  let s1 := if code = 0 ∧ s.get (F.reqGrpStat_state (g % 256)) = 1 then
      s1.postReq 0x8050 (if ids.isEmpty then clsN else clsR) 0 g (imgByte (nget s.req.services [] x.service) 5)
    else s1
  (ids ++ (x.batches.flatMap fun b => b.rows.map fun r => r.id.toNat)).foldl (fun t id => t.retire (id % 65536))
    (s1.endIds ids c prog)

/-! ## Chord transactions and peers (R445, R448, R454) -/

def State.peerOf (s : State) (p : Nat) : Peer := nget s.chord.peers Peer.init p
def State.setPeer (s : State) (p : Nat) (x : Peer) : State :=
  { s with chord := { s.chord with peers := nset s.chord.peers Peer.init p x } }
def State.trans (s : State) (k : Nat) : Option Trans := nget s.chord.trans none k
def State.setTrans (s : State) (k : Nat) (x : Option Trans) : State :=
  { s with chord := { s.chord with trans := nset s.chord.trans none k x } }

/-- Whether an entry of a bound peer table is lost: bound as lost, or no longer the peer's present admission (R448). -/
def State.peerLost (s : State) (e : Nat × Nat) : Bool := decide (e.2 = 0) || decide ((s.peerOf e.1).adm ≠ e.2)

/-- A tag slot is freed: generation + 1 modulo 256, and held for 100 µs (R445). -/
def State.freeTag (s : State) (k : Nat) : State :=
  { s with chord := { s.chord with
    trans := nset s.chord.trans none k none
    gens := nset s.chord.gens 0 k ((nget s.chord.gens 0 k + 1) % 256)
    holds := nset s.chord.holds false k true } }

/-- Every transaction that `sel` picks ends. -/
def State.endTrans (s : State) (sel : Trans → Bool) : State :=
  s.chord.trans.foldl (fun t e => match e.2 with
    | some x => if sel x then t.freeTag e.1 else t
    | none => t) s

/-- A transaction is given back: its words wait for another one (R422, R424). -/
def State.giveBack (s : State) (k : Nat) (x : Trans) : State :=
  (s.freeTag k).modQuad x.q fun y => { y with descs := y.descs.map fun e => (e.1, e.2.map fun d =>
    if d.remote && decide (d.uid = x.uid) then { d with redo := d.redo ++ [(x.first, x.data.length)] } else d) }

/-- Whether a quadrant has a transaction in progress. -/
def State.flying (s : State) (q : Nat) : Bool :=
  s.chord.trans.any fun e => match e.2 with | some x => decide (x.q = q) | none => false

/-! ## Ending a command (R560, R221, R262, R410) -/

/-- Identifiers of the rows of the batches that a command of quadrant q holds: for each of its groups, the batch it took
last (R403). -/
def State.served (s : State) (q : Nat) (c : Cmd) : List Nat :=
  c.groups.flatMap fun g =>
    let x := s.group g
    (x.batches.filter fun b => decide (b.n + 1 = nget x.counts 0 q)).flatMap fun b =>
      dedup ((b.rows.filter fun r => !r.dead).map fun r => r.id.toNat)

/-- A request that an identifier still names. -/
def State.named (s : State) (id : Nat) : Option ReqEntry :=
  let e := s.entryOf (id % 65536)
  if e.gen.toNat = id / 65536 ∧ 2 ≤ e.state then some e else none

/-- Emit quadrant and emit tag of a group's entry of its service (Table 96). -/
def State.emitOf (s : State) (x : Group) : Nat × Nat :=
  let d := nget s.req.services [] x.service
  (imgByte d (0x83 + 48 * x.entry), byteField d (0x8A + 48 * x.entry) 2)

/-- Groups of which a command of quadrant q, whose section is `img`, is a consumer command: those whose gates it has passed, and
those in use that name the quadrant and at which the section has a gate (R403, R405). -/
def State.consumerGroups (s : State) (q : Nat) (img : List Byte) (c : Cmd) : List Nat :=
  let gates := (List.range (imgNsteps img)).filterMap fun i =>
    let w := secStep img i
    let x := s.group (Step.group w)
    if Step.op w = 0x08 ∧ Step.kind w = 4 ∧
        bit (byteField (nget s.req.services [] x.service) (0x84 + 48 * x.entry) 4) q then some (Step.group w) else none
  (dedup (c.groups ++ gates)).filter fun g => decide (s.get (F.reqGrpStat_state g) ≠ 0)

/-- The groups of a command that ends break (R403). -/
def State.breakGroups (s : State) (q : Nat) (img : List Byte) (c : Cmd) (code prog : Nat) : State :=
  (s.consumerGroups q img c).foldl (fun t g => t.breakGroup q g code prog) s

/-- The batches of which a descriptor with a tag is the emit when a command of quadrant q starts it: those that the command
holds of groups that name the quadrant and the tag (R394). -/
def State.emitFor (s : State) (q : Nat) (c : Cmd) (tag : Nat) : List (Nat × Nat) :=
  c.groups.filterMap fun g =>
    let x := s.group g
    if s.emitOf x = (q, tag) then some (g, nget x.counts 0 q - 1) else none

/-- A descriptor has completed: the emits that it is (R394). -/
def State.countEmit (s : State) (l : List (Nat × Nat)) : State :=
  l.foldl (fun t e => let x := t.group e.1; t.setGroup e.1 { x with emits := x.emits ++ [e.2] }) s

/-- Held fc of a WEIGHT gate reach every request that the command serves (R175, R398). -/
def State.reportHold (s : State) (q n fc : Nat) : State :=
  match ((s.quad q).slot n).cmd with
  | none => s
  | some c => (s.served q c).foldl (fun t id =>
      match t.named id with
      | some e => t.setEntry (id % 65536) { e with wgate := e.wgate + fc }
      | none => t.inc F.reqDrop_stale 1) s

/-- The hold of slot n in quadrant q, if any, is over with the fc counted for it: the longest hold of its index, SEQ_PC, and
the report of a WEIGHT hold, however it ends (R174, R175, R178, R182). -/
def State.closeHold (s : State) (q n : Nat) : State :=
  match (((s.quad q).slot n).cmd).bind (·.hold) with
  | none => s
  | some h =>
    let s1 := s.modQuad q fun x =>
      let y := x.countMax (F.seqGateStat_max q n h.kind) h.fc
      y.setSlot n { y.slot n with cmd := ((y.slot n).cmd).map fun c => { c with hold := none } }
    let s2 := (s1.set (F.seqPc_held q n) 0).set (F.seqPc_kind q n) 0
    if h.kind = 1 then s2.reportHold q n h.fc else s2

/-- Activities of a slot are cancelled: their results are carried as null items (R221). -/
def Prism.cancel (p : Prism) (n : Nat) : Prism :=
  { p with
    va := p.va.filter (fun w => w.slot != n), vb := p.vb.filter (fun w => w.slot != n)
    firings := p.firings.filter (fun w => w.slot != n), tiles := p.tiles.filter (fun w => w.slot != n)
    feeds := p.feeds.filter (fun w => w.slot != n), pipes := p.pipes.filter (fun w => w.slot != n) }

def Sector.cancel (x : Sector) (n : Nat) : Sector :=
  { x with
    runs := x.runs.filter (fun w => w.slot != n)
    prog := match x.prog with | some p => if p.slot = n then none else some p | none => none
    writes := x.writes.filter (fun w => w.slot != n) }

/-- Items on links belong to the slot in force, since another takes the quadrant only when none is under way (R413). -/
def Lattice.cancel (l : Lattice) (n : Nat) (inForce : Bool) : Lattice :=
  { l with
    prisms := nmapv l.prisms Prism.init (·.cancel n), sectors := nmapv l.sectors Sector.init (·.cancel n)
    flight := if inForce then [] else l.flight, drains := l.drains.filter (fun d => d.slot != n) }

/-- The words of a slot's timed descriptors that are not yet committed are not (R262). -/
def Lattice.dropTransfers (l : Lattice) (n : Nat) : Lattice :=
  { l with
    sectors := nmapv l.sectors Sector.init fun x => { x with writes := x.writes.filter fun w => w.fill.isNone || w.slot != n }
    drains := l.drains.filter fun d => d.slot != n }

/-- A word that neither the array nor a firing took leaves when the command in force at its acceptance ends (R558). -/
def Lattice.leaveStaged (l : Lattice) (n : Nat) : Lattice :=
  { l with prisms := nmapv l.prisms Prism.init fun p =>
      { p with
        va := p.va.filter (fun w => w.till.isSome || w.slot != n)
        vb := p.vb.filter (fun w => w.till.isSome || w.slot != n) } }

/-- The completion of a command of slot n (R410): SEQ_CQ_DONE, then done, then the MSI-X message. -/
def State.complete (s : State) (q n tag code : Nat) (irq : Bool) : State :=
  let t := ((s.set (F.seqCqDone_code q n) code).set (F.seqCqDone_tag q n) tag).inc (F.seqCqStat_done q n) 1
  if irq && t.on (F.seqSlotCtx_irq_en q n) then
    t.sendMsix ((t.slotPart q n).getD 0) (t.get (F.seqSlotCtx_vector q n))
  else t

/-- Loads that are dead go once none of their shards is being read. -/
def purgeLoads (l : List Load) : List Load :=
  l.filter fun y => !y.dead || y.shards.any fun e => e.2.phase = 1

/-- Streaming windows that `sel` picks take no more part in a load; it is dead when nothing else shares it (R307, R312). -/
def Load.release (y : Load) (sel : Nat → Bool) : Load :=
  let w := y.wins.filter fun e => !sel e
  { y with wins := w, dead := y.dead || (y.wins.any sel && w.isEmpty && !y.resident) }

/-- The windows of a slot when its command ends (R311, R312): not active, and the slots of streaming windows released. -/
def State.closeWindows (s : State) (q n : Nat) : State :=
  let t := (List.range 8).foldl (fun u w => u.set (F.ingWinPos_active (q * 64 + n * 8 + w)) 0) s
  { t with ing := { t.ing with loads := purgeLoads (t.ing.loads.map fun y => y.release fun e => decide (e / 8 = q * 8 + n)) } }

/-- The idle configuration once no command is in progress (R218). -/
def Quad.restRoute (x : Quad) : Quad := if x.inProgress then x else { x with lat := { x.lat with route := none } }

/-- End the command of slot n of one quadrant with a code, 0 at END. -/
def State.finishOne (s0 : State) (q n code prog : Nat) : State :=
  match ((s0.quad q).slot n).cmd with
  | none => s0
  | some c =>
    let s := s0.closeHold q n
    let x := s.quad q
    let x1 := if code = 0 then { x with lat := (x.lat.leaveStaged n).dropTransfers n }
      else { x with lat := x.lat.cancel n (decide (x.cur = some n)) }
    let x2 := { x1 with
      timed := x1.timed.filter fun t => t.slot != n
      descs := x1.descs.filter (fun e => match e.2 with | some d => d.slot != n | none => false)
      cur := if x1.cur = some n then none else x1.cur
      due := if x1.cur = some n then true else x1.due }
    let x3 := (x2.setSlot n { x2.slot n with cmd := none }).restRoute
    let s0 := s.endTrans fun y => decide (y.q = q) && decide (y.slot = n)
    let s1 := ((s0.setQuad q x3).set (F.seqPc_active q n) 0).set (F.seqPc_held q n) 0
    let s2 := ((s1.closeWindows q n).set (F.seqPc_kind q n) 0).complete q n c.tag code c.irq
    s2.breakGroups q (s0.image q) c code prog

/-- End the command of slot n of a quadrant with a code. A code ends the partner's command as well (R177). -/
def State.finish (s : State) (q n code prog : Nat) : State :=
  let t := s.finishOne q n code prog
  if code = 0 then t
  else match s.partner q with
    | some p => t.finishOne p n code prog
    | none => t

/-- The queued entries of a slot complete without starting, each with the code (R405). -/
def State.flushQueue (s : State) (q n code : Nat) : State :=
  let sl := (s.quad q).slot n
  let t := sl.queue.foldl (fun u e => u.complete q n (bits e 47 32) code (bit e 31)) s
  (t.modQuad q fun x => x.setSlot n { x.slot n with queue := [] }).set (F.seqCqStat_queued q n) 0

/-- Quadrants of ECU_CUT_SET in ascending order, with the first page of the part of each (R487). -/
def State.cutParts (s : State) : List (Nat × Nat) :=
  let set := (List.range 32).filter fun q => bit (s.get F.ecuCutSet_quadrants) q
  (set.foldl (fun (a : Nat × List (Nat × Nat)) q => (a.1 + (if isW q then 31 else 45), a.2 ++ [(q, a.1)]))
    (s.get F.ecuCutAddr_addr, [])).2

/-- A cut fails: nothing of its region can be restored (R490). -/
def State.failCut (s0 : State) (code : Nat) : State :=
  let s : State := { s0 with ecu := { s0.ecu with
    cuts := s0.ecu.cuts.filter fun e => !s0.cutParts.any fun p => decide (p.2 = e.1) } }
  let t := ((s.set F.ecuCutCtl_state 0).set F.ecuCutCtl_status 3).set F.ecuCutCtl_code code
  t.postRim 0xA041 clsN (t.get F.ecuCutAddr_addr * 2 ^ 21) none 0

/-- Whether quadrant q is in the set of a cut in progress. -/
def State.inCut (s : State) (q : Nat) : Bool :=
  decide (1 ≤ s.get F.ecuCutCtl_state) && decide (s.get F.ecuCutCtl_state ≤ 4) && bit (s.get F.ecuCutSet_quadrants) q

def State.cutFence (s : State) (q : Nat) : State := if s.inCut q then s.failCut 0xA041 else s

/-- End one slot's work for a context that ends. -/
def State.endSlot (s : State) (q n code prog : Nat) : State :=
  ((s.finish q n code prog).flushQueue q n code).cutFence q

/-- A context ends with a code (R405): its slots' commands and queued entries end; the bindings stay. -/
def State.endContext (s : State) (c code prog : Nat) : State :=
  let s1 := (s.set (F.mgtCtxCfg_ended c) 1).set (F.mgtCtxCfg_code c) code
  (List.range 32).foldl (fun t q =>
    (List.range 8).foldl (fun u n => if u.ctxOf q n = some c then u.endSlot q n code prog else u) t) s1

/-- End the context bound to a slot, or the slot's command where none is bound. -/
def State.endSlotContext (s : State) (q n code prog : Nat) : State :=
  match s.ctxOf q n with
  | some c => s.endContext c code prog
  | none => s.finish q n code prog

/-- What a cause of one code brings: the command's code, and its context's where it ends the context. -/
def endingOf (code : Code) (ctx : Bool) : Code × Option Code := (code, if ctx then some code else none)

/-- A later cause joins those that wait: the command keeps its first code, and the context the first that ends it (R61, R85,
R560). -/
def joinEnding (a : Option (Code × Option Code)) (b : Code × Option Code) : Code × Option Code :=
  match a with
  | some e => (e.1, e.2.or b.2)
  | none => b

/-- Words of the timed descriptor that the step begun in fc `st` started which the base port has not yet committed (R80). -/
def Quad.timedInFlight (x : Quad) (st : Nat) : Nat :=
  (x.lat.drains.filter fun d => decide (d.step = st)).length +
    (x.lat.sectors.map fun e => (e.2.writes.filter fun w => decide (w.fill = some st)).length).sum

/-- The progress field that the end of a command by a poisoned word of a timed descriptor reports: the first position not
fully committed, the faulting one at the latest (R255, R268, R292); 0 where no transfer is the cause. -/
def Quad.timedProgress (x : Quad) (c : Cmd) : Nat :=
  match c.fault with
  | none => 0
  | some f =>
    match x.timed.find? fun t => decide (t.step = f.1) with
    | none => f.2.2
    | some t =>
      let pos := (t.words - x.timedInFlight f.1) / (descElem t.bits / 256)
      if pos < f.2.1 then progressField t.bits 3 pos else f.2.2

/-- End the command of slot n, and its context where a cause says so (R405, R560). -/
def State.endCmd (s : State) (q n : Nat) (e : Code × Option Code) : State :=
  let prog := match ((s.quad q).slot n).cmd with | some c => (s.quad q).timedProgress c | none => 0
  match e.2 with
  | none => s.finish q n e.1.toNat prog
  | some c =>
    if c = e.1 then s.endSlotContext q n c.toNat prog else (s.finish q n e.1.toNat prog).endSlotContext q n c.toNat prog

/-- A cause that ends the command of slot n is delivered (R560): while its step runs it waits for the end of that step; a
command held at a gate, or one that the wheel does not run, ends at once. -/
def State.causeEnd (s : State) (q n : Nat) (code : Code) (ctx : Bool) : State :=
  match ((s.quad q).slot n).cmd with
  | none => s
  | some c =>
    let e := joinEnding c.ending (endingOf code ctx)
    if (s.quad q).cur = some n ∧ c.hold.isNone then
      s.modQuad q fun x => x.setSlot n { x.slot n with cmd := some { c with ending := some e } }
    else s.endCmd q n e

/-- Arg of a sequencer event (R559): step index and named item. -/
def seqArg (step item : Nat) : Nat := step % 2 ^ 14 + item % 256 * 2 ^ 16

/-- Record a resource fault in SEQ_SEC_FAULT (R222). -/
def State.secFault (s : State) (code q n resource st : Nat) (site : Option Nat) : State :=
  ((((s.set (F.seqSecFault_code q) code).set (F.seqSecFault_resource q) resource).set (F.seqSecFault_site q)
    (site.getD 0xFF)).set (F.seqSecFault_slot q) n).set (F.seqSecFault_step q) st

/-- A resource overflows with no command in force: the event and SEQ_SEC_FAULT carry slot 0 and step 0 as a command's
absence leaves them (R220 to R222, DEDUCED, log entry 51). -/
def State.idleFault (s : State) (code q resource : Nat) (site : Option Nat) : State :=
  (s.postQuad code clsN q none site (seqArg 0 resource)).secFault code q 0 resource 0 site

/-- Log a sequencer event of the command of slot n and record a resource fault in SEQ_SEC_FAULT (R220, R222). -/
def State.resourceFault (s : State) (code q n resource : Nat) (site : Option Nat) : State :=
  let st := s.get (F.seqPc_step q n)
  (s.postQuad code clsR q (some n) site (seqArg st resource)).secFault code q n resource st site

end Sys2Proof.Machine
end

