-- ==== Sys2Proof/Machine/Shipped.lean ====
section
/-! DEFINITION. The shipped functions inside their domains (R139): their exact values in fixed point with 256 fraction bits, the
largest errors of Table 38, and the free result held to them (log entry 12). -/

namespace Sys2Proof.Machine

/-! ## Fixed point -/

/-- One, with 256 fraction bits. Values are right to about 150 of them, far below the errors of Table 38. -/
def fxOne : Int := 2 ^ 256
def fxMul (a b : Int) : Int := a * b / fxOne
def fxDiv (a b : Int) : Int := a * fxOne / b

/-- Σ sⁿ z^(2n+1) / (2n+1): the area tangent of z for s = 1, its arc tangent for s = −1. -/
def fxAtan (s z : Int) : Int :=
  let z2 := s * fxMul z z
  fxMul z ((List.range 110).reverse.foldl (fun (a : Int) (n : Nat) => fxOne / (2 * n + 1) + fxMul z2 a) 0)

def fxLn2 : Int := 2 * fxAtan 1 (fxOne / 3)
def fxPi : Int := 16 * fxAtan (-1) (fxOne / 5) - 4 * fxAtan (-1) (fxOne / 239)

/-- The square root of a value that is not negative, by Newton's steps from a power of two above it. -/
def fxSqrt (a : Int) : Int :=
  let n : Int := a * fxOne
  if n ≤ 0 then 0 else (List.range 14).foldl (fun x _ => (x + n / x) / 2) (2 ^ (Nat.log2 n.toNat / 2 + 1))

/-- e^y: 0 far below the domains. -/
def fxExp (y : Int) : Int :=
  if y < -300 * fxOne then 0
  else
    let n := y / fxLn2
    let r := y - n * fxLn2
    let e := (List.range 70).reverse.foldl (fun (a : Int) (k : Nat) => fxOne + fxMul r a / (k + 1)) fxOne
    if 0 ≤ n then e * 2 ^ n.toNat else e / 2 ^ (-n).toNat

/-- ln w of a positive value. -/
def fxLn (w : Int) : Int :=
  let k := Nat.log2 w.toNat
  let m : Int := if k ≤ 256 then w * 2 ^ (256 - k) else w / 2 ^ (k - 256)
  ((k : Int) - 256) * fxLn2 + 2 * fxAtan 1 (fxDiv (m - fxOne) (m + fxOne))

/-- 1 / (1 + e^−y). -/
def fxSigmoid (y : Int) : Int := if 200 * fxOne < y then fxOne else if y < -200 * fxOne then 0 else fxDiv fxOne (fxOne + fxExp (-y))

/-- erf z. -/
def fxErf (z : Int) : Int :=
  if 7 * fxOne < z then fxOne else if z < -7 * fxOne then -fxOne
  else
    let z2 := fxMul z z
    let r := (List.range 270).foldl (fun (p : Int × Int) (n : Nat) =>
      (-(fxMul p.1 z2) / (n + 1), p.2 + p.1 / (2 * n + 1))) (z, 0)
    2 * fxDiv r.2 (fxSqrt fxPi)

/-- Σ (−1)ⁿ t^(2n+i) / (2n+i)!: the cosine for i = 0, the sine for i = 1. -/
def fxTrig (i : Nat) (x : Int) : Int :=
  let t := x % (2 * fxPi)
  let t2 := fxMul t t
  let a := (List.range 70).reverse.foldl (fun (a : Int) (n : Nat) => fxOne - fxMul t2 a / ((2 * n + 1 + i) * (2 * n + 2 + i))) fxOne
  if i = 0 then a else fxMul t a

/-! ## Table 38 -/

/-- The exact value of function k at x. -/
def shippedValue (k : Nat) (x : Int) : Int :=
  match k with
  | 0 => fxExp (fxMul x fxLn2)
  | 1 => fxExp x
  | 2 => fxDiv (fxLn x) fxLn2
  | 3 => fxLn x
  | 4 => fxDiv fxOne x
  | 5 => fxDiv fxOne (fxSqrt x)
  | 6 => fxSqrt x
  | 7 => let e := fxExp (2 * x); fxDiv (e - fxOne) (e + fxOne)
  | 8 => fxSigmoid x
  | 9 => fxMul x (fxSigmoid x)
  | 10 => fxMul x (fxSigmoid (2 * (797885 * (x + 44715 * fxMul x (fxMul x x) / 1000000) / 1000000)))
  | 11 => fxMul x (fxOne + fxErf (fxMul x (fxSqrt (fxOne / 2)))) / 2
  | 12 => fxErf x
  | 13 => fxLn (fxOne + fxExp x)
  | 14 => fxTrig 1 x
  | _ => fxTrig 0 x

/-- The largest error of function k: ulp of the exact result, and an absolute error. -/
def shippedError (k : Nat) : Nat × Int :=
  match k with
  | 0 => (2, 0) | 1 => (3, 0) | 2 => (2, 2 ^ 234) | 3 => (3, 2 ^ 234) | 4 => (1, 0) | 5 => (1, 0) | 6 => (1, 0) | 7 => (2, 0)
  | 8 => (3, 2 ^ 232) | 9 => (4, 2 ^ 232) | 10 => (4, 2 ^ 232) | 11 => (4, 2 ^ 232) | 12 => (3, 2 ^ 232) | 13 => (3, 2 ^ 232)
  | _ => (0, 2 ^ 234)

/-- A finite FP32 value in fixed point. -/
def fxOf (x : Lane) : Option Int :=
  match Num.ofLane .fp32 x with
  | .fin m e => some (m * 2 ^ (e + 256).toNat)
  | _ => none

/-- ulp of an exact value (R105). -/
def fxUlp (v : Int) : Int := 2 ^ (Nat.log2 v.natAbs - 23)

/-- Whether r is a result that Table 38 allows function k at x: within the largest error, +0 where the exact value is below the
smallest normal (R117), and no encoding of a subnormal or of −0 (R116). The comparison allows 2^−156 more, for the fixed point. -/
def shippedOk (k : Nat) (x r : Lane) : Bool :=
  match fxOf x, fxOf r with
  | some a, some b =>
    let v := shippedValue k a
    let bound := max (((shippedError k).1 : Int) * fxUlp v) (shippedError k).2 + 2 ^ 100
    (decide (r.toNat / 2 ^ 23 % 256 ≠ 0) || decide (r = 0)) &&
      (decide ((b - v).natAbs ≤ bound.toNat) || (decide (r = 0) && decide (v.natAbs < 2 ^ 130)))
  | _, _ => false

/-- The result nearest to the exact value. -/
def shippedNear (k : Nat) (x : Lane) : Lane :=
  match fxOf x with
  | some a => (roundFp .fp32 ⟨8, 23, 127⟩ false false (.fin (shippedValue k a) (-256))).1
  | none => 0

/-- The result of function k inside its domain: any that Table 38 allows, which the spec leaves open (R139; log entry 12). -/
def shippedResult (k : Nat) (x : Lane) : Lane :=
  if shippedOk k x (Config.shippedFn k x) then Config.shippedFn k x else shippedNear k x

end Sys2Proof.Machine
end

