-- ==== Sys2Proof/Machine/Vector.lean ====
section
/-! DEFINITION. The prism's vector pipeline (R72 to R74, R190), function mode (chapter 4) and row statistics (R148 to
R150), lane by lane. -/

namespace Sys2Proof.Machine

/-- A word of 64 zero lanes. -/
def zeroWord : List Lane := List.replicate 64 0

def laneAt (w : List Lane) (i : Nat) : Lane := w.getD i 0

/-- The format of a code; a reserved code, which the load refuses, reads as FP32. -/
def fmtOf (c : Nat) : Fmt := (Fmt.ofCode (BitVec.ofNat 4 c)).getD .fp32

/-- Whether a format code is an integer code (R188). -/
def intCode (c : Nat) : Bool := decide (8 ≤ c)

/-- Pack and unpack (R112). -/
def pack16 (a b : Lane) : Lane := (a &&& 0xFFFF) ||| (b <<< 16)
def pack8 (a b : Lane) : Lane := (a &&& 0xFF) ||| ((b &&& 0xFF) <<< 8)
def unpack16 (a : Lane) (j : Nat) : Lane := (a >>> (16 * j)) &&& 0xFFFF
def unpack8 (a : Lane) (j : Nat) : Lane := (a >>> (8 * j)) &&& 0xFF

/-- The lane operations of Table 48. -/
def laneOp (op fmt dfmt : Nat) (trunc sat : Bool) (a b c : Lane) : Lane × NFlags :=
  let k : NMode := ⟨fmtOf fmt, fmtOf dfmt, trunc, sat⟩
  match op with
  | 0x01 => opFma k a b c
  | 0x02 => opAdd k a b
  | 0x03 => opSub k a b
  | 0x04 => opMul k a b
  | 0x05 => opMinMax false k a b
  | 0x06 => opMinMax true k a b
  | 0x07 => (if c ≠ 0 then a else b, 0)
  | 0x08 => opCvt k a
  | 0x10 => satAdd a b
  | 0x11 => satSub a b
  | 0x12 => (a <<< (b.toNat % 32), 0)
  | 0x13 => (a >>> (b.toNat % 32), 0)
  | 0x14 => (a.sshiftRight (b.toNat % 32), 0)
  | 0x15 => (a &&& b, 0)
  | 0x16 => (a ||| b, 0)
  | 0x17 => (a ^^^ b, 0)
  | 0x18 => (pack16 a b, 0)
  | 0x19 => (pack8 a b, 0)
  | 0x1A => (unpack16 a 0, 0)
  | 0x1B => (unpack16 a 1, 0)
  | 0x1C => (unpack8 a 0, 0)
  | 0x1D => (unpack8 a 1, 0)
  | 0x1E => (unpack8 a 2, 0)
  | 0x1F => (unpack8 a 3, 0)
  | _ =>
    if 0x20 ≤ op ∧ op ≤ 0x25 then opCmp (op - 0x20) false k.sfmt a b
    else if 0x28 ≤ op ∧ op ≤ 0x2D then opCmp (op - 0x28) true k.sfmt a b
    else (a, 0)

/-- Apply an operation to 64 lanes, collecting the flags. -/
def mapLanes (f : Nat → Lane × NFlags) : List Lane × NFlags :=
  let r := (List.range 64).map f
  (r.map (·.1), r.foldl (fun x y => x ||| y.2) 0)

/-- One stage over a word: the permutes of V6 move whole words (Table 48). -/
def wordOp (x : VStage) (trunc sat : Bool) (a b c : List Lane) : List Lane × NFlags :=
  let sh := (laneAt b 0).toNat % 64
  match VStage.op x with
  | 0x30 => ((List.range 64).map fun i => laneAt a ((i + sh) % 64), 0)
  | 0x31 => (List.replicate 64 (laneAt a sh), 0)
  | 0x32 => ((List.range 64).map fun i => if i % 2 = 0 then laneAt a (i / 2) else laneAt b (i / 2), 0)
  | op => mapLanes fun i => laneOp op (VStage.fmt x) (VStage.dfmt x) trunc sat (laneAt a i) (laneAt b i) (laneAt c i)

/-- Whether an operation of Table 48 takes a second and a third operand. -/
def usesB (op : Nat) : Bool := !(op = 0x00 || op = 0x08 || (0x1A ≤ op && op ≤ 0x1F))
def usesC (op : Nat) : Bool := op = 0x01 || op = 0x07

def Prism.reg (p : Prism) (r : Nat) : List Lane := nget p.rf zeroWord (r % 16)
def Prism.regBad (p : Prism) (r : Nat) : Bool := p.rfPoison.contains (r % 16) || p.parity.contains (4 + r % 16)

/-- The immediate operand of a stage (R188). -/
def immWord (fmt imm : Nat) : List Lane :=
  List.replicate 64 (if intCode fmt then BitVec.ofInt 32 (signed 16 imm) else BitVec.ofNat 32 (imm * 65536))

/-- The second operand of a stage and its poison (R190). -/
def stageB (p : Prism) (x : VStage) (imm : Nat) : List Lane × Bool :=
  match VStage.src2 x with
  | 0 => (p.reg (VStage.reg x), p.regBad (VStage.reg x))
  | 1 => (List.replicate 64 p.bcast, p.bcastPoison)
  | 2 => (immWord (VStage.fmt x) imm, false)
  | _ => (p.reg (VStage.reg x ^^^ 1), p.regBad (VStage.reg x ^^^ 1))

/-- Registers that a stage reads for a word (R190). -/
def stageRegs (x : VStage) : List Nat :=
  (if usesB (VStage.op x) then
    (if VStage.src2 x = 0 then [VStage.reg x] else if VStage.src2 x = 3 then [VStage.reg x ^^^ 1] else []) else []) ++
  if usesC (VStage.op x) then [VStage.reg x] else []

/-- A word through stage s of a VCFG (R72, R190). A poisoned input raises no flag and poisons the result (R122); a
null word passes as null (Table 17). -/
def stageWord (p : Prism) (cfg imm s : Nat) (w : Pipe) : Pipe × NFlags :=
  if w.null then (w, 0)
  else
    let x := Vcfg.stage cfg s
    let (b, bp) := stageB p x imm
    let c := p.reg (VStage.reg x)
    let (r, fl) := wordOp x (Vcfg.trunc cfg) (Vcfg.sat cfg) w.f0 b c
    let pz := w.poison || (usesB (VStage.op x) && bp) || (usesC (VStage.op x) && p.regBad (VStage.reg x))
    ({ w with f0 := r, poison := pz }, if pz then 0 else fl)

/-! ## Function mode (R130, R138, R147) -/

/-- Value of an operand selector in a lane, and its poison (Table 36). -/
def selWord (p : Prism) (img : List Byte) (w : Pipe) (sel : Nat) : List Lane × Bool :=
  match sel with
  | 0 => (w.f0, false)
  | 1 => (w.f1, false)
  | 2 => (w.f2, false)
  | 3 => (w.f3, false)
  | 4 => (List.replicate 64 p.bcast, p.bcastPoison)
  | 5 => (p.reg (Uop.regS w.uop), p.regBad (Uop.regS w.uop))
  | 6 => (p.reg (Uop.regB w.uop), p.regBad (Uop.regB w.uop))
  | n => (List.replicate 64 (fnPool img (n % 16)), false)

/-- The fold opcodes (Table 37). -/
def foldWord (op : Nat) (k : NMode) (d : Nat) (a : List Lane) : List Lane × NFlags :=
  mapLanes fun i =>
    let x := laneAt a i
    let y := laneAt a ((i + d) % 64)
    if op = 0x18 then opAdd k x y else opMinMax (decide (op = 0x19)) k x y

/-- Selectors that a function opcode reads. -/
def fnUses (op : Nat) : Bool × Bool :=
  if op = 0x01 || op = 0x08 then (true, true)
  else if op = 0x00 || op = 0x09 || (0x12 ≤ op && op ≤ 0x14) || 0x18 ≤ op then (false, false)
  else (true, false)

/-- The result word of a function entry (Table 37). -/
def fnResult (img : List Byte) (e : FnEntry) (a b c : List Lane) : List Lane × NFlags :=
  let k : NMode := ⟨fmtOf (FnEntry.sfmt e), fmtOf (FnEntry.dfmt e), FnEntry.trunc e, FnEntry.sat e⟩
  let aux := FnEntry.aux e
  match FnEntry.op e with
  | 0x00 => (a, 0)
  | 0x01 => mapLanes fun i => opFma k (laneAt a i) (laneAt b i) (laneAt c i)
  | 0x02 => mapLanes fun i => opAdd k (laneAt a i) (laneAt b i)
  | 0x03 => mapLanes fun i => opSub k (laneAt a i) (laneAt b i)
  | 0x04 => mapLanes fun i => opMul k (laneAt a i) (laneAt b i)
  | 0x05 => mapLanes fun i => opMinMax false k (laneAt a i) (laneAt b i)
  | 0x06 => mapLanes fun i => opMinMax true k (laneAt a i) (laneAt b i)
  | 0x07 => mapLanes fun i => opCmp (aux % 8) (bit aux 3) k.sfmt (laneAt a i) (laneAt b i)
  | 0x08 => mapLanes fun i => (if laneAt c i ≠ 0 then laneAt a i else laneAt b i, 0)
  | 0x09 => mapLanes fun i => opCvt k (laneAt a i)
  | 0x10 => mapLanes fun i => satAdd (laneAt a i) (laneAt b i)
  | 0x11 => mapLanes fun i => satSub (laneAt a i) (laneAt b i)
  | 0x12 => mapLanes fun i => (laneAt a i <<< (aux % 32), 0)
  | 0x13 => mapLanes fun i => (laneAt a i >>> (aux % 32), 0)
  | 0x14 => mapLanes fun i => ((laneAt a i).sshiftRight (aux % 32), 0)
  | 0x15 => mapLanes fun i => (laneAt a i &&& laneAt b i, 0)
  | 0x16 => mapLanes fun i => (laneAt a i ||| laneAt b i, 0)
  | 0x17 => mapLanes fun i => (laneAt a i ^^^ laneAt b i, 0)
  | 0x1B => (List.replicate 64 (laneAt a (aux % 64)), 0)
  | 0x20 => mapLanes fun i => (fnPool img (16 * (aux / 32 % 4) + (laneAt a i >>> (aux % 32)).toNat % 16), 0)
  | op => if 0x18 ≤ op ∧ op ≤ 0x1A then foldWord op k (2 ^ (aux % 8)) a else (a, 0)

/-- Put a word into function register fd. -/
def Pipe.put (w : Pipe) (fd : Nat) (v : List Lane) : Pipe :=
  match fd with
  | 0 => { w with f0 := v }
  | 1 => { w with f1 := v }
  | 2 => { w with f2 := v }
  | _ => { w with f3 := v }

/-- One entry of a microprogram over a word (R130, R133). The flags of the entries before the first one that reads a poisoned
input stand (DEDUCED, log entry 87: R122 is read entry by entry). -/
def fnEntryWord (p : Prism) (img : List Byte) (e : FnEntry) (w : Pipe) : Pipe × NFlags :=
  let (a, ap) := selWord p img w (FnEntry.sa e)
  let (b, bp) := selWord p img w (FnEntry.sb e)
  let (c, cp) := selWord p img w (FnEntry.sc e)
  let (ub, uc) := fnUses (FnEntry.op e)
  let pz := w.poison || ap || (ub && bp) || (uc && cp)
  let (r, fl) := fnResult img e a b c
  ({ w.put (FnEntry.fd e) r with poison := pz }, if pz then 0 else fl)

/-- The fused form that replaces entry i, where the micro-operation names one (Table 39). -/
def fusedWord (p : Prism) (i : Nat) (w : Pipe) : Option (Pipe × NFlags) :=
  let u := w.uop
  let rs := p.reg (Uop.regS u)
  let rb := p.reg (Uop.regB u)
  let fin := fun (r : List Lane × NFlags) (bad : Bool) =>
    some ({ w with f0 := r.1, poison := w.poison || bad }, if w.poison || bad then 0 else r.2)
  if i = 0 then
    match Uop.fusedPre u with
    | 1 => fin (mapLanes fun i => opAdd .plain (laneAt w.f0 i) (laneAt rb i)) (p.regBad (Uop.regB u))
    | 2 => fin (mapLanes fun i => opFma .plain (laneAt w.f0 i) (laneAt rs i) (laneAt rb i))
        (p.regBad (Uop.regB u) || p.regBad (Uop.regS u))
    | 3 => fin (mapLanes fun i => opSub .plain (laneAt w.f0 i) (laneAt rb i)) (p.regBad (Uop.regB u))
    | _ => none
  else if i = 22 ∧ Uop.fusedPost u % 2 = 1 then
    fin (mapLanes fun i => opMul .plain (laneAt w.f0 i) p.bcast) p.bcastPoison
  else if i = 23 ∧ 2 ≤ Uop.fusedPost u then
    fin (mapLanes fun i => opCvt ⟨.fp32, fmtOf (Uop.outFmt u), false, true⟩ (laneAt w.f0 i)) false
  else none

/-- FP32 bits at which shipped functions have exact results (Table 38). -/
def fpOne : Lane := 0x3F800000
def fpNegOne : Lane := 0xBF800000
def fpInf : Lane := 0x7F800000
def fpNaN : Lane := 0x7FC00000

/-- An FP32 value compared with the rational n / d. -/
def fpLe (x : Lane) (n : Int) (d : Nat) : Bool :=
  match Num.ofLane .fp32 x with
  | .fin m e => decide (finCmp (m * (d : Int)) e n 0 ≤ 0)
  | .inf s => s
  | .nan => false
def fpLt (x : Lane) (n : Int) (d : Nat) : Bool :=
  match Num.ofLane .fp32 x with
  | .fin m e => decide (finCmp (m * (d : Int)) e n 0 < 0)
  | .inf s => s
  | .nan => false
def fpNeg (x : Lane) : Bool :=
  match Num.ofLane .fp32 x with
  | .fin m _ => decide (m < 0)
  | .inf s => s
  | .nan => false
def fpZero (x : Lane) : Bool := (Num.ofLane .fp32 x).isZero
def fpPosInf (x : Lane) : Bool := x = 0x7F800000
def fpNegInf (x : Lane) : Bool := x = 0xFF800000

/-- An overflow or an underflow of a shipped function is inexact too (R113, R117, R140). -/
def flagsOver : NFlags := flagOF ||| flagNX
def flagsUnder : NFlags := flagUF ||| flagNX

/-- A shipped function outside its domain (Table 38, Other inputs), where the table gives the result. A result listed there
without OF or UF counts as listed exact and raises no NX (DEDUCED, log entry 89). -/
def shippedOther (k : Nat) (x : Lane) : Option (Lane × NFlags) :=
  if Num.ofLane .fp32 x = .nan then some (fpNaN, 0)
  else match k with
  | 0 => if fpNegInf x then some (0, 0) else if fpLt x (-126) 1 then some (0, flagsUnder)
      else if !fpLt x 128 1 then some (fpInf, flagsOver) else none
  | 1 => if fpNegInf x then some (0, 0) else if fpLt x (-8733) 100 then some (0, flagsUnder)
      else if !fpLt x 8872 100 then some (fpInf, flagsOver) else none
  | 2 => if fpZero x then some (0xFF800000, 0) else if fpNeg x then some (fpNaN, flagNV)
      else if fpPosInf x then some (fpInf, 0) else none
  | 3 => if fpZero x then some (0xFF800000, 0) else if fpNeg x then some (fpNaN, flagNV)
      else if fpPosInf x then some (fpInf, 0) else none
  | 4 => if fpZero x then some (fpInf, flagsOver) else if fpPosInf x || fpNegInf x then some (0, 0)
      else if !fpLt x (2 ^ 126) 1 || fpLe x (-(2 ^ 126)) 1 then some (0, flagsUnder) else none
  | 5 => if fpZero x then some (fpInf, flagsOver) else if fpNeg x then some (fpNaN, flagNV)
      else if fpPosInf x then some (0, 0) else none
  | 6 => if fpZero x then some (0, 0) else if fpNeg x then some (fpNaN, flagNV)
      else if fpPosInf x then some (fpInf, 0) else none
  | 7 => if !fpLt x 901 100 then some (fpOne, 0)
      else if fpLe x (-901) 100 then some (fpNegOne, 0) else none
  | 8 => if !fpLt x 17 1 then some (fpOne, 0)
      else if fpLt x (-8733) 100 then some (0, 0) else none
  | 12 => if fpPosInf x then some (fpOne, 0) else if fpNegInf x then some (fpNegOne, 0) else none
  | 13 => if fpPosInf x then some (fpInf, 0) else if fpNegInf x then some (0, 0)
      else if !fpLt x 20 1 then some (x, 0) else none
  | 14 => if fpLe x 1024 1 && !fpLt x (-1024) 1 then none else some (fpNaN, flagNV)
  | 15 => if fpLe x 1024 1 && !fpLt x (-1024) 1 then none else some (fpNaN, flagNV)
  | _ => if fpPosInf x then some (fpInf, 0) else if fpNegInf x then some (0, 0) else none

/-- A shipped function of one lane: the table's exact cases, else the free result (R139, R140; log entry 12). -/
def shippedLane (k : Nat) (x : Lane) : Lane × NFlags :=
  match shippedOther k x with
  | some r => r
  | none => (shippedResult k x, flagNX)

/-- The register that an operand selector reads (Table 36). -/
def selReg (u : Uop) (sel : Nat) : List Nat := if sel = 5 then [Uop.regS u] else if sel = 6 then [Uop.regB u] else []

/-- Registers that entry i of the function a word runs reads: those of a fused form in its place, or of the image. -/
def fnRegs (fs : FnSlot) (i : Nat) (u : Uop) : List Nat :=
  if i = 0 ∧ Uop.fusedPre u = 2 then [Uop.regS u, Uop.regB u]
  else if i = 0 ∧ (Uop.fusedPre u = 1 ∨ Uop.fusedPre u = 3) then [Uop.regB u]
  else if (i = 22 ∧ Uop.fusedPost u % 2 = 1) ∨ (i = 23 ∧ 2 ≤ Uop.fusedPost u) then []
  else match fs with
    | .image img =>
      let e := fnEntry img i
      let (ub, uc) := fnUses (FnEntry.op e)
      selReg u (FnEntry.sa e) ++ (if ub then selReg u (FnEntry.sb e) else []) ++ if uc then selReg u (FnEntry.sc e) else []
    | .initial => []

/-- Entry i of the function a word runs: a fused form, the entry of an installed image, or the shipped function, which
the model runs whole at entry 1 (its entries 0, 22 and 23 are zero, R140). -/
def fnStep (p : Prism) (fs : FnSlot) (i : Nat) (w : Pipe) : Pipe × NFlags :=
  if w.null then (w, 0)
  else match fusedWord p i w with
    | some r => r
    | none =>
      match fs with
      | .image img => fnEntryWord p img (fnEntry img i) w
      | .initial =>
        if i = 1 ∧ Uop.slot w.uop < 16 then
          let (r, fl) := mapLanes fun l => shippedLane (Uop.slot w.uop) (laneAt w.f0 l)
          ({ w with f0 := r }, if w.poison then 0 else fl)
        else (w, 0)

/-! ## Row statistics (R148, R149) -/

/-- Identity of a statistics operation (Table 40). -/
def statIdentity (op : Nat) : Lane := if op = 0 then 0xFF800000 else if op = 1 then 0x7F800000 else 0

/-- Combine one element into a lane (Table 40). -/
def statCombine (op : Nat) (m a x : Lane) : Lane × NFlags :=
  match op with
  | 0 => opMinMax true .plain a x
  | 1 => opMinMax false .plain a x
  | 2 => opAdd .plain a x
  | _ =>
    let (d, f1) := opSub .plain x m
    let (r, f2) := opFma .plain d d a
    (r, f1 ||| f2)

/-- The fold of step 2 of R149. -/
def statFold (op : Nat) (a : List Lane) : List Lane × NFlags :=
  [32, 16, 8, 4, 2, 1].foldl (fun (r : List Lane × NFlags) d =>
    let (x, f) := foldWord (if op = 0 then 0x19 else if op = 1 then 0x1A else 0x18) .plain d r.1
    (x, r.2 ||| f)) (a, 0)

/-- Step 1 of R149: the lanes after every word. Lanes of elements at or above N take no part. Nor do null words, so that the
result is null only where every word is (DESIGN CHOICE, log entry 88: R149 speaks of words that are there). -/
def statLanes (op n : Nat) (m : Lane) (ws : List (Option Item)) : List Lane × NFlags :=
  (ws.foldl (fun (acc : Nat × List Lane × NFlags) w =>
    let (j, a, f) := acc
    match w with
    | none => (j + 1, a, f)
    | some it =>
      let (r, g) := mapLanes fun i => if j * 64 + i < n then statCombine op m (laneAt a i) (it.lane i) else (laneAt a i, 0)
      (j + 1, r, f ||| g)) (0, List.replicate 64 (statIdentity op), 0)).2

/-- A row statistics operation over N elements: the result in every lane, and its flags (R149). -/
def statResult (op n : Nat) (m : Lane) (ws : List (Option Item)) : List Lane × NFlags :=
  let (a, f) := statLanes op n m ws
  let (r, g) := statFold op a
  (List.replicate 64 (laneAt r 0), f ||| g)

end Sys2Proof.Machine
end

