-- ==== Sys2Proof/Machine/Prism.lean ====
section
/-! DEFINITION. A prism through one fc: staging buffers (R67, R558), array tiles (R65 to R71, R99 to R106), firings and
the words in the six stages (R72 to R74, R131, R187 to R189). -/

namespace Sys2Proof.Machine

/-- What a prism gives in one fc. -/
structure PTick where
  p : Prism
  /-- Output ports: 0 VO, 1 SO, 2 CO. -/
  outs : List (Nat × Item)
  /-- Flags raised, with the slot they are tagged with (R122). -/
  flags : List (Nat × NFlags)
  arr : Nat
  anull : Nat
  vec : Nat
  vnull : Nat
  /-- 1 in an fc used by a function-store operation. -/
  fn : Nat
  /-- Slots whose operation read an element with a parity error (R85). -/
  parity : List Nat
  deriving DecidableEq, Repr

def PTick.flag (x : PTick) (slot : Nat) (f : NFlags) : PTick :=
  if f = 0 then x else { x with flags := x.flags ++ [(slot, f)] }

/-! ## Staging buffers -/

/-- Entries still held at fc t (R67). -/
def stagedAt (l : List Staged) (t : Nat) : List Staged :=
  l.filter fun w => match w.till with | some f => decide (t ≤ f) | none => true

/-- Accept a word: none when the buffer of 8 is full (R67). -/
def stage (l : List Staged) (t slot : Nat) (it : Item) : Option (List Staged) :=
  if (stagedAt l t).length < 8 then some (stagedAt l t ++ [⟨t, slot, it, none, false⟩]) else none

/-- The word a firing takes: the one accepted exactly 2 fc before (R558). -/
def takeExact (l : List Staged) (t : Nat) : Option Staged × List Staged :=
  match l.find? fun w => w.till.isNone && decide (w.acc + 2 = t) with
  | some w => (some w, l.filter fun v => !decide (v = w))
  | none => (none, l)

/-- Mark the first untaken word accepted at least 2 fc earlier as taken, held to fc `till` (R67, R558). -/
def takeNext (t till : Nat) : List Staged → Option Staged × List Staged
  | [] => (none, [])
  | w :: r =>
    if w.till.isNone && decide (w.acc + 2 ≤ t) then (some w, { w with till := some till, bad := false } :: r)
    else
      let (i, r') := takeNext t till r
      (i, w :: r')

/-- A word taken from a buffer: a parity error poisons it and is reported (R85). -/
def PTick.taken (x : PTick) (slot : Nat) (i : Option Staged) : Option Item × PTick :=
  match i with
  | none => (none, x)
  | some w => (some { w.item with poison := w.item.poison || w.bad }, if w.bad then { x with parity := x.parity ++ [slot] } else x)

/-- Take from a buffer (0 VA, 1 VB) for the array. -/
def PTick.takeArray (x : PTick) (port t till slot : Nat) : Option Item × PTick :=
  let (i, l) := takeNext t till (if port = 0 then x.p.va else x.p.vb)
  { x with p := if port = 0 then { x.p with va := l } else { x.p with vb := l } }.taken slot i

/-- Take from a buffer for a firing. -/
def PTick.takeFiring (x : PTick) (port t slot : Nat) : Option Item × PTick :=
  let (i, l) := takeExact (if port = 0 then x.p.va else x.p.vb) t
  { x with p := if port = 0 then { x.p with va := l } else { x.p with vb := l } }.taken slot i

/-- Read registers: one with a parity error becomes poisoned and is reported (R85). -/
def PTick.readRegs (x : PTick) (slot : Nat) (l : List Nat) : PTick :=
  l.foldl (fun y r =>
    if y.p.parity.contains (4 + r % 16) then
      { y with p := { y.p with parity := y.p.parity.filter (fun e => e != 4 + r % 16), rfPoison := y.p.rfPoison ++ [r % 16] }
               parity := y.parity ++ [slot] }
    else y) x

/-! ## The array -/

/-- Formats of a tile's operands (R187): 4-bit or 8-bit. -/
def tileA (u : Uop) : Fmt := fmtOf (Uop.fmtA u)
def tileB (u : Uop) : Fmt := fmtOf (Uop.fmtB u)
def narrow (f : Fmt) : Bool := decide (f.bits = 4)
/-- Elements of k per array step (Table 18). -/
def perStep (u : Uop) : Nat := if narrow (tileA u) && narrow (tileB u) then 2 else 1
/-- Elements of k per data word (Table 19). -/
def aSpan (u : Uop) : Nat := if narrow (tileA u) then 32 else 16
def bSpan (u : Uop) : Nat := if narrow (tileB u) then 8 else 4
/-- Steps of a block of 32 elements (R66). -/
def blockSteps (u : Uop) : Nat := 32 / perStep u

/-- Byte i of a word. -/
def itemByte (it : Item) (i : Nat) : Nat := bits (it.lane (i / 4)).toNat (8 * (i % 4) + 7) (8 * (i % 4))

/-- Element of a data word: byte index, and k within the word (Table 19). -/
def element (f : Fmt) (it : Item) (row per k : Nat) : Int :=
  if narrow f then intValue f (bits (itemByte it (per * row + k / 2)) (4 * (k % 2) + 3) (4 * (k % 2)))
  else intValue f (itemByte it (per * row + k))

/-- The words of array step n: A and B, absent or null as none. -/
def stepWords (tl : Tile) (n : Nat) : Option (Item × Item) :=
  match (tl.aData.getD (n * perStep tl.uop / aSpan tl.uop) none),
        (tl.bData.getD (n * perStep tl.uop / bSpan tl.uop) none) with
  | some a, some b => some (a, b)
  | _, _ => none

/-- Exact sum of the products of array step n in cell (r, c) (R101). -/
def stepSum (tl : Tile) (n r c : Nat) : Int :=
  match stepWords tl n with
  | none => 0
  | some (a, b) =>
    (List.range (perStep tl.uop)).foldl (fun s j =>
      let k := n * perStep tl.uop + j
      s + element (tileA tl.uop) a r 16 (k % aSpan tl.uop) * element (tileB tl.uop) b c 4 (k % bSpan tl.uop)) 0

def stepBad (tl : Tile) (n : Nat) : Bool :=
  match stepWords tl n with
  | some (a, b) => a.poison || b.poison
  | none => false

/-- Accumulator key. -/
def accKey (bank r c : Nat) : Nat := bank * 1024 + r * 64 + c

/-- Set the accumulators of a row, the row's poison, and collect flags. -/
def Prism.addRow (p : Prism) (bank r : Nat) (bad : Bool) (f : Nat → Lane → Lane × NFlags) : Prism × NFlags :=
  let res := (List.range 64).map fun c => f c (nget p.acc 0 (accKey bank r c))
  let acc := (res.foldl (fun (a : Nat × NMap Lane) v => (a.1 + 1, nset a.2 0 (accKey bank r a.1) v.1)) (0, p.acc)).2
  let pz := bad || p.accPoison.contains (bank * 16 + r)
  ({ p with acc := acc, accPoison := if pz && !p.accPoison.contains (bank * 16 + r) then p.accPoison ++ [bank * 16 + r]
      else p.accPoison }, if pz then 0 else res.foldl (fun x v => x ||| v.2) 0)

/-- Read an accumulator row: one with a parity error becomes poisoned and is reported (R85). -/
def PTick.readAcc (x : PTick) (bank r slot : Nat) : PTick :=
  let k := 20 + 16 * bank + r
  if x.p.parity.contains k then
    { x with
      p := { x.p with parity := x.p.parity.filter (fun e => e != k), accPoison := x.p.accPoison ++ [bank * 16 + r] }
      parity := x.parity ++ [slot] }
  else x

/-- Accumulate in a row, and raise what it flags for a slot. -/
def PTick.addRow (x : PTick) (slot bank r : Nat) (bad : Bool) (f : Nat → Lane → Lane × NFlags) : PTick :=
  let (p, g) := x.p.addRow bank r bad f
  { x with p := p }.flag slot g

/-- Close block b of a tile in row r (R68, R102, R103). A block without a live step or a scale adds nothing. -/
def closeBlock (x : PTick) (tl : Tile) (b r : Nat) : PTick :=
  let m := blockSteps tl.uop
  let ns := (List.range m).map fun i => b * m + i
  match tl.aScale.getD b none, tl.bScale.getD b none with
  | some sa, some sb =>
    if !ns.any (fun n => (stepWords tl n).isSome) then x
    else (x.readAcc tl.bank r tl.slot).addRow tl.slot tl.bank r (sa.poison || sb.poison || ns.any (stepBad tl)) fun c acc =>
      let sum := ns.foldl (fun s n => s + stepSum tl n r c) 0
      let v := scaledBlock sum (BitVec.ofNat 8 (itemByte sa r)) (BitVec.ofNat 8 (itemByte sb c))
      let w := accAdd acc v.1
      (w.1, v.2 ||| w.2)
  | _, _ => x

/-- Array step n of row r in plain integer mode (R106). -/
def plainStep (x : PTick) (tl : Tile) (n r : Nat) : PTick :=
  if (stepWords tl n).isNone then x
  else (x.readAcc tl.bank r tl.slot).addRow tl.slot tl.bank r (stepBad tl n) fun c acc => roundInt .int32 false (.fin (acc.toInt + stepSum tl n r c) 0)

/-- A row of accumulators as a word. -/
def Prism.accRow (p : Prism) (bank r : Nat) : List Lane := (List.range 64).map fun c => nget p.acc 0 (accKey bank r c)

/-- A word entering V1. -/
def enterV1 (t uop cfg slot : Nat) (i : Option Item) : Pipe :=
  match i with
  | some it => ⟨t, uop, cfg, slot, false, it.poison, 0, it.lanes, zeroWord, zeroWord, zeroWord⟩
  | none => ⟨t, uop, cfg, slot, true, false, 0, zeroWord, zeroWord, zeroWord, zeroWord⟩

/-- The words that row 0 of a tile takes in fc t (R66, R67, R558): each keeps its entry until row 15 has used it in the last
step that it serves, a scale word until row 15 has closed the block. -/
def tileTake (t : Nat) (x0 : PTick) (tl0 : Tile) : PTick × Tile :=
  let u := tl0.uop
  let N := Uop.nsteps u
  let m := blockSteps u
  let n := t - tl0.start
  if n < N then
      let lastUse := fun (steps : Nat) => tl0.start + 15 + (min (n + steps) N - 1)
      let (x1, tl1) := if !Uop.plain u && n % m = 0 then
          let (sa, y) := x0.takeArray 0 t (lastUse m + 4) tl0.slot
          let (sb, z) := y.takeArray 1 t (lastUse m + 4) tl0.slot
          (z, { tl0 with aScale := tl0.aScale ++ [sa], bScale := tl0.bScale ++ [sb] })
        else (x0, tl0)
      let (x2, tl2) := if n * perStep u % aSpan u = 0 then
          let (w, y) := x1.takeArray 0 t (lastUse (aSpan u / perStep u)) tl0.slot
          (y, { tl1 with aData := tl1.aData ++ [w] })
        else (x1, tl1)
      let (x3, tl3) := if n * perStep u % bSpan u = 0 then
          let (w, y) := x2.takeArray 1 t (lastUse (bSpan u / perStep u)) tl0.slot
          (y, { tl2 with bData := tl2.bData ++ [w] })
        else (x2, tl2)
      let live := (stepWords tl3 n).isSome
      ({ x3 with arr := x3.arr + if live then 1 else 0, anull := x3.anull + if live then 0 else 1 }, tl3)
    else (x0, tl0)

/-- A tile through fc t: words row 0 needs, steps and block closes of every row, readout (R66 to R70). -/
def tileTick (t : Nat) (x0 : PTick) (tl0 : Tile) : PTick × Tile :=
  let N := Uop.nsteps tl0.uop
  let m := blockSteps tl0.uop
  let (x1, tl1) := tileTake t x0 tl0
  let x2 := (List.range 16).foldl (fun (x : PTick) r =>
    if t < tl1.start + r then x
    else
      let k := t - tl1.start - r
      let y := if Uop.plain tl0.uop then
          if k < N then plainStep x tl1 k r else x
        else if 4 ≤ k ∧ (k - 4 + 1) % m = 0 ∧ k - 4 < N then
          closeBlock x tl1 ((k - 4) / m) r
        else x
      match tl1.readoutUop with
      | some v =>
        if k = N + 4 then
          let z := y.readAcc tl1.bank r tl1.slot
          let live := (List.range N).any fun i => (stepWords tl1 i).isSome
          let it : Option Item := if live then
              some ⟨z.p.accRow tl1.bank r, z.p.accPoison.contains (tl1.bank * 16 + r)⟩ else none
          { z with p := { z.p with pipes := z.p.pipes ++ [enterV1 t v tl1.readoutCfg tl1.slot it] } }
        else y
      | none => y) x1
  (x2, tl1)

/-- Whether a tile has work left after fc t. -/
def Tile.alive (tl : Tile) (t : Nat) : Bool := decide (t < tl.start + 15 + Uop.nsteps tl.uop + 4)

/-! ## Firings and feeds -/

/-- Start a firing at fc t (R187 to R189): `code` reads the prism's micro-operation memory. -/
def fire (code : Nat → Uop) (t j u slot : Nat) (p : Prism) : Prism :=
  match Uop.kind u with
  | 1 =>
    let bank := (Uop.bank u + if Uop.bankAlt u then j % 2 else 0) % 2
    let ro := Uop.readout u
    let p1 := if Uop.zero u then
        { p with acc := p.acc.filter (fun e => !decide (e.1 / 1024 = bank))
                 accPoison := p.accPoison.filter (fun e => !decide (e / 16 = bank))
                 parity := p.parity.filter (fun e => !(decide (20 ≤ e) && decide ((e - 20) / 16 = bank))) }
      else p
    { p1 with tiles := p1.tiles ++
        [⟨t, u, if ro = 0x1FF then none else some (code ro), if ro = 0x1FF then 0 else code (Uop.vcfg (code ro)),
          bank, slot, [], [], [], []⟩] }
  | 2 => { p with feeds := p.feeds ++ [⟨t, u, code (Uop.vcfg u), slot, []⟩] }
  | 3 => { p with feeds := p.feeds ++ [⟨t, u, 0, slot, []⟩]
                  fnSpans := p.fnSpans ++ [(t, t + 4 * (Uop.words u - 1) + 39)] }
  | 4 => { p with feeds := p.feeds ++ [⟨t, u, 0, slot, []⟩]
                  fnSpans := p.fnSpans ++ [(t, t + 4 * (Uop.words u - 1) + 39)] }
  | _ => p

/-- fc between the words of a feed: one for VEC, four in function mode (R131). -/
def feedStep (u : Uop) : Nat := if Uop.kind u = 2 then 1 else 4

/-- Source port of a feed: VA, VB or the register file. -/
def feedSrc (fd : Feed) : Nat := if Uop.kind fd.uop = 2 then Vcfg.v1Src fd.cfg - 1 else Uop.src fd.uop

/-- A feed through fc t: its word enters V1, if one is due. A row whose words run past the end of its step runs on (DESIGN
CHOICE, log entry 86: R150 and R158 neither refuse nor stop it). -/
def feedTick (t : Nat) (x : PTick) (fd : Feed) : PTick × Feed :=
  let d := feedStep fd.uop
  let k := (t - fd.start) / d
  if t < fd.start ∨ (t - fd.start) % d ≠ 0 ∨ Uop.words fd.uop ≤ k then (x, fd)
  else
    let (it, y) : Option Item × PTick :=
      if feedSrc fd < 2 then x.takeFiring (feedSrc fd) t fd.slot
      else
        let r := (Uop.srcReg fd.uop + k) % 16
        (some ⟨x.p.reg r, x.p.regBad r⟩, x.readRegs fd.slot [r])
    if Uop.kind fd.uop = 4 then
      let ws := fd.words ++ [it]
      if k + 1 = Uop.words fd.uop then
        let u := fd.uop
        let live := ws.any (·.isSome)
        let y := if Uop.statOp u = 3 ∧ !Uop.mZero u then y.readRegs fd.slot [Uop.mReg u] else y
        let mbad := decide (Uop.statOp u = 3) && !Uop.mZero u && y.p.regBad (Uop.mReg u)
        let bad := mbad || ws.any fun w => match w with | some i => i.poison | none => false
        let m := if Uop.mZero u then 0 else laneAt (y.p.reg (Uop.mReg u)) 0
        let (r, f) := statResult (Uop.statOp u) (Uop.nM1 u + 1) m ws
        let w : Pipe := ⟨t, u, 0, fd.slot, !live, bad, if bad then 0 else f, r, zeroWord, zeroWord, zeroWord⟩
        ({ y with p := { y.p with pipes := y.p.pipes ++ [w] } }, { fd with words := ws })
      else (y, { fd with words := ws })
    else ({ y with p := { y.p with pipes := y.p.pipes ++ [enterV1 t fd.uop fd.cfg fd.slot it] } }, fd)

/-- Whether a feed has words to come after fc t. -/
def Feed.alive (fd : Feed) (t : Nat) : Bool := decide (t < fd.start + feedStep fd.uop * (Uop.words fd.uop - 1))

/-! ## Words in the stages -/

/-- fc from V1 entry to V6 exit (Table 20, R131). -/
def pipeLen (w : Pipe) : Nat := if Uop.kind w.uop = 2 then 12 else 51

/-- A word through fc t: the stage whose first fc is t, with the registers as they stand. -/
def pipeTick (fs : NMap FnSlot) (t : Nat) (x : PTick) (w : Pipe) : PTick × Pipe :=
  let d := t - w.entry
  if t < w.entry then (x, w)
  else if Uop.kind w.uop = 2 then
    if d % 2 = 0 ∧ d < 12 then
      let y := if w.null then x else x.readRegs w.slot (stageRegs (Vcfg.stage w.cfg (d / 2 + 1)))
      let (v, f) := stageWord y.p w.cfg (Uop.imm w.uop) (d / 2 + 1) w
      (y.flag w.slot f, v)
    else (x, w)
  else if Uop.kind w.uop = 3 then
    if d % 13 % 2 = 0 ∧ d % 13 < 12 ∧ d < 52 then
      let e := d / 13 * 6 + d % 13 / 2
      let y := if w.null then x else x.readRegs w.slot (fnRegs (nget fs .initial (Uop.slot w.uop)) e w.uop)
      let (v, f) := fnStep y.p (nget fs .initial (Uop.slot w.uop)) e w
      (y.flag w.slot f, v)
    else (x, w)
  else (x, w)

/-- Leave V6: the register file is written in that fc, a null word writes nothing (R73, R130, Table 17). -/
def pipeExit (t : Nat) (x : PTick) (w : Pipe) : PTick :=
  if t = w.entry + pipeLen w then
    let y := x.flag w.slot w.pend
    if w.null then { y with vnull := y.vnull + 1 }
    else
      let z := { y with vec := y.vec + 1 }
      if Uop.rfWe w.uop then
        let r := Uop.rfDst w.uop
        { z with p := { z.p with
            rf := nset z.p.rf zeroWord r w.f0
            rfPoison := (z.p.rfPoison.filter (fun e => e != r)) ++ if w.poison then [r] else []
            parity := z.p.parity.filter (fun e => e != 4 + r) } }
      else z
  else if t = w.entry + pipeLen w + 1 then
    if w.null then x
    else
      let l := laneAt w.f0 (Uop.lane w.uop)
      let vo : List (Nat × Item) := [(0, ⟨w.f0, w.poison⟩)]
      let so : List (Nat × Item) := if Uop.kind w.uop = 4 then [] else [(1, ⟨[l], w.poison⟩)]
      let co : List (Nat × Item) :=
        if Uop.kind w.uop ≠ 4 ∧ Uop.coEn w.uop ∧ l.toNat % 256 ≠ 0 then [(2, ⟨[l &&& 0xFF], false⟩)] else []
      { x with outs := x.outs ++ vo ++ so ++ co }
  else x

/-- Thread a function over a list. -/
def threadList {α β : Type} (f : β → α → β × α) : β → List α → β × List α
  | b, [] => (b, [])
  | b, a :: r =>
    let (b1, a1) := f b a
    let (b2, r1) := threadList f b1 r
    (b2, a1 :: r1)

/-- The firings due at fc t. -/
def fireTick (code : Nat → Uop) (t : Nat) (p : Prism) : Prism :=
  let due := p.firings.filter fun f => decide (f.next = t)
  let p1 := due.foldl (fun q f => fire code t f.j f.uop f.slot q) p
  { p1 with firings := p.firings.filterMap fun f =>
      if f.next = t then (if f.left ≤ 1 then none else some { f with next := t + f.period, left := f.left - 1, j := f.j + 1 })
      else some f }

/-- One fc of a prism, after the words of the fc have been accepted. -/
def prismTick (code : Nat → Uop) (fs : NMap FnSlot) (t : Nat) (p0 : Prism) : PTick :=
  let p1 := fireTick code t p0
  let x1 : PTick := ⟨p1, [], [], 0, 0, 0, 0,
    if p1.fnSpans.any (fun e => decide (e.1 ≤ t ∧ t ≤ e.2)) then 1 else 0, []⟩
  let (x2, fds) := threadList (feedTick t) x1 p1.feeds
  let x3 := { x2 with p := { x2.p with feeds := fds.filter (·.alive t) } }
  let (x4, tls) := threadList (tileTick t) x3 x3.p.tiles
  let x5 := { x4 with p := { x4.p with tiles := tls.filter (·.alive t) } }
  let (x6, ps) := threadList (pipeTick fs t) x5 x5.p.pipes
  let x7 := ps.foldl (pipeExit t) x6
  { x7 with p := { x7.p with
      pipes := ps.filter fun w => decide (t ≤ w.entry + pipeLen w)
      fnSpans := x7.p.fnSpans.filter fun s => decide (t < s.2) } }

/-- Whether a prism has an activity in progress, a staged word counted (R413, R558). -/
def Prism.busy (p : Prism) (t : Nat) : Bool :=
  !(p.firings.isEmpty && p.tiles.isEmpty && p.feeds.isEmpty && p.pipes.isEmpty
    && (stagedAt p.va t).isEmpty && (stagedAt p.vb t).isEmpty)

end Sys2Proof.Machine
end

