-- ==== Sys2Proof/Machine/Sector.lean ====
section
/-! DEFINITION. A sector through one fc: SRAM ports (R76, R77, R82), address generators (R78, R79, R191, R192) and the
scalar ALU (R81, R193). -/

namespace Sys2Proof.Machine

/-- A fill address issued (R270): address generator, sector word, slot, first fc of the step of its run, whether the word is
digested when it commits, and whether the address came from a poisoned base. -/
structure FillAddr where
  ag : Nat
  word : Nat
  slot : Nat
  step : Nat
  dg : Bool
  poison : Bool
  deriving DecidableEq, Repr

/-- A word read for a drain (R270): first fc of the step of its run, the word, whether it is digested (R192). -/
structure DrainAddr where
  step : Nat
  item : Item
  dg : Bool
  deriving DecidableEq, Repr

/-- What a sector gives in one fc. -/
structure STick where
  x : Sector
  /-- Items on output ports: network, port, fc in which they enter the sector's vertex, item. -/
  outs : List (Nat × Nat × Nat × Item)
  rd : Nat
  wr : Nat
  fill : Nat
  wnull : Nat
  /-- Lanes read with a single-bit error, as word × 64 + lane (R82). -/
  corr : List Nat
  /-- Words read with an uncorrectable error in a lane (R82). -/
  uncorr : List Nat
  /-- Addresses outside the window (R79), by slot. -/
  window : List Nat
  /-- Words to digest (R338): slot, bytes, poisoned. -/
  digest : List (Nat × List Byte × Bool)
  /-- Fill addresses issued in this fc, in AG order, and the words drained (R270). -/
  fills : List FillAddr
  drains : List DrainAddr
  deriving DecidableEq, Repr

/-! ## SRAM -/

def Sector.byte (x : Sector) (w i : Nat) : Byte := nget x.sram 0 (w * 256 + i)
def Sector.wordBytes (x : Sector) (w : Nat) : List Byte := (List.range 256).map (x.byte w)
def Sector.word (x : Sector) (w : Nat) : List Lane := wordLanes (x.wordBytes w)
def Sector.laneOf (x : Sector) (w l : Nat) : Lane := BitVec.ofNat 32 (leNat ((List.range 4).map fun i => x.byte w (4 * l + i)))
/-- The error that a lane holds (R82): none, correctable (false) or uncorrectable (true). -/
def Sector.laneBad (x : Sector) (w l : Nat) : Option Bool := nget x.bad none (w * 64 + l)
/-- Whether a word has an uncorrectable error in any lane, so that it is poisoned (R82). -/
def Sector.isBad (x : Sector) (w : Nat) : Bool := x.bad.any fun e => decide (e.1 / 64 = w) && decide (e.2 = some true)
/-- The lanes of a word with a single-bit error (R82). -/
def Sector.corrected (x : Sector) (w : Nat) : List Nat :=
  (x.bad.filter fun e => decide (e.1 / 64 = w) && decide (e.2 = some false)).map (·.1)

/-- Write bytes at byte `off` of word w: every lane written whole holds new check bits and is good (R82, R472). -/
def Sector.put (x : Sector) (w off : Nat) (b : List Byte) : Sector :=
  { x with
    sram := (b.foldl (fun (a : Nat × List Host.Cell) v => (a.1 + 1, nset a.2 0 a.1 v)) (w * 256 + off, x.sram)).2
    bad := x.bad.filter fun e =>
      !(decide (e.1 / 64 = w) && decide (off ≤ 4 * (e.1 % 64)) && decide (4 * (e.1 % 64) + 4 ≤ off + b.length)) }

def Sector.putWord (x : Sector) (w : Nat) (l : List Lane) : Sector := x.put w 0 (Sys2Proof.Machine.wordBytes l)
def Sector.putLane (x : Sector) (w l : Nat) (v : Lane) : Sector := x.put w (4 * l) (leBytes 4 v.toNat)

/-- Mark lanes of word w as uncorrectable: poison that the array keeps with the data. -/
def Sector.mark (x : Sector) (w : Nat) (l : List Nat) : Sector :=
  { x with bad := l.foldl (fun m i => nset m none (w * 64 + i) (some true)) x.bad }

/-- Read word w as an item, counting what R82 counts. -/
def STick.read (a : STick) (w : Nat) : Item × STick :=
  (⟨a.x.word w, a.x.isBad w⟩,
    { a with
      rd := a.rd + 1
      corr := a.corr ++ a.x.corrected w
      uncorr := if a.x.isBad w then a.uncorr ++ [w] else a.uncorr })

/-- Commit an accepted write (R77): poison travels with the word, or with the lane written (DEDUCED, log entry 83). -/
def Sector.commit (x : Sector) (e : SramWrite) : Sector :=
  match e.lane with
  | some l =>
    let y := x.putLane e.word l (laneAt e.item.lanes 0)
    if e.item.poison then y.mark e.word [l] else y
  | none =>
    let y := x.putWord e.word e.item.lanes
    if e.item.poison then y.mark e.word (List.range 64) else y

/-! ## The scalar ALU -/

def Sector.reg (x : Sector) (r : Nat) : Lane := nget x.regs 0 r
def Sector.regBad (x : Sector) (r : Nat) : Bool := x.regPoison.contains r

/-- Write a scalar register. -/
def Sector.setReg (x : Sector) (r : Nat) (v : Lane) (bad : Bool) : Sector :=
  { x with regs := nset x.regs 0 r v
           regPoison := x.regPoison.filter (fun e => e != r) ++ if bad then [r] else [] }

/-- ALU results of Table 50, ops 0x02 to 0x0B. -/
def salValue (op : Nat) (a b : Lane) (imm : Nat) : Lane :=
  match op with
  | 0x02 => a + b
  | 0x03 => a - b
  | 0x04 => a &&& b
  | 0x05 => a ||| b
  | 0x06 => a ^^^ b
  | 0x07 => a <<< (imm % 32)
  | 0x08 => a >>> (imm % 32)
  | 0x09 => a.sshiftRight (imm % 32)
  | 0x0A => a + BitVec.ofInt 32 (signed 14 imm)
  | _ => BitVec.ofNat 32 imm <<< 18

/-- Whether an op of Table 50 reads ra and rb. -/
def salUses (op : Nat) : Bool × Bool :=
  if op ≤ 0x06 then (true, true) else if op ≤ 0x0A then (true, false) else (false, false)

/-- The data effect of one instruction issued in fc t, `inp` the scalar input of that fc (R81, R193). LD delivers its
register at `t + 3` and ST commits at `t + 2`. -/
def salEffect (t slot : Nat) (inp : Option Item) (i : Nat) (a : STick) : STick :=
  let x := a.x
  let rd := salRd i
  let ra := salRa i
  let rb := salRb i
  let op := salOp i
  if 0x02 ≤ op ∧ op ≤ 0x0B then
    let (ua, ub) := salUses op
    let bad := (ua && x.regBad ra) || (ub && x.regBad rb)
    { a with x := x.setReg rd (salValue op (x.reg ra) (x.reg rb) (salImm i)) bad }
  else match op with
  | 0x0C =>
    match inp with
    | some it => { a with x := x.setReg rd (it.lane 0) it.poison }
    | none => a
  | 0x0D => { a with outs := a.outs ++ [(1, 4, t + 2, ⟨[x.reg ra], x.regBad ra⟩)] }
  | 0x0E =>
    let v := x.reg ra &&& 0xFF
    if v = 0 then a else { a with outs := a.outs ++ [(2, 4, t + 2, ⟨[v], false⟩)] }
  | 0x0F =>
    let w := (x.reg ra).toNat % 4096
    let (it, b) := a.read w
    { b with x := { b.x with ldPend := b.x.ldPend ++
        [(t + 3, rd, it.lane ((x.reg rb).toNat % 64), it.poison || x.regBad ra || x.regBad rb)] } }
  | 0x10 =>
    { a with x := { x with writes := x.writes ++
        [⟨t + 2, 1, (x.reg ra).toNat % 4096, some ((x.reg rb).toNat % 64),
          ⟨[x.reg rd], x.regBad rd || x.regBad ra || x.regBad rb⟩, slot, false, none⟩] } }
  | 0x11 => { a with x := { x with basePend := x.basePend ++ [(t + 2, salImm i % 2, x.reg ra, x.regBad ra)] } }
  | _ => a

/-- Where a scalar program goes after the instruction it executes in fc t: none when it ends. -/
def salNext (t i : Nat) (r : SalRun) : Option SalRun :=
  match salOp i with
  | 0x00 => none
  | 0x01 => some { r with pc := r.pc + 1, next := t + max 1 (salImm i) }
  | 0x12 =>
    let start := salImm i % 64
    let n := salImm i / 64
    match r.rep with
    | none => if n ≤ 1 then some { r with pc := r.pc + 1, next := t + 1 }
        else some { r with pc := start, next := t + 1, rep := some (r.pc, n - 1) }
    | some (at_, k) => if k ≤ 1 then some { r with pc := r.pc + 1, next := t + 1, rep := none }
        else some { r with pc := start, next := t + 1, rep := some (at_, k - 1) }
  | _ => some { r with pc := r.pc + 1, next := t + 1 }

/-- The scalar program through fc t. A program that runs past index 63 without a HALT ends there, as at a HALT (DESIGN CHOICE,
log entry 84: R193 does not say). -/
def salTick (code : Nat → Nat) (t : Nat) (inp : Option Item) (a : STick) : STick :=
  match a.x.prog with
  | none => a
  | some r =>
    if r.stop ≤ t then { a with x := { a.x with prog := none } }
    else if t < r.next then a
    else
      let i := if r.pc < 64 then code r.pc else 0
      let b := salEffect t r.slot inp i a
      { b with x := { b.x with prog := salNext t i r } }

/-! ## Address generators -/

/-- The word address of a run's present position (R192), modulo 2^32. -/
def AgRun.addr (r : AgRun) (x : Sector) : Nat :=
  let b : Nat := if AgEntry.baseSrc r.entry then (if r.ag = 0 then x.base0 else x.base1).toNat else AgEntry.base r.entry
  (((b : Int) + r.i0 * AgEntry.stride r.entry 0 + r.i1 * AgEntry.stride r.entry 1
    + r.i2 * AgEntry.stride r.entry 2 + r.i3 * AgEntry.stride r.entry 3) % 2 ^ 32).toNat

/-- Whether a run's addresses come from a poisoned base register, so that what it moves is poisoned (R82). -/
def AgRun.bad (r : AgRun) (x : Sector) : Bool := AgEntry.baseSrc r.entry && x.basePoison.contains r.ag

/-- The next position of a run after an issue in fc t (R192); none when the entry is done. -/
def AgRun.advance (r : AgRun) (t : Nat) : Option AgRun :=
  let e := r.entry
  let t0 := t + 1 + AgEntry.gap e 0
  if r.i0 < AgEntry.countM1 e 0 then some { r with i0 := r.i0 + 1, next := t0 }
  else
    let t1 := t0 + AgEntry.gap e 1
    if r.i1 < AgEntry.countM1 e 1 then some { r with i0 := 0, i1 := r.i1 + 1, next := t1 }
    else
      let t2 := t1 + AgEntry.gap e 2
      if r.i2 < AgEntry.countM1 e 2 then some { r with i0 := 0, i1 := 0, i2 := r.i2 + 1, next := t2 }
      else
        let t3 := t2 + AgEntry.gap e 3
        if r.i3 < AgEntry.countM1 e 3 then some { r with i0 := 0, i1 := 0, i2 := 0, i3 := r.i3 + 1, next := t3 }
        else none

/-- One run through fc t: `acc` gives the word accepted in this fc on local link 0 or 1. -/
def agTick (t : Nat) (acc : Nat → Option Item) (a : STick) (r : AgRun) : STick × Option AgRun :=
  if t ≠ r.next then (a, some r)
  else
    let e := r.entry
    let w := r.addr a.x
    let nx := r.advance t
    if w < AgEntry.lo e ∨ AgEntry.hi e < w then ({ a with window := a.window ++ [r.slot] }, nx)
    else match AgEntry.mode e with
    | 1 =>
      let (it, b) := a.read w
      ({ b with outs := b.outs ++ [(0, 4 + r.ag, t + 5, { it with poison := it.poison || r.bad a.x })] }, nx)
    | 2 =>
      match acc r.ag with
      | some it =>
        ({ a with
          x := { a.x with writes := a.x.writes ++
            [⟨t + 2, r.ag, w, none, { it with poison := it.poison || r.bad a.x }, r.slot, AgEntry.dg e, none⟩] } }, nx)
      | none => ({ a with wnull := a.wnull + 1 }, nx)
    | 3 => ({ a with fills := a.fills ++ [⟨r.ag, w, r.slot, r.step, AgEntry.dg e, r.bad a.x⟩] }, nx)
    | 4 =>
      let (it, b) := a.read w
      ({ b with drains := b.drains ++ [⟨r.step, { it with poison := it.poison || r.bad a.x }, AgEntry.dg e⟩] }, nx)
    | _ => (a, nx)

/-- A base register written. -/
def Sector.setBase (x : Sector) (g : Nat) (v : Lane) (bad : Bool) : Sector :=
  let y := if g = 0 then { x with base0 := v } else { x with base1 := v }
  { y with basePoison := (x.basePoison.filter fun e => e != g) ++ if bad then [g] else [] }

/-- Base registers and loaded registers that come into force in fc t (R81). Where an LD issued in fc t - 3 and an instruction
executed in fc t - 1 both deliver to one register for fc t, the LD's value stays, and an instruction executed in fc t writes
over it (DESIGN CHOICE, log entry 85: R193 gives no order). -/
def Sector.settle (x : Sector) (t : Nat) : Sector :=
  let y := x.basePend.foldl (fun (y : Sector) e => if e.1 ≤ t then y.setBase e.2.1 e.2.2.1 e.2.2.2 else y) x
  let z := x.ldPend.foldl (fun (y : Sector) e => if e.1 ≤ t then y.setReg e.2.1 e.2.2.1 e.2.2.2 else y) y
  { z with basePend := z.basePend.filter (fun e => decide (t < e.1)), ldPend := z.ldPend.filter (fun e => decide (t < e.1)) }

/-- Thread a function that may drop elements over a list. -/
def threadOpt {α β : Type} (f : β → α → β × Option α) : β → List α → β × List α
  | b, [] => (b, [])
  | b, a :: r =>
    let (b1, a1) := f b a
    let (b2, r1) := threadOpt f b1 r
    (b2, match a1 with | some v => v :: r1 | none => r1)

/-- Whether a write commits in lattice fc t, facet fc c: a fill word goes by the base port's clock (R80, R83). -/
def SramWrite.isDue (e : SramWrite) (t c : Nat) : Bool := decide (e.due ≤ if e.fill.isSome then c else t)

/-- Commits of fc t, P0 before P1, so that P1's data stays (R77). -/
def STick.commits (a : STick) (t c : Nat) : STick :=
  let due := a.x.writes.filter fun e => e.isDue t c
  let l := due.filter (fun e => decide (e.port = 0)) ++ due.filter (fun e => !decide (e.port = 0))
  let y := l.foldl Sector.commit a.x
  { a with
    x := { y with writes := a.x.writes.filter fun e => !e.isDue t c }
    wr := a.wr + l.length
    fill := a.fill + (l.filter (·.fill.isSome)).length
    digest := (l.filter (·.dg)).map fun e => (e.slot, Sys2Proof.Machine.wordBytes e.item.lanes, e.item.poison) }

/-- One fc of a sector, lattice fc t and facet fc c: reads see the contents before the commits of their own fc (R77). -/
def sectorTick (code : Nat → Nat) (t c : Nat) (acc : Nat → Option Item) (inp : Option Item) (x : Sector) : STick :=
  let a0 : STick := ⟨x.settle t, [], 0, 0, 0, 0, [], [], [], [], [], []⟩
  let a1 := salTick code t inp a0
  let (a2, rs) := threadOpt (agTick t acc) a1 a1.x.runs
  { a2 with x := { a2.x with runs := rs } }.commits t c

/-- Whether a sector has an activity in progress. -/
def Sector.busy (x : Sector) : Bool :=
  !(x.runs.isEmpty && x.prog.isNone && x.writes.isEmpty && x.ldPend.isEmpty && x.basePend.isEmpty)

end Sys2Proof.Machine
end

