-- ==== Sys2Proof/Machine/Lattice.lean ====
section
/-! DEFINITION. One fc of a quadrant's lattice: vertices and bisectors (R53 to R63, R194 to R196), edge links (R52, R57,
R58), unit ports, prisms, sectors, base-tier fills and drains (R80, R270), flags (R122 to R125) and counters (Table 22). -/

namespace Sys2Proof.Machine

/-! ## Causes that end a command (R560) -/

/-- Key of a resource of Table 57: its code, and the site or the edge queue where it has one. -/
def overKey (resource at_ : Nat) : Nat := resource * 1024 + at_

/-- A resource of the lattice overflows (Table 57): its first overflow raises the event and stops the command; later ones
raise nothing until another command starts (R220). With no command in force none ends (R221). -/
def State.overflow (s : State) (code q n resource at_ : Nat) (site : Option Nat) : State :=
  let k := overKey resource at_
  if (s.quad q).lat.overflowed.contains k then s
  else
    let t := s.modQuad q fun x => { x with lat := { x.lat with overflowed := x.lat.overflowed ++ [k] } }
    if n < 8 then (t.resourceFault code q n resource site).causeEnd q n (BitVec.ofNat 16 code) true
    else t.idleFault code q resource site

/-! ## Edge links -/

/-- Boundary and link by which output o (0 N to 3 W) of a site leaves the lattice. -/
def leaves (q site o : Nat) : Option Nat :=
  let C := columns q
  let x := site % C
  let y := site / C
  if o = 0 ∧ y = 0 then some x
  else if o = 2 ∧ y + 1 = rows q then some x
  else if o = 1 ∧ x + 1 = C then some y
  else if o = 3 ∧ x = 0 then some y
  else none

/-- The site that output o of a site leads to inside the lattice. -/
def nextSite (q site o : Nat) : Nat :=
  if o = 0 then site - columns q else if o = 2 then site + columns q else if o = 1 then site + 1 else site - 1

/-- An item arrives at quadrant q over boundary b (its own numbering): discarded with no section committed (R217), else
queued, or discarded at a full queue with LAT:0x040 (R57, R221). -/
def State.edgeArrive (s : State) (q b net link : Nat) (it : Item) : State :=
  let x := s.quad q
  let discard := fun (y : Quad) => y.countSat (F.latEqStat_discarded q b) 1
  if x.committed.isNone then s.setQuad q (discard x)
  else
    let k := edgeKey b net link
    let l := nget x.lat.edgeQ [] k
    if l.length < 16 then
      let x1 := ((x.count (F.latEqIn_count q b) 1).countMax (F.latEqStat_peak q b) (l.length + 1))
      s.setQuad q { x1 with lat := { x1.lat with edgeQ := nset x1.lat.edgeQ [] k (l ++ [it]) } }
    else
      let t := s.setQuad q (discard x)
      let n := x.inForce
      if n < 8 then t.overflow 0x1040 q n 0x03 k (some (edgeSite q b link))
      else if x.lat.edgeOver.contains k then t
      else (t.overflow 0x1040 q 8 0x03 k (some (edgeSite q b link))).modQuad q fun y =>
        { y with lat := { y.lat with edgeOver := y.lat.edgeOver ++ [k] } }

/-- An item leaves quadrant q over boundary b: into the locked partner's lattice after `delay + 2` fc (R56, R57), into
the neighbour's edge queue, or discarded towards a disabled or fenced neighbour (R58). -/
def State.edgeSend (s : State) (q b net link delay : Nat) (it : Item) : State :=
  match neighbour q b with
  | none => s
  | some p =>
    if s.fenced p || !s.active p then s.modQuad q fun x => x.countSat (F.latEqStat_discarded q b) 1
    else if s.partner q = some p then
      s.modQuad p fun x => { x with lat := { x.lat with flight := x.lat.flight ++
        [⟨x.lat.fc + delay + 2, edgeSite p ((b + 2) % 4) link, false, net, (b + 2) % 4, it⟩] } }
    else s.edgeArrive p ((b + 2) % 4) net link it

/-! ## Vertices -/

/-- The item arriving on a port of a vertex. -/
def arrOf (a : List Flight) (site net port : Nat) : Option Item :=
  (a.find? fun f => decide (f.site = site) && decide (f.net = net) && decide (f.port = port)).map (·.item)

/-- What a bisector gives: O0, O1, and what it counts. -/
structure Bisect where
  o0 : Option Item
  o1 : Option Item
  b1 : Bool
  dflt : Bool
  collide : Bool
  deriving DecidableEq, Repr

/-- A steer rule (R60): item, sampled token, match, mask, default. -/
def steer (x : Item) (t m k d : Nat) : Bisect :=
  if t = 0 then
    if d = 0 then ⟨some x, none, false, true, false⟩
    else if d = 1 then ⟨none, some x, false, true, false⟩
    else ⟨none, none, false, true, false⟩
  else if Nat.land t k = m then ⟨none, some x, true, false, false⟩
  else ⟨some x, none, false, false, false⟩

/-- A merge rule (R61). -/
def merge (d0 d1 : Option Item) : Bisect :=
  match d0, d1 with
  | some x, some _ => ⟨some x, none, false, false, true⟩
  | some x, none => ⟨some x, none, false, false, false⟩
  | none, y => ⟨y, none, false, false, false⟩

/-- The bisector of a network under a route configuration. -/
def bisector (img : List Byte) (a : List Flight) (r site net : Nat) : Bisect :=
  match routeRule r net with
  | none => ⟨none, none, false, false, false⟩
  | some k =>
    let w := secRule img site net k
    let d0 := arrOf a site net (bits w 30 28)
    if bit w 31 then merge d0 (arrOf a site net (bits w 27 25))
    else match d0 with
      | none => ⟨none, none, false, false, false⟩
      | some x =>
        let t := match arrOf a site 2 (bits w 27 25) with | some i => (i.lane 0).toNat % 256 | none => 0
        steer x t (bits w 22 15) (bits w 14 7) (bits w 24 23)

/-- Items leaving a vertex on a network: output link, fc, item (R55, R195). -/
def vertexOuts (a : List Flight) (r site net : Nat) (b : Bisect) : List (Nat × Nat × Item) :=
  (List.range (routeOuts net)).filterMap fun o =>
    let c := routeSrc r net o
    if c = 0 then none
    else if c ≤ 6 then (arrOf a site net (c - 1)).map fun i => (o, 1, i)
    else if c = 7 then b.o0.map fun i => (o, 2, i)
    else if c = 8 then b.o1.map fun i => (o, 2, i)
    else none

/-- A merge collision (R61). -/
def State.collide (s : State) (q site : Nat) : State :=
  let x := s.quad q
  let n := x.inForce
  let s1 := s.setQuad q (x.countSat (F.latErrCnt_merge q) 1)
  (s1.postQuad 0x1021 clsR q (slotTag n) (some site) 0).causeEnd q n 0x1021 true

/-- One network of one vertex through fc t. -/
def State.vertexTick (s : State) (q t r : Nat) (img : List Byte) (a : List Flight) (site net : Nat) : State :=
  let b := bisector img a r site net
  let s1 := if b.b1 then s.modQuad q fun x => x.count (F.latVB1_count q site) 1 else s
  let s2 := if b.dflt then s1.modQuad q fun x => x.count (F.latVDflt_count q site) 1 else s1
  let s3 := if b.collide then s2.collide q site else s2
  (vertexOuts a r site net b).foldl (fun (u : State) o =>
    if 4 ≤ o.1 then
      u.modQuad q fun x => { x with lat := { x.lat with flight := x.lat.flight ++
        [⟨t + o.2.1, site, true, net, o.1, o.2.2⟩] } }
    else match leaves q site o.1 with
      | some link => u.edgeSend q o.1 net link o.2.1 o.2.2
      | none => u.modQuad q fun x => { x with lat := { x.lat with flight := x.lat.flight ++
          [⟨t + o.2.1, nextSite q site o.1, false, net, (o.1 + 2) % 4, o.2.2⟩] } }) s3

/-- Every vertex with an arrival in fc t. Nothing moves under the idle configuration (R217, R218). -/
def State.vertices (s : State) (q t : Nat) (a : List Flight) : State :=
  match (s.quad q).lat.route with
  | none => s
  | some cfg =>
    let img := s.image q
    (dedup (a.map fun f => f.site * 4 + f.net)).foldl (fun u k =>
      u.vertexTick q t (secRoute img (k / 4) cfg) img a (k / 4) (k % 4)) s

/-! ## Flags -/

/-- Whether the command of slot n already ends its context with a code. -/
def Quad.endsWith (x : Quad) (n : Nat) (code : Code) : Bool :=
  match (x.slot n).cmd.bind (·.ending) with
  | some e => decide (e.1 = code) || decide (e.2 = some code)
  | none => false

/-- Raise flags of an operation of slot n in the prism at a site (R122 to R125). -/
def State.raiseFlags (s : State) (q site n : Nat) (f : NFlags) : State :=
  if f = 0 then s
  else
    let s1 := s.set (F.latNflag_flags q site) (s.get (F.latNflag_flags q site) ||| f.toNat)
    let old := s1.get (F.seqNflag_flags q n)
    let s2 := if old = 0 then s1.set (F.seqNflag_first_site q n) site else s1
    let s3 := s2.set (F.seqNflag_flags q n) (old ||| f.toNat)
    let newly := Nat.land f.toNat (0x1F - old)
    if Nat.land newly (s3.get (F.seqNflag_stop q n)) ≠ 0 then
      if ((s3.quad q).slot n).cmd.isSome && !(s3.quad q).endsWith n 0x20E0 then
        (s3.postQuad 0x20E0 clsR q (some n) (some site) (seqArg (s3.get (F.seqPc_step q n)) 0)).causeEnd q n 0x20E0 true
      else s3
    else s3

/-! ## Unit ports -/

/-- A word of slot n accepted by a prism. -/
def State.prismAccept (s : State) (q t : Nat) (f : Flight) : State :=
  let x := s.quad q
  let n := x.inForce
  let p := x.lat.prism f.site
  if f.net = 0 then
    match stage (if f.port = 4 then p.va else p.vb) t n f.item with
    | some l =>
      s.setQuad q { x with lat := x.lat.setPrism f.site (if f.port = 4 then { p with va := l } else { p with vb := l }) }
    | none => s.overflow 0x1040 q n 0x01 f.site (some f.site)
  else s

/-- Items on a prism's output ports enter its vertex in the next fc (R56, R194). -/
def prismFlights (t site : Nat) (outs : List (Nat × Item)) : List Flight :=
  outs.map fun o => ⟨t + 1, site, false, o.1, 4, o.2⟩

/-- What a prism gave in fc t reaches the quadrant: counters, items, events and flags; `p` is the prism after it. -/
def State.prismApply (s : State) (q t site : Nat) (r : PTick) (p : Prism) : State :=
  let x := s.quad q
  let x1 := (((x.count (F.latPArray_count q site) r.arr).count (F.latPAnull_count q site) r.anull).count
    (F.latPVec_count q site) r.vec).count (F.latPVnull_count q site) r.vnull
  let x2 := x1.count (F.latPFn_count q site) r.fn
  let x3 := { x2 with lat := { (x2.lat.setPrism site p) with flight := x2.lat.flight ++ prismFlights t site r.outs } }
  let s2 := r.parity.foldl (fun u n =>
    ((u.modQuad q fun y => y.countSat (F.latErrCnt_uncorrectable q) 1).postQuad 0x1012 clsR q (some n) (some site)
      0).causeEnd q n 0x1012 false) (s.setQuad q x3)
  r.flags.foldl (fun u f => u.raiseFlags q site f.1 f.2) s2

/-- The prism at a site through fc t: words accepted, the units, then a scalar accepted in this fc, which is the broadcast
from the next one (R73). -/
def State.prismSite (s : State) (q t : Nat) (img : List Byte) (acc : List Flight) (site : Nat) : State :=
  let mine := acc.filter fun f => decide (f.site = site)
  let s1 := mine.foldl (fun u f => u.prismAccept q t f) s
  let x := s1.quad q
  let r := prismTick (secUop q img site) x.fnStore t (x.lat.prism site)
  s1.prismApply q t site r (match arrOf mine site 1 4 with
    | some it => { r.p with bcast := it.lane 0, bcastPoison := it.poison }
    | none => r.p)

/-- The timed descriptor that the step begun in fc `st` started. -/
def Quad.timedAt (x : Quad) (st : Nat) : Option Timed := x.timed.find? fun t => decide (t.step = st)

/-- One more word of a timed descriptor is matched. -/
def Quad.matchTimed (x : Quad) (st : Nat) : Quad :=
  { x with timed := x.timed.map fun t => if t.step = st then { t with words := t.words + 1 } else t }

/-- A word of the timed descriptor for a fill address (R270): the next word in the order of R268, read from the base
tier in this fc, committed 24 fc later (R80). -/
def State.fillWord (s : State) (q site : Nat) (f : FillAddr) : State :=
  let x := s.quad q
  match x.timedAt f.step with
  | none => s
  | some tm =>
    let per := descElem tm.bits / 256
    let pos := tm.words / per
    let a := descSrcAddr tm.bits pos + tm.words % per * 256
    let padded := descPadded tm.bits pos
    let bad := !padded && (s.rangeError a 256).isSome
    let data := if padded then (List.range 256).map fun i => (descPadBytes tm.bits).getD (tm.words % per * 256 + i) 0
      else s.bytesAt a 256
    let sec := x.lat.sector site
    let w : SramWrite := ⟨x.lat.clk + 24, f.ag, f.word, none, ⟨wordLanes data, bad || f.poison⟩, f.slot, f.dg, some f.step⟩
    let s1 := (if padded then s else s.countCorr a 256).setQuad q { (x.matchTimed f.step) with
      lat := x.lat.setSector site { sec with writes := sec.writes ++ [w] } }
    if bad then
      let e := s1.page (a / 2 ^ 21)
      let s2 := s1.modQuad q fun y => y.setSlot tm.slot { y.slot tm.slot with cmd := (y.slot tm.slot).cmd.map fun c =>
        { c with fault := c.fault.or (some (f.step, pos, progressField tm.bits 3 pos)) } }
      (s2.post ⟨0x3011, clsR, e.unit, s1.slotPart q tm.slot, some q, some tm.slot, some e.unit, 0,
        e.frame * 2 ^ 21 + a % 2 ^ 21⟩).causeEnd q tm.slot 0x3011 false
    else s1

/-- A drain word on its way to the base tier (R80, R270). -/
def State.drainWord (s : State) (q : Nat) (d : DrainAddr) : State :=
  let x := s.quad q
  match x.timedAt d.step with
  | none => s
  | some tm =>
    let per := descElem tm.bits / 256
    let pos := tm.words / per
    let a := descDstAddr tm.bits pos + tm.words % per * 256
    let data := if descPadded tm.bits pos then (List.range 256).map fun i =>
        (descPadBytes tm.bits).getD (tm.words % per * 256 + i) 0 else wordBytes d.item.lanes
    let w : DrainWord := ⟨x.lat.clk + 20, a, tm.slot, d.step, data, d.dg, d.item.poison⟩
    s.setQuad q { (x.matchTimed d.step) with lat := { x.lat with drains := x.lat.drains ++ [w] } }

/-- Add a word to the digest accumulator of a slot (R338). -/
def Slot.digest (sl : Slot) (b : List Byte) (poison : Bool) : Slot :=
  { sl with digD := sl.digD + crc64 b, digN := min (sl.digN + 1) 0xFFFFFFFF, digPoison := sl.digPoison || poison }

/-- Single-bit errors corrected in lanes of a sector, as word × 64 + lane: LAT_ERR_CNT, the epoch and the row (R82, R86,
R472). -/
def Quad.countCorr (x : Quad) (q site : Nat) (l : List Nat) : Quad :=
  if l = [] then x
  else
    let y := x.lat.sector site
    let rows := l.foldl (fun m k => nmod m 0 (k / 4096) (· + 1)) y.corrections
    let z := x.countSat (F.latErrCnt_corrected q) l.length
    { z with epochCorr := z.epochCorr + l.length, lat := z.lat.setSector site { y with corrections := rows } }

/-- What a sector gave in fc t reaches the quadrant: counters, items, digests, events, fills and drains. -/
def State.sectorApply (s : State) (q site : Nat) (r : STick) : State :=
  let x := s.quad q
  let n := x.inForce
  let x1 := (((x.count (F.latPArray_count q site) r.rd).count (F.latPAnull_count q site) r.wr).count
    (F.latPVec_count q site) r.fill).count (F.latPVnull_count q site) r.drains.length
  let x2 := ({ x1 with lat := x1.lat.setSector site r.x }.count (F.latPFn_count q site) r.wnull).countCorr q site r.corr
  let x3 := { x2 with
    lat := { x2.lat with
      flight := x2.lat.flight ++ r.outs.map fun o => ⟨o.2.2.1, site, false, o.1, o.2.1, o.2.2.2⟩ } }
  let x4 := r.digest.foldl (fun y d => y.setSlot d.1 ((y.slot d.1).digest d.2.1 d.2.2)) x3
  let s1 := s.setQuad q x4
  let s2 := r.uncorr.foldl (fun u _ =>
    ((u.modQuad q fun y => y.countSat (F.latErrCnt_uncorrectable q) 1).postQuad 0x1011 clsR q (slotTag n) (some site)
      0).causeEnd q n 0x1011 false) s1
  let s3 := r.window.foldl (fun u m => u.overflow 0x1040 q m 0x02 site (some site)) s2
  let s4 := r.fills.foldl (fun u f => u.fillWord q site f) s3
  r.drains.foldl (fun u it => u.drainWord q it) s4

/-- The sector at a site through fc t. -/
def State.sectorSite (s : State) (q t : Nat) (img : List Byte) (acc : List Flight) (site : Nat) : State :=
  let mine := acc.filter fun f => decide (f.site = site)
  s.sectorApply q site (sectorTick (secSal q img site) t (s.quad q).lat.clk (fun g => arrOf mine site 0 (4 + g))
    (arrOf mine site 1 4) ((s.quad q).lat.sector site))

/-- Drain words due by facet fc `c` reach the base tier, and the digest accumulator of their slot (R192); a poisoned one is
not committed (R82). -/
def State.drainCommit (s : State) (q c : Nat) : State :=
  let x := s.quad q
  let due := x.lat.drains.filter fun d => decide (d.due ≤ c)
  let s1 := s.setQuad q { x with lat := { x.lat with drains := x.lat.drains.filter fun d => decide (c < d.due) } }
  due.foldl (fun u d =>
    let v := if d.poison then u else u.writeAt d.addr d.bytes
    if d.dg then v.modQuad q fun y => y.setSlot d.slot ((y.slot d.slot).digest d.bytes d.poison) else v) s1

/-- Whether every word of a timed descriptor is committed (R273). -/
def Quad.timedOver (x : Quad) (t : Timed) : Bool :=
  decide (descPositions t.bits * (descElem t.bits / 256) ≤ t.words) &&
    !(x.lat.drains.any fun d => decide (d.step = t.step)) &&
    !x.lat.sectors.any fun e => e.2.writes.any fun w => decide (w.fill = some t.step)

/-- Timed descriptors that are complete leave, and count as the emits that they are (R261, R273, R394). -/
def State.timedDone (s : State) (q : Nat) : State :=
  let x := s.quad q
  let done := x.timed.filter x.timedOver
  done.foldl (fun u t => u.countEmit t.emit) (s.setQuad q { x with timed := x.timed.filter fun t => !x.timedOver t })

/-! ## Words that are not of a timed descriptor (R272) -/

/-- A descriptor's last word is committed at quadrant r: its channel's arrival count rises, unless 255 wait already (R172,
R220). -/
def State.arrive (s : State) (r ch : Nat) : State :=
  let x := s.quad r
  let a := nget x.chanArr 0 ch
  if (a + 65536 - nget x.chanRcp 0 ch) % 65536 = 255 then s.overflow 0x2040 r x.inForce 0x11 ch none
  else s.setQuad r { x with chanArr := nset x.chanArr 0 ch ((a + 1) % 65536) }

/-- Write one word of a descriptor into a sector of quadrant q (R77, R272). -/
def State.sectorWord (s : State) (q a : Nat) (b : List Byte) : State :=
  s.modQuad q fun x =>
    let site := bits a 27 20
    let y := { x with lat := x.lat.setSector site ((x.lat.sector site).put (bits a 19 8) 0 b) }
    (y.count (F.latPAnull_count q site) 1).count (F.latPVec_count q site) 1

/-- Whether the base ports of a quadrant move words that are not of a timed descriptor (R272): it is held at a gate, or runs
no step. -/
def Quad.portsFree (x : Quad) : Bool :=
  match x.cur with
  | some n => match (x.slot n).cmd with | some c => c.hold.isSome | none => true
  | none => true

/-- Buffer space of a packet of a peer is free again (R444). -/
def State.owe (s : State) (k p : Nat) : State :=
  let x := s.peerOf p
  if x.adm = 0 then s else s.setPeer p { x with owe := nmod x.owe 0 (k / 32) (· + 1) }

/-- A word that waited is committed, the arrival that it completes counts, and the buffer space that it held is free. -/
def State.landWord (s : State) (q : Nat) (w : RxWord) : State :=
  let t := if w.bytes = [] then s else s.sectorWord q w.addr w.bytes
  let u := match w.chan with
    | some ch => t.arrive q ch
    | none => t
  match w.frees with
  | some (k, p) => u.owe k p
  | none => u

/-- How many of the words that wait land in `v` fc, in order and one per sector and fc (R272). -/
def landCount (v : Nat) : NMap Nat → List RxWord → Nat
  | _, [] => 0
  | m, w :: r =>
    let k := bits w.addr 27 20
    if w.bytes = [] then landCount v m r + 1
    else if nget m 0 k < v then landCount v (nmod m 0 k (· + 1)) r + 1 else 0

/-- `v` fc pass in which the ports are free. -/
def State.landWords (s : State) (q v : Nat) : State :=
  let l := (s.quad q).inbox
  let k := landCount v [] l
  (l.take k).foldl (fun t w => t.landWord q w) (s.modQuad q fun x => { x with inbox := x.inbox.drop k })

/-- Every word that waits is committed. -/
def State.landAll (s : State) (q : Nat) : State :=
  let l := (s.quad q).inbox
  l.foldl (fun t w => t.landWord q w) (s.modQuad q fun x => { x with inbox := [] })

/-- Words that reach the quadrant's engine: committed where the ports are free, else they wait (R272). -/
def State.rxWords (s : State) (q : Nat) (l : List RxWord) : State :=
  let t := s.modQuad q fun x => { x with inbox := x.inbox ++ l }
  if (s.quad q).portsFree then t.landAll q else t

/-! ## Counters of every fc -/

/-- Whether an edge queue of boundary b holds an item. -/
def Lattice.waiting (l : Lattice) (b : Nat) : Bool := l.edgeQ.any fun e => decide (e.1 / 64 = b)

/-- `n` fc pass, each counted under one of LAT_Q_RUN, LAT_Q_HOLD and LAT_Q_IDLE (R93). -/
def Quad.countFc (x : Quad) (q n : Nat) (held : Bool) : Quad :=
  let x1 := (x.count (F.latSnapFc_count q) n).count
    (if held then F.latQHold_count q else if x.inProgress then F.latQRun_count q else F.latQIdle_count q) n
  [0, 1, 2, 3].foldl (fun y b => if y.lat.waiting b then y.count (F.latEqOcc_count q b) n else y) x1

/-! ## One fc -/

/-- Whether a prism or sector has something to do in an fc in which `acc` is accepted. -/
def prismDue (x : Quad) (acc : List Flight) (t site : Nat) : Bool :=
  (x.lat.prism site).busy t || acc.any fun f => decide (f.site = site)

/-- The quadrant's lattice through its fc `lat.fc`, which the caller then advances. -/
def State.latTick (s : State) (q : Nat) : State :=
  let x := s.quad q
  let t := x.lat.fc
  let due := x.lat.flight.filter fun f => decide (f.due ≤ t)
  let img := s.image q
  let s0 := s.setQuad q { x with lat := { x.lat with flight := x.lat.flight.filter fun f => decide (t < f.due) } }
  let acc := due.filter (·.toUnit)
  let s1 := s0.vertices q t (due.filter fun f => !f.toUnit)
  let y := s1.quad q
  let ps := (prismSites q).filter (prismDue y acc t)
  let s2 := ps.foldl (fun u site => u.prismSite q t img acc site) s1
  let ss := (sectorSites q).filter fun site => (y.lat.sector site).busy
  let s3 := ss.foldl (fun u site => u.sectorSite q t img acc site) s2
  ((s3.drainCommit q x.lat.clk).timedDone q).modQuad q fun z => z.countFc q 1 false

/-- The end of the fc. -/
def State.advance (s : State) (q : Nat) : State :=
  s.modQuad q fun x => { x with lat := { x.lat with fc := x.lat.fc + 1, clk := x.lat.clk + 1 } }

/-- One fc of the quadrants that run together. -/
def State.tickAll (s : State) (qs : List Nat) : State :=
  qs.foldl State.advance (qs.foldl State.latTick s)

/-- `n` fc of the quadrants that run together. -/
def State.ticks' (qs : List Nat) : Nat → State → State
  | 0, s => s
  | n + 1, s => State.ticks' qs n (s.tickAll qs)

/-- Whether an activity is in progress in a quadrant, items on links and in ports included (R158, R413). -/
def Quad.working (x : Quad) : Bool :=
  !(x.lat.flight.isEmpty && x.lat.drains.isEmpty && x.lat.prisms.all (fun e => !e.2.busy x.lat.fc)
    && x.lat.sectors.all fun e => !e.2.busy)

/-- Run the lattice until no activity is in progress. -/
def State.quiesce (qs : List Nat) : Nat → State → State
  | 0, s => s
  | n + 1, s => if qs.any fun q => (s.quad q).working then State.quiesce qs n (s.tickAll qs) else s

/-- `v` fc pass in a quadrant in which nothing is in progress and no step runs. -/
def State.skipFc (s : State) (q v : Nat) : State :=
  (s.modQuad q fun x =>
    let y := x.countFc q v false
    { y with lat := { y.lat with fc := y.lat.fc + v, clk := y.lat.clk + v } }).landWords q v

/-- `n` fc pass outside a step and outside a hold: activities still running go on (R158), then nothing happens (R218). -/
def State.restFc (qs : List Nat) : Nat → State → State
  | 0, s => s
  | n + 1, s =>
    if qs.any fun q => (s.quad q).working then State.restFc qs n (s.tickAll qs)
    else qs.foldl (fun t q => t.skipFc q (n + 1)) s

/-- `v` held fc pass: nothing of the lattice moves, but the transfers that the base port has issued go on, and words due by
then are committed (R80, R83). -/
def State.heldPorts (s : State) (q v : Nat) : State :=
  let x := s.quad q
  let c := x.lat.clk + v
  let secs := x.lat.sectors.map fun e =>
    let go := e.2.writes.filter fun w => w.fill.isSome && decide (w.due < c)
    (e.1, { go.foldl Sector.commit e.2 with writes := e.2.writes.filter fun w => !(w.fill.isSome && decide (w.due < c)) }, go)
  let x1 := secs.foldl (fun (y : Quad) e => (y.count (F.latPVec_count q e.1) e.2.2.length).count
    (F.latPAnull_count q e.1) e.2.2.length) x
  let x2 := secs.foldl (fun (y : Quad) e => e.2.2.foldl (fun (z : Quad) w =>
    if w.dg then z.setSlot w.slot ((z.slot w.slot).digest (wordBytes w.item.lanes) w.item.poison) else z) y) x1
  let left : NMap Sector := (secs.map fun e => (e.1, e.2.1)).filter fun e => !decide (e.2 = Sector.init)
  (((s.setQuad q { x2 with lat := { x2.lat with sectors := left, clk := c } }).drainCommit q (c - 1)).timedDone q).landWords q v

end Sys2Proof.Machine
end

