-- ==== Sys2Proof/Machine/Gate.lean ====
section
/-! DEFINITION. What the gates wait for: layer windows and their requests (R311 to R313), barriers (R315 to R318), requests
a command serves (R403), and the condition of every gated step (Table 44). -/

namespace Sys2Proof.Machine

/-! ## Weight images and windows -/

/-- `n` bytes at an address of the unified range as a number. -/
def State.memNat (s : State) (addr n : Nat) : Nat := leNat (s.bytesAt addr n)

def State.bind (s : State) (b : Nat) : Bind := nget s.ing.binds Bind.init b
def State.setBind (s : State) (b : Nat) (x : Bind) : State :=
  { s with ing := { s.ing with binds := nset s.ing.binds Bind.init b x } }
def Bind.layer (x : Bind) (l : Nat) : Layer := nget x.layers Layer.init l
def Bind.setLayer (x : Bind) (l : Nat) (y : Layer) : Bind := { x with layers := nset x.layers Layer.init l y }

/-- Fields of layer directory entry l of an image (Table 77). -/
def State.dirTable (s : State) (image l : Nat) : Nat := s.memNat (image + 0x100 + 32 * l) 8
def State.dirDigest (s : State) (image l : Nat) : Nat := s.memNat (image + 0x108 + 32 * l) 8
def State.dirShards (s : State) (image l : Nat) : Nat := s.memNat (image + 0x110 + 32 * l) 4
def State.dirKind (s : State) (image l : Nat) : Nat := s.memNat (image + 0x114 + 32 * l) 1
def State.dirLen (s : State) (image l : Nat) : Nat := s.memNat (image + 0x118 + 32 * l) 8

/-- Window entry of window w of slot n of quadrant q (R311). -/
def winEntry (q n w : Nat) : Nat := q * 64 + n * 8 + w

/-- The destination of layer l in a window. -/
def State.winDest (s : State) (w : Win) (l : Nat) : Nat :=
  if w.streaming then w.addr + ((l - w.first) % w.size) * w.slotLen * 256
  else
    let p := nget (s.bind w.bind).place (0, 0) l
    if w.dstSel = 0 then p.1 else p.2

/-- Arg of an ingest event (log entry 16): binding, layer, shard, and the code of a failed read. -/
def ingArg (b l shard code : Nat) : Nat := b % 256 + l % 4096 * 2 ^ 8 + shard % 2 ^ 24 * 2 ^ 20 + code % 65536 * 2 ^ 48

/-- A load of a layer that nothing of has been done: binding, layer, destination, image, why, streaming windows. -/
def Load.fresh (b l dest image : Nat) (kind : LoadKind) (wins : List Nat) (queued : Bool) : Load :=
  { bind := b, layer := l, dest := dest, image := image, kind := kind, wins := wins, resident := wins.isEmpty, started := false
    table := Shard.init, copying := false, dead := false, queued := queued, shards := [] }

/-- Queue the load of a layer; requests for the same layer at the same destination share one load, and a window request
takes window priority, in the order posted (R307, R312). -/
def State.queueLoad (s : State) (x : Load) : State :=
  let alike := fun (y : Load) =>
    !y.dead && (!y.copying || x.wins.isEmpty) && decide (y.bind = x.bind) && decide (y.layer = x.layer) && decide (y.dest = x.dest) &&
      decide (y.image = x.image)
  match s.ing.loads.find? alike with
  | none => { s with ing := { s.ing with loads := s.ing.loads ++ [x] } }
  | some y =>
    let z := { y with queued := y.queued || x.queued, resident := y.resident || x.resident, wins := dedup (y.wins ++ x.wins) }
    if x.kind = .window ∧ y.kind = .queue then
      { s with ing := { s.ing with loads := s.ing.loads.erase y ++ [{ z with kind := .window }] } }
    else { s with ing := { s.ing with loads := s.ing.loads.map fun w => if w = y then z else w } }

/-- Request layer l of the window of entry e (R312): a resident layer is requested when it is not committed at the
window's destination, a streaming layer always. -/
def State.requestLayer (s : State) (e : Nat) (w : Win) (l : Nat) : State :=
  let b := s.bind w.bind
  if b.n ≤ l then s
  else if w.streaming then s.queueLoad (Load.fresh w.bind l (s.winDest w l) b.image .window [e] false)
  else
    let y := b.layer l
    let p := nget b.place (0, 0) l
    if (if w.dstSel = 0 then y.c0 else y.c1).isSome || p.1 = 0 then s
    else s.queueLoad (Load.fresh w.bind l p.1 b.image .window [] false)

/-- Request the layers of a window from `first` for `n` layers. -/
def State.requestLayers (s : State) (e : Nat) (w : Win) (first n : Nat) : State :=
  (List.range n).foldl (fun t i => t.requestLayer e w (first + i)) s

/-- The window registers of an entry as a command takes them at its start. -/
def State.winTake (s : State) (e : Nat) : Option Win :=
  if s.on (F.ingWinCfg_en e) then
    some ⟨s.get (F.ingWinCfg_binding e), s.on (F.ingWinCfg_mode e), s.get (F.ingWinCfg_dst_sel e),
      s.get (F.ingWinCfg_size_m1 e) + 1, s.get (F.ingWinCfg_first e), s.get (F.ingWinSlots_addr e) * 256,
      s.get (F.ingWinSlotb_slot_len e), s.get (F.ingWinCfg_first e), []⟩
  else none

/-- WADV of n layers (R167, R312). -/
def State.advanceWindow (s : State) (q n w k : Nat) : State :=
  let x := s.quad q
  let sl := x.slot n
  match sl.cmd with
  | none => s
  | some c =>
    match nget c.windows none w with
    | none => s
    | some wn =>
      let e := winEntry q n w
      let pos := wn.pos + k
      let wn1 := { wn with pos := pos, here := wn.here.filter fun l => decide (pos ≤ l) }
      let s1 := s.setQuad q (x.setSlot n { sl with cmd := some { c with windows := nset c.windows none w (some wn1) } })
      let s2 := s1.set (F.ingWinPos_pos e) pos
      let dead := s2.ing.loads.map fun y => if y.layer < pos then y.release fun k => decide (k = e) else y
      let s3 := { s2 with ing := { s2.ing with loads := purgeLoads dead } }
      let entered := max (wn.pos + wn.size) pos
      s3.requestLayers e wn1 entered (pos + wn.size - entered)

/-- Whether every page of a range is in a section's pin list (R251). -/
def Section.pinsRange (x : Section) (addr n : Nat) : Bool :=
  (List.range ((addr + n - 1) / 2 ^ 21 + 1 - addr / 2 ^ 21)).all fun i =>
    x.pins.any fun p => decide (p.1 = addr / 2 ^ 21 + i)

/-- The WEIGHT gate's window conditions that do not wait for a layer (R313): code of the first that fails. -/
def State.windowError (s : State) (q n : Nat) (w : Option Win) (l : Nat) : Option Nat :=
  match w with
  | none => some 0x7052
  | some wn =>
    let b := s.bind wn.bind
    if some b.part ≠ s.slotPart q n then some 0x7052
    else if l < wn.pos ∨ wn.pos + wn.size ≤ l ∨ b.n ≤ l then some 0x7051
    else match (s.quad q).committed with
      | some sec => if sec.pinsRange (s.winDest wn l) (s.dirLen b.image l) then none else some 0x7052
      | none => some 0x7052

/-- The version of a binding that a command uses: the one it is bound to, or the one in force before its BARRIER (R313). -/
def State.versionFor (s : State) (c : Cmd) (b : Nat) : Nat :=
  if (nkeys c.versions).contains b then nget c.versions 0 b else s.get (F.ingBindStat_version b)

/-- Whether layer l is there for a command (R313): committed at the window's destination in the command's version, or
deposited in its slot. -/
def State.layerHere (s : State) (c : Cmd) (w : Win) (l : Nat) : Bool :=
  if w.streaming then w.here.contains l
  else
    let y := (s.bind w.bind).layer l
    decide ((if w.dstSel = 0 then y.c0 else y.c1) = some (s.versionFor c w.bind))

/-! ## Conditions (Table 44) -/

/-- GATE STREAM (R273): no descriptor of slot n with the tag is in progress, timed ones included. -/
def Quad.streamDone (x : Quad) (n tag : Nat) : Bool :=
  !(x.descs.any fun e => match e.2 with
    | some d => decide (d.slot = n) && decide (descTag d.bits = tag)
    | none => false) && !x.timed.any fun t => decide (t.slot = n) && decide (descTag t.bits = tag)

/-- GATE REQ (R380, R390). -/
def State.reqReady (s : State) (q g : Nat) : Bool :=
  let x := s.group g
  let c := nget x.counts 0 q
  let y := s.quad q
  decide (s.get (F.reqGrpStat_state g) = 1) && x.batches.any (fun b => decide (b.n = c)) &&
    !(y.staged.any fun p => decide (p.group = g) && decide (p.batch = c) &&
      ((y.descs.any fun e => match e.2 with | some d => decide (d.index = p.desc) | none => false) ||
        y.timed.any fun t => decide (t.index = p.desc)))

/-- The binding that a BARRIER on window w means (R311, R313): that of the window as the command took it at its start. A window
that was not enabled then names the binding of its register (DESIGN CHOICE, log entry 96). -/
def State.barrierBinding (s : State) (q n w : Nat) (c : Cmd) : Nat :=
  match nget c.windows none w with
  | some v => v.bind
  | none => s.get (F.ingWinCfg_binding (winEntry q n w))

/-- BARRIER (R169, R315 to R317): the binding of window field w of slot n. -/
def State.barrierReady (s : State) (q n w : Nat) (c : Cmd) : Bool :=
  let b := s.barrierBinding q n w c
  let st := s.get (F.ingBindStat_state b)
  if st = 5 ∨ st = 6 then false
  else if st = 4 then
    let ids := (s.served q c).filter fun id => match s.named id with
      | some e => decide (imgByte (nget s.req.services [] e.service) 4 = b)
      | none => false
    !ids.isEmpty && ids.all fun id =>
      decide (((s.named id).map (·.version)) = some (s.get (F.ingBindStat_version b)))
  else true

/-- Whether a GATE HOST's condition is forced false by a cut: while it waits, quiesces and writes, and while it is held until the
host writes the mailbox (R488). -/
def State.cutForced (s : State) (q m : Nat) : Bool :=
  let st := s.get F.ecuCutCtl_state
  1 ≤ st && st ≤ 4 && bit (s.get F.ecuCutSet_quadrants) q && s.get F.ecuCutCtl_mailbox = m

/-- Key of a channel: local 0 to 63, chord 64 to 127 (R172). -/
def chanKey (remote : Bool) (k : Nat) : Nat := if remote then 64 + k else k

/-- SSW (R145, R215): the shadow is loaded, nothing runs, no install is in progress and no other slot has a command in
progress. -/
def State.sswReady (s : State) (q n : Nat) : Bool :=
  let x := s.quad q
  decide (s.get (F.seqSecStat_shadow q) = 2) && !x.working && !s.on (F.seqFnCtl_busy q) &&
    !(List.range 8).any fun m => m != n && (x.slot m).cmd.isSome

/-- Whether an entry of the committed section's peer table is bound to a lost peer (R448). -/
def State.anyLost (s : State) (q : Nat) : Bool :=
  match (s.quad q).committed with
  | some x => x.peers.any s.peerLost
  | none => false

/-- The condition of the own gate of quadrant q, slot n; an ungated step counts as satisfied (R177). -/
def State.gateReady (s : State) (q n : Nat) (w : Step) (c : Cmd) : Bool :=
  if Step.op w = 0x08 then
    match Step.kind w with
    | 1 =>
      let wn := nget c.windows none (Step.gateWindow w)
      match wn with
      | some v => (s.windowError q n wn (Step.gateLayer w)).isNone && s.layerHere c v (Step.gateLayer w)
      | none => false
    | 2 => (s.quad q).streamDone n (Step.gateTag w)
    | 3 =>
      let k := edgeKey (Step.boundary w) (Step.network w) (Step.link w)
      decide (Step.items w ≤ (nget (s.quad q).lat.edgeQ [] k).length)
    | 4 => s.reqReady q (Step.group w)
    | 5 => decide (s.get (F.seqMbox_value q (Step.mailbox w)) ≠ 0) && !s.cutForced q (Step.mailbox w)
    | _ => true
  else if Step.op w = 0x09 then
    let k := chanKey (Step.remote w) (Step.channel w)
    decide (nget (s.quad q).chanArr 0 k ≠ nget (s.quad q).chanRcp 0 k) && !(Step.remote w && s.anyLost q)
  else if Step.op w = 0x0A then s.barrierReady q n (Step.binding w) c
  else if Step.op w = 0x0B then s.sswReady q n
  else true

/-- An error delivered to the gate of quadrant q as it begins to hold or holds (R174, R216, R221, R306, R470): the code
that ends the command, and that of its context where it ends. -/
def State.gateError (s : State) (q n : Nat) (w : Step) (c : Cmd) : Option (Code × Option Code) :=
  if Step.op w = 0x08 ∧ Step.kind w = 3 then
    let k := edgeKey (Step.boundary w) (Step.network w) (Step.link w)
    if (s.quad q).lat.edgeOver.contains k then some (endingOf 0x1040 true)
    else match neighbour q (Step.boundary w) with
      | some p => if s.fenced p then some (endingOf 0xA010 false) else none
      | none => none
  else if Step.op w = 0x08 ∧ Step.kind w = 1 then
    match nget c.windows none (Step.gateWindow w) with
    | some v =>
      let y := (s.bind v.bind).layer (Step.gateLayer w)
      if (s.windowError q n (some v) (Step.gateLayer w)).isNone ∧ s.layerHere c v (Step.gateLayer w) = false ∧ y.tier ≠ 0 then
        some (endingOf (BitVec.ofNat 16 y.tier) false)
      else none
    | none => none
  else if Step.op w = 0x09 then
    if Step.remote w && s.anyLost q then some (endingOf 0x9030 false) else none
  else if Step.op w = 0x0B then
    if s.get (F.seqSecStat_shadow q) = 3 then some (endingOf (BitVec.ofNat 16 (s.get (F.seqSecStat_last_refusal q))) false)
    else if s.get (F.seqSecStat_shadow q) = 2 ∧ s.get (F.seqSecShadowId_shadow_id q) ≠ Step.sectionId w then
      some (endingOf 0x2023 false)
    else none
  else none

end Sys2Proof.Machine
end

