-- ==== Sys2Proof/Machine/Check.lean ====
section
/-! DEFINITION. The checks of a section image (Table 55) but that of its schedule: header (R197, R198) and encodings (R160 to
R196, R269). -/

namespace Sys2Proof.Machine

/-- What fails: a step index, 0xFFFF for none, and a site. -/
abbrev Bad := Option (Nat × Option Nat)

/-- The first failure of a list of checks: step, site, whether it holds. -/
def firstBad (l : List (Nat × Option Nat × Bool)) : Bad :=
  (l.find? fun e => !e.2.2).map fun e => (e.1, e.2.1)

def noStep : Nat := 0xFFFF

/-! ## Header (check 2) -/

/-- Number of set bits of fn_used. -/
def fnCount (b : List Byte) : Nat := ((List.range 32).filter fun n => bit (imgFnUsed b) n).length

/-- The length that Table 54 gives segment k. -/
def segWant (q : Nat) (b : List Byte) (k : Nat) : Nat :=
  let P := (prismSites q).length
  let S := (sectorSites q).length
  match k with
  | 0 => imgNsteps b * 16
  | 1 => sites q * 512
  | 2 => sites q * 128
  | 3 => P * 8192
  | 4 => S * 1024
  | 5 => S * 256
  | 6 => P * 4096 + S * 128
  | 7 => imgNdesc b * 128
  | 8 => imgNpeer b * 8
  | 9 => imgNpin b * 8
  | 10 => 8 * fnCount b
  | _ => 0

/-- R198: lengths, placement and no overlap. -/
def segsOk (q : Nat) (b : List Byte) : Bool :=
  (List.range 12).all fun k =>
    let n := segLen b k
    let o := segOff b k
    (if 1 ≤ k ∧ k ≤ 6 then n = 0 || n = segWant q b k else decide (n = segWant q b k)) &&
      (n = 0 || (o % 256 = 0 && decide (0x100 ≤ o) && decide (o + n ≤ imgLen b) &&
        (List.range k).all fun j =>
          segLen b j = 0 || decide (segOff b j + segLen b j ≤ o) || decide (o + n ≤ segOff b j)))

/-- Check 2 of Table 55. -/
def headerOk (q : Nat) (b : List Byte) : Bool :=
  byteField b 0 4 = 0x43455347 && imgKind b = (if isW q then 1 else 0) && imgSectionId b ≠ 0 &&
    imgLen b % 256 = 0 && decide (0 < imgLen b) && decide (imgLen b ≤ 2 ^ 21) &&
    imgByte b 6 / 4 = 0 && imgByte b 0x2D = 0 && byteField b 0x40 64 = 0 && byteField b 0xE0 32 = 0 &&
    decide (1 ≤ imgNsteps b) && decide (imgNsteps b ≤ 16384) && decide (imgNpeer b ≤ 64) &&
    decide (imgPairPos b ≤ 3) && (imgPaired b || (imgPairPos b = 0 && imgPartner b = 0)) &&
    (imgHasSuccessor b || imgSuccessor b = 0) && imgSuccessor b % 256 = 0 && imgPartner b % 256 = 0 && segsOk q b

/-! ## Encodings (check 5) -/

/-- A field of reserved bits is zero. -/
def zeroBits (w hi lo : Nat) : Bool := decide (bits w hi lo = 0)

/-- The format codes of Table 35. -/
def fmtValid (c : Nat) : Bool := decide (c ≤ 4) || (decide (8 ≤ c) && decide (c ≤ 0xC))

/-- The specific fields of a step (Table 43, R162 to R171). -/
def stepFieldsOk (q : Nat) (b : List Byte) (i : Nat) (w : Step) : Bool :=
  match Step.op w with
  | 0x01 => zeroBits w 30 0 &&
      (!Step.descEn w || (decide (Step.runDesc w < imgNdesc b) && decide (Step.descOff w < Step.dur w)
        && descDstSpace (secDesc b (Step.runDesc w)) ≠ 2))
  | 0x02 => zeroBits w 26 0 && decide (Step.target w ≤ i) && (Step.countSrc w || Step.count w ≠ 0)
  | 0x03 => zeroBits w 71 0
  | 0x08 => match Step.kind w with
    | 1 => zeroBits w 46 0
    | 2 => zeroBits w 49 0
    | 3 => zeroBits w 52 0 && (neighbour q (Step.boundary w)).isSome &&
        decide (Step.link w < edgeLinks q (Step.boundary w)) && Step.network w ≠ 3 &&
        decide (1 ≤ Step.items w) && decide (Step.items w ≤ 16) && decide (Step.items w ≤ Step.dur w) &&
        !(imgPaired b && neighbour q (Step.boundary w) = some (q / 4 * 4 + imgPairPos b))
    | 4 => zeroBits w 57 0
    | 5 => zeroBits w 61 0
    | _ => false
  | 0x09 => zeroBits w 62 0
  | 0x0A => zeroBits w 65 0 && decide (Step.binding w ≤ 7)
  | 0x0B => zeroBits w 25 0
  | 0x10 => zeroBits w 31 0 && decide (Step.sendDesc w < imgNdesc b) &&
      (!Step.remote w || decide (Step.peer w < imgNpeer b))
  | 0x11 => zeroBits w 60 0
  | 0x12 => zeroBits w 47 0
  | 0x13 => if Step.src w then decide (40 ≤ Step.dur w)
      else decide (6 ≤ Step.dur w) && zeroBits w 41 36 && isSector q (bits w 67 60)
  | _ => false

/-- The loop ranges of a table (R163): (target, index, level). -/
def loops (b : List Byte) : List (Nat × Nat × Nat) :=
  ((List.range (imgNsteps b)).filter fun i => decide (Step.op (secStep b i) = 2)).map fun i =>
    (Step.target (secStep b i), i, Step.level (secStep b i))

/-- R163: ranges nest or are apart, and a nested loop has a level of its own. -/
def loopsOk (b : List Byte) (i : Nat) : Bool :=
  let l := loops b
  (l.filter fun x => decide (x.2.1 = i)).all fun x => l.all fun y =>
    y.2.1 = i || decide (y.2.1 < x.1) || decide (x.2.1 < y.1) ||
      ((decide (x.1 ≤ y.1 ∧ y.2.1 ≤ x.2.1) || decide (y.1 ≤ x.1 ∧ x.2.1 ≤ y.2.1)) && decide (x.2.2 ≠ y.2.2))

/-- A micro-operation chain (R185): indices from u until next is 0x1FF; none when it exceeds 16. -/
def uopChain (code : Nat → Uop) : Nat → Nat → Option (List Nat)
  | 0, u => if u = 0x1FF then some [] else none
  | k + 1, u => if u = 0x1FF then some []
      else match uopChain code k (Uop.next (code u)) with
        | some l => some (u :: l)
        | none => none

/-- A stage field (R190, Table 48). -/
def stageOk (s : Nat) (x : VStage) : Bool :=
  let op := VStage.op x
  let same := decide (VStage.fmt x = VStage.dfmt x)
  if op = 0x08 || (0x01 ≤ op && op ≤ 0x06) || (0x20 ≤ op && op ≤ 0x25) || (0x28 ≤ op && op ≤ 0x2D) then
    fmtValid (VStage.fmt x) && fmtValid (VStage.dfmt x)
  else if 0x10 ≤ op ∧ op ≤ 0x14 then same && VStage.fmt x = 8
  else if op = 0 || op = 7 || (0x15 ≤ op && op ≤ 0x1F) then same && (VStage.fmt x = 0 || VStage.fmt x = 8)
  else if 0x30 ≤ op ∧ op ≤ 0x32 then same && (VStage.fmt x = 0 || VStage.fmt x = 8) && s = 6
  else false

def vcfgOk (v : Vcfg) : Bool :=
  decide (Uop.kind v = 5) && (List.range 6).all fun s => stageOk (s + 1) (Vcfg.stage v (s + 1))

/-- A VEC and its VCFG; `ro` when an ARRAY's readout names it, where its start, count and period are ignored (R187, R188). -/
def vecOk (code : Nat → Uop) (ro : Bool) (u : Uop) : Bool :=
  decide (Uop.kind u = 2) && zeroBits u 1 0 && vcfgOk (code (Uop.vcfg u)) &&
    (if ro then decide (Vcfg.v1Src (code (Uop.vcfg u)) = 0) else decide (Vcfg.v1Src (code (Uop.vcfg u)) ≠ 0))

/-- One timed micro-operation (R184 to R189). -/
def uopOk (code : Nat → Uop) (fnUsed : Nat) (u : Uop) : Bool :=
  decide (1 ≤ Uop.count u) &&
  match Uop.kind u with
  | 1 =>
    let f := fun c => decide (9 ≤ c ∧ c ≤ 0xC)
    zeroBits u 5 0 && f (Uop.fmtA u) && f (Uop.fmtB u) &&
      (if Uop.plain u then decide (16 ≤ Uop.nsteps u)
        else decide (0 < Uop.nsteps u) &&
          Uop.nsteps u % (if Uop.fmtA u ≤ 0xA ∨ Uop.fmtB u ≤ 0xA then 32 else 16) = 0) &&
      (Uop.readout u = 0x1FF || vecOk code true (code (Uop.readout u)))
  | 2 => vecOk code false u
  | 3 => zeroBits u 3 0 && Uop.src u ≠ 3 && bit fnUsed (Uop.slot u) && fmtValid (Uop.outFmt u)
  | 4 => zeroBits u 15 0 && Uop.src u ≠ 3 && (Uop.src u ≠ 2 || decide (Uop.words u ≤ 16))
  | _ => false

/-- An address-generator chain (R191): entry indices until last; none when none is last within 16. -/
def agChain (code : Nat → AgEntry) : Nat → Nat → Option (List Nat)
  | 0, _ => none
  | k + 1, e => if AgEntry.last (code e) then some [e]
      else match agChain code k (AgEntry.next (code e)) with
        | some l => some (e :: l)
        | none => none

def agOk (code : Nat → AgEntry) (l : List Nat) : Bool :=
  l.all fun e => decide (AgEntry.mode (code e) ≤ 4) && zeroBits (code e) 45 0 &&
    decide (AgEntry.mode (code e) = AgEntry.mode (code (l.headD 0)))

/-- Scalar instructions from i up to the first HALT (R160, R193). -/
def salRange (code : Nat → Nat) : Nat → Nat → List Nat
  | 0, _ => []
  | k + 1, i => if 64 ≤ i then [] else if salOp (code i) = 0 then [i] else i :: salRange code k (i + 1)

def salOk (code : Nat → Nat) (l : List Nat) : Bool :=
  l.all fun i =>
    let w := code i
    decide (salOp w ≤ 0x12) && (salOp w ≠ 1 || salImm w ≠ 0) &&
      (salOp w ≠ 0x12 || (salImm w / 64 ≠ 0 && decide (salImm w % 64 ≤ i) &&
        (List.range i).all fun j => decide (j < salImm w % 64) || salOp (code j) ≠ 0x12))

/-- Whether an input or output direction of a vertex can be named (R54). -/
def linkOk (q site d : Nat) : Bool :=
  match leaves q site d with
  | none => true
  | some _ => (neighbour q d).isSome

/-- A bisector rule (R196) on network net. -/
def ruleOk (q site net w : Nat) : Bool :=
  let port := fun p => decide (p < routeOuts net) && (decide (4 ≤ p) || linkOk q site p)
  zeroBits w 6 0 && port (bits w 30 28) &&
    (if bit w 31 then port (bits w 27 25)
      else bits w 24 23 ≠ 3 && decide (bits w 27 25 ≤ 4) && (bits w 27 25 = 4 || linkOk q site (bits w 27 25)))

/-- A route configuration at a site (R195). -/
def routeOk (q : Nat) (b : List Byte) (site r : Nat) : Bool :=
  zeroBits r 53 0 &&
  [0, 1, 2].all fun net =>
    (match routeRule r net with
      | some k => ruleOk q site net (secRule b site net k)
      | none => true) &&
    (List.range (routeOuts net)).all fun o =>
      let c := routeSrc r net o
      c = 0 || ((decide (4 ≤ o) || linkOk q site o) &&
        (if c ≤ 4 then linkOk q site (c - 1)
          else if c = 5 then true
          else if c = 6 then net = 0
          else match routeRule r net with
            | some k => c = 7 || (c = 8 && !bit (secRule b site net k) 31)
            | none => false))

/-- Whether every word of an element at a sector-space address lies in a sector of quadrant q (Table 71). -/
def wordsInSectors (q a elem : Nat) : Bool :=
  (List.range (elem / 256)).all fun k => decide (a + 256 * k < 2 ^ 28) && isSector q (bits (a + 256 * k) 27 20)

/-- R269 for a sector-space end: element, base address and strides are whole words, and every word of every position that
forms an address (R266) is in a sector of quadrant q. -/
def sectorEndOk (q d base : Nat) (stride : Nat → Int) (forms : Nat → Bool) (addr : Nat → Nat) : Bool :=
  decide (base % 256 = 0) && decide (base < 2 ^ 28) && isSector q (bits base 27 20) && decide (descElem d % 256 = 0) &&
    (List.range (descNdim d)).all (fun k => decide (stride k % 256 = 0)) &&
    (List.range (descPositions d)).all fun p => !forms p || wordsInSectors q (addr p) (descElem d)

/-- R269 for the source and for the destination, where it is a sector-space end. -/
def srcSectorOk (q d : Nat) : Bool :=
  sectorEndOk q d (descSrc d) (fun k => dimSstride (descDim d k)) (fun p => !descPadded d p) (descSrcAddr d)
def dstSectorOk (q d : Nat) : Bool :=
  sectorEndOk q d (descDst d) (fun k => dimDstride (descDim d k)) (fun _ => true) (descDstAddr d)

/-- R269 for a descriptor; `host` for a host queue entry, `kinds` the kinds of quadrant that a space 2 end addresses. -/
def descOk (host : Bool) (q : Nat) (kinds : List Nat) (d : Nat) : Bool :=
  let nd := descNdim d
  let ss := descSrcSpace d
  let ds := descDstSpace d
  decide (1 ≤ nd ∧ nd ≤ 5) && decide (1 ≤ descElem d ∧ descElem d ≤ 2 ^ 20) &&
    bits d 185 184 ≠ 3 && zeroBits d 191 186 && zeroBits d 231 225 && zeroBits d 255 232 && descProgress d = 0 &&
    descElem d % descPadWidth d = 0 &&
    (List.range 5).all (fun k => if nd ≤ k then decide (descDim d k = 0)
      else decide (dimPadLo (descDim d k) + dimPadHi (descDim d k) ≤ dimCount (descDim d k))) &&
    (if host then (ss = 0 && ds = 3) || (ss = 3 && ds = 0) || (ss = 0 && ds = 0)
      else decide (ss ≤ 1) && decide (ds ≤ 2) && !descIrq d &&
        (ss ≠ 1 || srcSectorOk q d) && (ds ≠ 1 || dstSectorOk q d) && (ds ≠ 2 || kinds.all fun qq => dstSectorOk qq d))

/-- Steps of the image that reach something, by field. -/
def stepList (b : List Byte) : List Nat := List.range (imgNsteps b)

/-- Check 5 of Table 55. -/
def encodingBad (q : Nat) (b : List Byte) : Bad :=
  let steps := stepList b
  let s1 := steps.flatMap fun i =>
    let w := secStep b i
    [(i, none, decide (1 ≤ Step.dur w) && stepFieldsOk q b i w && loopsOk b i)]
  let routes := dedup (steps.map fun i => Step.route (secStep b i))
  let s2 := if segLen b 1 = 0 then [] else (List.range (sites q)).flatMap fun st =>
    routes.map fun c => (noStep, some st, routeOk q b st (secRoute b st c))
  let uops := dedup ((steps.map fun i => Step.uop (secStep b i)).filter fun u => u ≠ 0x1FF)
  let s3 := (prismSites q).flatMap fun st => uops.map fun u =>
    let code := secUop q b st
    (noStep, some st, match uopChain code 16 u with
      | some l => l.all fun k => uopOk code (imgFnUsed b) (code k)
      | none => false)
  let ags := dedup ((steps.filter fun i => Step.agEn (secStep b i)).map fun i => Step.ag (secStep b i))
  let s4 := (sectorSites q).flatMap fun st => ags.flatMap fun a => [0, 1].map fun g =>
    let code := secAg q b st g
    (noStep, some st, match agChain code 16 a with
      | some l => agOk code l
      | none => false)
  let sals := dedup ((steps.filter fun i => Step.salEn (secStep b i)).map fun i => Step.sal (secStep b i))
  let s5 := (sectorSites q).flatMap fun st => sals.map fun a =>
    (noStep, some st, salOk (secSal q b st) (salRange (secSal q b st) 64 a))
  let sends := fun i => (steps.filter fun k =>
    decide (Step.op (secStep b k) = 0x10) && decide (Step.sendDesc (secStep b k) = i)).map fun k => Step.quadrant (secStep b k)
  let s6 := (List.range (imgNdesc b)).map fun i => (noStep, none, descOk false q (sends i) (secDesc b i))
  let used := (prismSites q).foldl (fun m st => uops.foldl (fun m u =>
    let code := secUop q b st
    ((uopChain code 16 u).getD []).foldl (fun m k =>
      if Uop.kind (code k) = 3 then Nat.lor m (2 ^ Uop.slot (code k)) else m) m) m) 0
  firstBad (s1 ++ s2 ++ s3 ++ s4 ++ s5 ++ s6 ++ [(noStep, none, decide (used = imgFnUsed b))])

end Sys2Proof.Machine
end

