-- ==== Sys2Proof/Machine/Access.lean ====
section
/-! DEFINITION. Who may write what (R7, R25, R491, R492): the guard that every register write of a row goes through. -/

namespace Sys2Proof.Machine

/-- Partition of a register (R492, Table 121): PF-only, of one partition or of none, or checked per operation. -/
inductive Scope where
  | pfOnly
  | part (p : Option Nat)
  | perOp
  deriving DecidableEq, Repr

/-- Whether an originator may write a register of a scope. -/
def State.mayWrite (s : State) (o : Orig) (sc : Scope) : Bool :=
  isPf o || match o, sc with
    | .vf _, .perOp => true
    | .vf _, .part (some p) => s.actsFor o p
    | _, _ => false

/-- A write that the security block does not permit: dropped whole, SEC:0x0B0 (R492, R556). -/
def State.denied (s : State) (o : Orig) (off : Nat) : State :=
  s.postRim 0xB0B0 clsN off (s.onlyPart o) o.code.toNat

/-- A violation of a lock or of a write-once register (R25, R507): the write is dropped, and the bus completes it with violation
status. -/
def State.violation (s : State) (o : Orig) (off : Nat) : State :=
  let t := (((s.postRim 0xB0A1 clsN off (s.onlyPart o) o.code.toNat).incSat F.secViol_count 1).set F.secViol_originator
    o.code.toNat).set F.secViolAddr_addr off
  { t with busViol := t.busViol ++ [(o.code.toNat, off)] }

/-- Run a write when its originator may make it. -/
def State.guard (s : State) (o : Orig) (sc : Scope) (off : Nat) (k : State → State) : State :=
  if s.mayWrite o sc then k s else s.denied o off

/-- Scope of the block of quadrant q. -/
def State.quadScope (s : State) (q : Nat) : Scope := .part (s.owner q)

/-- A write to the block of a quadrant: dropped without an event when the quadrant is disabled (R7). -/
def State.guardQuad (s : State) (o : Orig) (q off : Nat) (k : State → State) : State :=
  if s.active q then s.guard o (s.quadScope q) off k else s

/-- An operation of a quadrant waits in arrival order (R145, R494). -/
def State.defer (s : State) (q : Nat) (i : Instr) : State := s.modQuad q fun x => { x with deferred := x.deferred ++ [i] }

/-- Bit i of a register value written. -/
def vbit (v : Lane) (i : Nat) : Bool := bit v.toNat i

/-- Bits [hi:lo] of a register value written. -/
def vbits (v : Lane) (hi lo : Nat) : Nat := bits v.toNat hi lo

end Sys2Proof.Machine
end

