-- ==== Sys2Proof/Machine/Schedule.lean ====
section
/-! DEFINITION. The schedule check of a section image (check 6 of Table 55): R67, R70, R71, R76, R79, R129, R132, R147, R158,
R185, R192, R215, R270, R271, R279. -/

namespace Sys2Proof.Machine

/-! ## Schedule (check 6) -/

/-- A function-store operation of a schedule: first and last entry into V1, registers that it reads, and whether it reads
the scalar broadcast (R132). -/
structure FnSpan where
  first : Nat
  last : Nat
  regs : List Nat
  bcast : Bool
  deriving DecidableEq, Repr

/-- What a step does in one prism, by offset: tiles (start, bank, steps, read out), fc of words entering V1, register
writes (register, fc), function-store operations, and fc in which a scalar from SO is in the prism's vertex. -/
structure PlanP where
  tiles : List (Nat × Nat × Nat × Bool)
  v1 : List Nat
  wr : List (Nat × Nat)
  fns : List FnSpan
  so : List Nat
  deriving DecidableEq, Repr

def PlanP.empty : PlanP := ⟨[], [], [], [], []⟩

/-- Whether a word of a function slot reads the scalar broadcast in entry i (Tables 36 and 39). -/
def fnReadsBcast (fs : FnSlot) (u : Uop) (i : Nat) : Bool :=
  if i = 22 ∧ Uop.fusedPost u % 2 = 1 then true
  else if (i = 0 ∧ Uop.fusedPre u ≠ 0) ∨ (i = 23 ∧ 2 ≤ Uop.fusedPost u) then false
  else match fs with
    | .image img =>
      let e := fnEntry img i
      let (ub, uc) := fnUses (FnEntry.op e)
      decide (FnEntry.sa e = 4) || (ub && decide (FnEntry.sb e = 4)) || (uc && decide (FnEntry.sc e = 4))
    | .initial => false

/-- Offsets of the firings of a micro-operation. -/
def offsets (u : Uop) : List Nat := (List.range (Uop.count u)).map fun j => Uop.start u + j * Uop.period u

/-- The plan of one micro-operation; `fs` are the function slots, whose entries say what an FN reads. -/
def planUop (code : Nat → Uop) (fs : NMap FnSlot) (u : Uop) : PlanP :=
  (List.range (Uop.count u)).foldl (fun (p : PlanP) j =>
    let t := Uop.start u + j * Uop.period u
    match Uop.kind u with
    | 1 =>
      let ro := decide (Uop.readout u ≠ 0x1FF)
      let v := code (Uop.readout u)
      let n := Uop.nsteps u
      let ins := if ro then (List.range 16).map fun r => t + n + 4 + r else []
      { p with
        tiles := p.tiles ++ [(t, (Uop.bank u + if Uop.bankAlt u then j % 2 else 0) % 2, n, ro)]
        v1 := p.v1 ++ ins
        wr := p.wr ++ if Uop.rfWe v then ins.map fun e => (Uop.rfDst v, e + 12) else []
        so := p.so ++ ins.map (· + 14) }
    | 2 =>
      let ins := (List.range (Uop.words u)).map fun k => t + k
      { p with v1 := p.v1 ++ ins, wr := p.wr ++ if Uop.rfWe u then ins.map fun e => (Uop.rfDst u, e + 12) else []
               so := p.so ++ ins.map (· + 14) }
    | _ =>
      let last := t + 4 * (Uop.words u - 1)
      let src := if Uop.src u = 2 then (List.range (Uop.words u)).map fun k => (Uop.srcReg u + k) % 16 else []
      let slot := nget fs .initial (Uop.slot u)
      let fn := decide (Uop.kind u = 3)
      let regs := if fn then src ++ (List.range 24).flatMap fun i => fnRegs slot i u
        else if Uop.statOp u = 3 ∧ !Uop.mZero u then src ++ [Uop.mReg u] else src
      let wrs := if Uop.kind u = 4 then [(Uop.rfDst u, last + 51)]
        else if Uop.rfWe u then (List.range (Uop.words u)).map fun k => (Uop.rfDst u, t + 4 * k + 51) else []
      { p with
        fns := p.fns ++ [⟨t, last, regs, fn && (List.range 24).any (fnReadsBcast slot u)⟩]
        wr := p.wr ++ wrs
        so := p.so ++ if fn then (List.range (Uop.words u)).map fun k => t + 4 * k + 53 else [] }) .empty

def PlanP.add (a b : PlanP) : PlanP := 
  ⟨a.tiles ++ b.tiles, a.v1 ++ b.v1, a.wr ++ b.wr, a.fns ++ b.fns, a.so ++ b.so⟩
def PlanP.shift (a : PlanP) (d : Nat) : PlanP :=
  ⟨a.tiles.map fun t => (t.1 + d, t.2), a.v1.map (· + d), a.wr.map fun w => (w.1, w.2 + d),
    a.fns.map fun f => { f with first := f.first + d, last := f.last + d }, a.so.map (· + d)⟩

/-- The plan of a step in the prism at a site. -/
def planStep (q : Nat) (b : List Byte) (fs : NMap FnSlot) (site : Nat) (w : Step) : PlanP :=
  let code := secUop q b site
  match uopChain code 16 (Step.uop w) with
  | some l => l.foldl (fun p k => p.add (planUop code fs (code k))) .empty
  | none => .empty

/-- The last fc of a plan. -/
def PlanP.span (a : PlanP) : Nat :=
  max ((a.tiles.map fun t => t.1 + t.2.2.1 + 20).foldl max 0)
    (max (a.v1.foldl max 0) ((a.fns.map fun f => f.last + 52).foldl max 0))

/-- Two tiles clash (R70, R71): steps of row 0 overlap, or the bank is not free. -/
def tilesClash (x y : Nat × Nat × Nat × Bool) : Bool :=
  let (f, l) := if x.1 ≤ y.1 then (x, y) else (y, x)
  decide (l.1 < f.1 + f.2.2.1) || (f.2.1 = l.2.1 && f.2.2.2 && decide (l.1 < f.1 + f.2.2.1 - 1 + 21))

/-- Two function-store operations clash (R132). -/
def fnsClash (x y : FnSpan) : Bool :=
  let (f, l) := if x.first ≤ y.first then (x, y) else (y, x)
  !(decide (f.last + 40 ≤ l.first) || (decide (l.first % 4 = f.first % 4) && decide (f.last < l.first)))

/-- Pairs of elements of a list. -/
def pairs {α : Type} : List α → List (α × α)
  | [] => []
  | a :: r => (r.map fun x => (a, x)) ++ pairs r

/-- Whether every pair of a plan is free of clashes. -/
def PlanP.ok (p : PlanP) : Bool :=
  !(pairs p.tiles).any (fun e => tilesClash e.1 e.2) &&
    !(pairs p.v1).any (fun e => decide (e.1 = e.2)) && !(pairs p.fns).any (fun e => fnsClash e.1 e.2) &&
    p.fns.all fun f =>
      p.v1.all (fun v => !decide (f.first ≤ v ∧ v ≤ f.last + 39)) &&
        p.wr.all fun w => !(f.regs.contains w.1 && decide (f.first ≤ w.2 ∧ w.2 ≤ f.last + 39))

/-- Issue fc of an entry (R192). -/
def agIssues (e : AgEntry) : List Nat :=
  let n := fun l => AgEntry.countM1 e l + 1
  let d1 := n 0 * (1 + AgEntry.gap e 0) + AgEntry.gap e 1
  let d2 := n 1 * d1 + AgEntry.gap e 2
  let d3 := n 2 * d2 + AgEntry.gap e 3
  (List.range (n 3)).flatMap fun i3 => (List.range (n 2)).flatMap fun i2 => (List.range (n 1)).flatMap fun i1 =>
    (List.range (n 0)).map fun i0 => AgEntry.start e + i3 * d3 + i2 * d2 + i1 * d1 + i0 * (1 + AgEntry.gap e 0)

/-- The address fc of one address generator in a step, by mode. -/
def agPlan (q : Nat) (b : List Byte) (site g : Nat) (w : Step) : Nat × List Nat :=
  if Step.agEn w then
    let code := secAg q b site g
    match agChain code 16 (Step.ag w) with
    | some l => (AgEntry.mode (code (l.headD 0)), if AgEntry.mode (code (l.headD 0)) = 0 then [] else l.flatMap fun e => agIssues (code e))
    | none => (0, [])
  else (0, [])

/-- The instructions that a scalar program executes, each with its fc: `fuel` instructions at most (R193). -/
def salTrace (code : Nat → Nat) (dur : Nat) : Nat → SalRun → List (Nat × Nat)
  | 0, _ => []
  | k + 1, r =>
    if dur ≤ r.next ∨ 64 ≤ r.pc then []
    else (r.next, salOp (code r.pc)) :: match salNext r.next (code r.pc) r with
      | some r' => salTrace code dur k r'
      | none => []

/-- The instructions of a step's program in a sector. -/
def salPlan (q : Nat) (b : List Byte) (site : Nat) (w : Step) : List (Nat × Nat) :=
  if Step.salEn w then salTrace (secSal q b site) (Step.dur w) (Step.dur w) ⟨Step.sal w, 0, none, 0, Step.dur w⟩ else []

/-- fc in which a step's program uses P1 (R76). -/
def salP1 (q : Nat) (b : List Byte) (site : Nat) (w : Step) : List Nat :=
  ((salPlan q b site w).filter fun e => decide (e.2 = 0x0F) || decide (e.2 = 0x10)).map (·.1)

/-- Whether a step is a transfer step (R271). -/
def isTransfer (q : Nat) (b : List Byte) (w : Step) : Bool :=
  Step.agEn w && (sectorSites q).any fun st => [0, 1].any fun g => 3 ≤ (agPlan q b st g w).1

/-- Whether a list repeats an element. -/
def repeats (l : List Nat) : Bool := (pairs l).any fun e => decide (e.1 = e.2)

/-- A sector's part of a step's schedule (R76, R79, R192). -/
def sectorPlanOk (q : Nat) (b : List Byte) (w : Step) (site : Nat) : Bool :=
  let a0 := agPlan q b site 0 w
  let a1 := agPlan q b site 1 w
  !repeats a0.2 && !repeats a1.2 && !(decide (3 ≤ a0.1 ∧ 3 ≤ a1.1)) && !(salP1 q b site w).any fun t => a1.2.contains t

/-- Words per fc that a share word allows a step's fills or drains (R279). -/
def shareWords (w : Nat) : Nat := if bit w 31 then bits w 7 0 / 2 else bits w 7 0

/-- The fc, from its start, in which the address generators of a step's sectors issue in a mode. -/
def issuesOf (q : Nat) (b : List Byte) (mode : Nat) (w : Step) : List Nat :=
  (sectorSites q).flatMap fun st => [0, 1].flatMap fun g =>
    let p := agPlan q b st g w
    if p.1 = mode then p.2 else []

/-- Whether no fc has more than n of the issues listed. -/
def rateOk (l : List Nat) (n : Nat) : Bool := l.all fun t => decide ((l.filter fun u => decide (u = t)).length ≤ n)

/-- A transfer step by itself (R270, R271): its generators, and the descriptor that it starts. -/
def transferOk (q : Nat) (b : List Byte) (w : Step) : Bool :=
  if !isTransfer q b w then true
  else
    let modes := (sectorSites q).flatMap fun st => [0, 1].map fun g => (agPlan q b st g w).1
    let all := issuesOf q b 3 w ++ issuesOf q b 4 w
    let d := secDesc b (Step.runDesc w)
    modes.all (fun m => m = 0 || decide (3 ≤ m)) && Step.uop w = 0x1FF && !Step.salEn w &&
      (Step.op w ≠ 0x01 || !Step.descEn w ||
        (all.all (fun t => decide (Step.descOff w ≤ t)) &&
          (!(descSrcSpace d = 1 && descSrc d = 0 || descDstSpace d = 1 && descDst d = 0) ||
            descPositions d * (descElem d / 256) = all.length)))

/-! ### The steps that follow -/

/-- How often a LOOP step still jumps at an active level (R163): exactly n times, or, where the count is not known at load,
any number up to n. -/
inductive Turns where
  | exactly (n : Nat)
  | upTo (n : Nat)
  deriving DecidableEq, Repr

/-- The levels that may be active in step i: those of the loops around it, at any count. -/
def turnsAt (b : List Byte) (i : Nat) : NMap (Option Turns) :=
  (loops b).foldl (fun m l =>
    if l.1 ≤ i ∧ i ≤ l.2.1 then nset m none l.2.2 (some (.upTo (Step.count (secStep b l.2.1) - 1))) else m) []

/-- Steps that can follow step i, with the levels then (R163, R164). After an END or an SSW none does (R215). -/
def nextSteps (b : List Byte) (i : Nat) (m : NMap (Option Turns)) : List (Nat × NMap (Option Turns)) :=
  let w := secStep b i
  let L := Step.level w
  let out := (i + 1, nset m none L none)
  let jump := fun (r : Turns) => (Step.target w, nset m none L (some r))
  (if Step.op w = 0x03 ∨ Step.op w = 0x0B then []
    else if Step.op w ≠ 0x02 then [(i + 1, m)]
    else match (nget m none L).getD (if Step.countSrc w then .upTo (Step.count w - 1) else .exactly (Step.count w - 1)) with
      | .exactly 0 => [out]
      | .exactly (k + 1) => [jump (.exactly k)]
      | .upTo 0 => [out]
      | .upTo (k + 1) => [out, jump (.upTo k)]).filter fun e => decide (e.1 < imgNsteps b)

/-- The ways on from the end of step i, whose first fc is `at_`: the steps that start within `span` fc, each with its first
fc. Every step takes an fc, so that a fuel above `span` reaches them all. -/
def waysOn (b : List Byte) : Nat → Nat → Nat → Nat → NMap (Option Turns) → List (List (Nat × Nat))
  | 0, _, _, _, _ => [[]]
  | k + 1, i, at_, span, m =>
    let t := at_ + Step.dur (secStep b i)
    let l := nextSteps b i m
    if span < t ∨ l = [] then [[]]
    else l.flatMap fun e => (waysOn b k e.1 t span e.2).map fun r => (e.1, t) :: r

/-- The ways on from step i while activities that it starts run, `span` fc. -/
def waysFrom (b : List Byte) (i span : Nat) : List (List (Nat × Nat)) := waysOn b (span + 1) i 0 span (turnsAt b i)

/-- Every step on a way, with its first fc. -/
def followers (b : List Byte) (i span : Nat) : List (Nat × Nat) := dedup (waysFrom b i span).flatten

/-! ### Words and scalars whose course the schedule fixes -/

/-- What the schedule check follows along a way (R67, R132): items on their course, staging buffers, a site whose buffer
overflows, and writes of a scalar broadcast (site, fc). Items that a steer rule or an edge link takes leave it: where they
go is known only at run time. -/
structure Course where
  flight : List Flight
  prisms : NMap Prism
  overflow : Option Nat
  bcast : List (Nat × Nat)
  deriving DecidableEq, Repr

/-- The step in force at an fc of a way: its steps with their first fc. -/
def stepAt (b : List Byte) (way : List (Nat × Nat)) (t : Nat) : Option Nat :=
  (way.find? fun e => decide (e.2 ≤ t) && decide (t < e.2 + Step.dur (secStep b e.1))).map (·.1)

/-- Outputs and delays by which an item on a port leaves a vertex whatever its data: link moves, and both inputs of a merge. -/
def fixedOuts (b : List Byte) (r site net port : Nat) : List (Nat × Nat) :=
  (List.range (routeOuts net)).filterMap fun o =>
    let c := routeSrc r net o
    if c = 0 then none
    else if c ≤ 6 then (if port = c - 1 then some (o, 1) else none)
    else match routeRule r net with
      | some k =>
        let w := secRule b site net k
        if c = 7 ∧ bit w 31 ∧ (port = bits w 30 28 ∨ port = bits w 27 25) then some (o, 2) else none
      | none => none

/-- An item goes on through the vertex of its site. -/
def fixedMove (q : Nat) (b : List Byte) (r t : Nat) (f : Flight) : List Flight :=
  (fixedOuts b r f.site f.net f.port).filterMap fun o =>
    if 4 ≤ o.1 then some { f with due := t + o.2, toUnit := true, port := o.1 }
    else match leaves q f.site o.1 with
      | some _ => none
      | none => some { f with due := t + o.2, site := nextSite q f.site o.1, port := (o.1 + 2) % 4 }

/-- An item reaches a prism: a word is staged (R67), a scalar becomes the broadcast (R73). -/
def Course.accept (t : Nat) (c : Course) (f : Flight) : Course :=
  let p := nget c.prisms Prism.init f.site
  if f.net = 0 then
    match stage (if f.port = 4 then p.va else p.vb) t 0 f.item with
    | some l => { c with prisms := nset c.prisms Prism.init f.site (if f.port = 4 then { p with va := l } else { p with vb := l }) }
    | none => { c with overflow := c.overflow.or (some f.site) }
  else if f.net = 1 then { c with bcast := c.bcast ++ [(f.site, t)] } else c

/-- A prism's firings take their words. -/
def takeTick (code : Nat → Uop) (t : Nat) (p : Prism) : Prism :=
  let x0 : PTick := ⟨fireTick code t p, [], [], 0, 0, 0, 0, 0, []⟩
  let (x1, fds) := threadList (feedTick t) x0 x0.p.feeds
  let (x2, tls) := threadList (tileTake t) x1 x1.p.tiles
  { x2.p with feeds := fds.filter (·.alive t), tiles := tls.filter (·.alive t), pipes := [] }

/-- One fc of a way. -/
def Course.tick (q : Nat) (b : List Byte) (way : List (Nat × Nat)) (c : Course) (t : Nat) : Course :=
  let due := c.flight.filter fun f => decide (f.due = t)
  let moved := match stepAt b way t with
    | some i => (due.filter fun f => !f.toUnit).flatMap fun f =>
        fixedMove q b (secRoute b f.site (Step.route (secStep b i))) t f
    | none => []
  let c1 := (due.filter fun f => f.toUnit && isPrism q f.site).foldl (Course.accept t)
    { c with flight := (c.flight.filter fun f => decide (t < f.due)) ++ moved }
  { c1 with prisms := (prismSites q).foldl (fun m st =>
      let p := nget m Prism.init st
      if p = Prism.init then m else nset m Prism.init st (takeTick (secUop q b st) t p)) c1.prisms }

/-- The items that a step whose first fc is `at_` sends out, and the firings of its prisms. -/
def Course.start (q : Nat) (b : List Byte) (fs : NMap FnSlot) (c : Course) (e : Nat × Nat) : Course :=
  let w := secStep b e.1
  let item : Nat → Nat → Nat → Nat → Flight := fun due st net port => ⟨due, st, false, net, port, ⟨[], false⟩⟩
  let words := (sectorSites q).flatMap fun st => [0, 1].flatMap fun g =>
    let p := agPlan q b st g w
    if p.1 = 1 then p.2.map fun t => item (e.2 + t + 5) st 0 (4 + g) else []
  let scalars := (sectorSites q).flatMap fun st =>
    ((salPlan q b st w).filter fun i => decide (i.2 = 0x0D)).map fun i => item (e.2 + i.1 + 2) st 1 4
  let outs := (prismSites q).flatMap fun st => (planStep q b fs st w).so.map fun t => item (e.2 + t) st 1 4
  { c with
    flight := c.flight ++ words ++ scalars ++ outs
    prisms := (prismSites q).foldl (fun m st =>
      let code := secUop q b st
      let l := if Step.uop w = 0x1FF then [] else (uopChain code 16 (Step.uop w)).getD []
      if l = [] then m
      else nmod m Prism.init st fun p => { p with firings := p.firings ++ l.map fun k =>
        ⟨code k, 0, e.2 + Uop.start (code k), Uop.count (code k), Uop.period (code k), 0⟩ }) c.prisms }

/-- A way followed for `n` fc from empty buffers. -/
def courseOf (q : Nat) (b : List Byte) (fs : NMap FnSlot) (way : List (Nat × Nat)) (n : Nat) : Course :=
  (List.range n).foldl (Course.tick q b way) (way.foldl (Course.start q b fs) ⟨[], [], none, []⟩)

/-- R67 and the scalar broadcasts of R132 along one way from step i: the first site that fails. -/
def courseBad (q : Nat) (b : List Byte) (fs : NMap FnSlot) (way : List (Nat × Nat)) (n : Nat) : Option Nat :=
  let c := courseOf q b fs way n
  c.overflow.or ((c.bcast.find? fun e => way.any fun v => ((planStep q b fs e.1 (secStep b v.1)).shift v.2).fns.any fun f =>
    f.bcast && decide (f.first ≤ e.2 ∧ e.2 ≤ f.last + 39)).map (·.1))

/-! ### The check -/

/-- Whether function slot n of a quadrant can be fused (Table 33, R140). -/
def fusable (fs : NMap FnSlot) (n : Nat) : Bool :=
  match nget fs .initial n with
  | .initial => decide (n < 16)
  | .image b => bit (byteField b 0xC 4) 0

/-- A step's activities in a prism against themselves and those of the steps that follow (R70, R71, R132, R158, R185). -/
def prismBad (q : Nat) (b : List Byte) (fs : NMap FnSlot) (i site : Nat) : Bool :=
  let w := secStep b i
  let code := secUop q b site
  let l := (uopChain code 16 (Step.uop w)).getD []
  let p := planStep q b fs site w
  !(l.all (fun k => (offsets (code k)).all fun t => decide (t < Step.dur w)) &&
    l.all (fun k => Uop.kind (code k) ≠ 3 || (Uop.fusedPre (code k) = 0 && Uop.fusedPost (code k) = 0) ||
      fusable fs (Uop.slot (code k))) && p.ok) ||
    (followers b i p.span).any fun e => !(p.add ((planStep q b fs site (secStep b e.1)).shift e.2)).ok

/-- A step's address generators and program in a sector against themselves and those of the steps that follow: one issue per
generator in an fc (R192), P1 (R76), and one generator in fill or drain (R79), which a run stays in until its last issue. -/
def sectorBad (q : Nat) (b : List Byte) (i site : Nat) : Bool :=
  let w := secStep b i
  let last := fun g => (agPlan q b site g w).2.foldl max 0
  !sectorPlanOk q b w site || (followers b i (max (last 0) (last 1))).any fun e =>
    let v := secStep b e.1
    [0, 1].any fun g =>
      let a := agPlan q b site g w
      let other := agPlan q b site (1 - g) v
      (agPlan q b site g v).2.any (fun t => a.2.contains (t + e.2)) ||
        (decide (g = 1) && (salP1 q b site v).any fun t => a.2.contains (t + e.2)) ||
        decide (3 ≤ a.1 ∧ 3 ≤ other.1 ∧ a.2 ≠ [] ∧ e.2 ≤ last g)

/-- The fill and the drain rate of a step with the steps that follow on a way, against the section's base shares (R279). -/
def rateBad (q : Nat) (b : List Byte) (i : Nat) : Bool :=
  let w := secStep b i
  let bad := fun (mode n : Nat) =>
    let own := issuesOf q b mode w
    (waysFrom b i (own.foldl max 0)).any fun way =>
      !rateOk (own ++ way.flatMap fun e => (issuesOf q b mode (secStep b e.1)).map (· + e.2)) n
  isTransfer q b w && (bad 3 (shareWords (imgReadShare b)) || bad 4 (shareWords (imgWriteShare b)))

/-- The last fc, from its start, in which an activity of step i runs. -/
def stepSpan (q : Nat) (b : List Byte) (fs : NMap FnSlot) (w : Step) : Nat :=
  max (((prismSites q).map fun st => (planStep q b fs st w).span).foldl max 0)
    (((sectorSites q).map fun st => max ((agPlan q b st 0 w).2.foldl max 0) ((agPlan q b st 1 w).2.foldl max 0)).foldl max
      (Step.dur w))

/-- One step's schedule against itself and the steps that follow while its activities run (R158). -/
def stepScheduleBad (q : Nat) (b : List Byte) (fs : NMap FnSlot) (i : Nat) : Bad :=
  let w := secStep b i
  let own := firstBad [
    (i, none, Step.op w ≠ 0x0B || (decide (32 ≤ Step.dur w) && Step.uop w = 0x1FF && !Step.agEn w && !Step.salEn w)),
    (i, none, transferOk q b w && !rateBad q b i)]
  let prisms := if Step.uop w = 0x1FF then [] else (prismSites q).map fun st => (i, some st, !prismBad q b fs i st)
  let sectors := if !Step.agEn w && !Step.salEn w then [] else (sectorSites q).map fun st => (i, some st, !sectorBad q b i st)
  let idle := Step.uop w = 0x1FF && !Step.agEn w && !Step.salEn w
  let course := if idle then none
    else
      let n := stepSpan q b fs w + sites q
      ((waysFrom b i n).findSome? fun way => courseBad q b fs ((i, 0) :: way) n).map fun st => (i, some st)
  (own.or (firstBad (prisms ++ sectors))).or course

/-- Check 6 of Table 55. -/
def scheduleBad (q : Nat) (b : List Byte) (fs : NMap FnSlot) : Bad :=
  (stepList b).findSome? (stepScheduleBad q b fs)

end Sys2Proof.Machine
end

