-- ==== Sys2Proof/Machine/Section.lean ====
section
/-! DEFINITION. Loading a section and committing it (chapter 6): SECTION_LOAD, SECTION_LOAD_COMPLETE, HOST_COMMIT,
SECTION_DISCARD, and the commit that an SSW step shares (R213 to R216). -/

namespace Sys2Proof.Machine

/-! ## Pins (R251, R252) -/

/-- Distinct pages of a section's pin list. -/
def Section.pages (x : Section) : List Nat := dedup (x.pins.map (·.1))

/-- Add to the pin count of a page. -/
def State.pinPage (s : State) (p : Nat) (up : Bool) : State :=
  let e := s.page p
  s.setPage p (e.put 50 7 (if up then min (e.pins + 1) 64 else e.pins - 1))

/-- A section leaves a quadrant: its pins are released. -/
def State.dropSection (s : State) (x : Option Section) : State :=
  match x with
  | some y => if y.held then y.pages.foldl (fun t p => t.pinPage p false) s else s
  | none => s

/-- Set the shadow of a quadrant, releasing what it held. -/
def State.setShadow (s : State) (q st : Nat) (x : Option Section) : State :=
  let s1 := (s.dropSection (s.quad q).shadow).modQuad q fun y => { y with shadow := x, loading := none }
  ((s1.set (F.seqSecStat_shadow q) st).set (F.seqSecShadowId_shadow_id q)
    (match x with | some y => imgSectionId y.bytes | none => 0)).set (F.seqSecCtl_busy q) 0

/-! ## Loading (R204 to R211) -/

/-- Arg of a load or commit refusal (R559). -/
def secArg (check addr step : Nat) : Nat := check % 256 + addr % 2 ^ 45 / 256 * 256 + step % 65536 * 2 ^ 48

/-- Log a refusal and record it in last_refusal; nothing else changes. -/
def State.secRefuse (s : State) (q code cls check addr step : Nat) (site : Option Nat) : State :=
  (s.postQuad code cls q none site (secArg check addr step)).set (F.seqSecStat_last_refusal q) code

/-- A load fails: the shadow is refused (R205). -/
def State.loadFail (s : State) (q code check addr step : Nat) (site : Option Nat) : State :=
  (s.setShadow q 3 none).secRefuse q code clsN check addr step site

/-- Check 1 over a range: mapped, owned by the quadrant's owner, readable (R206). -/
def State.readable (s : State) (addr n : Nat) (part : Option Nat) : Bool :=
  match part with
  | none => false
  | some p => s.owned addr n p && (s.rangeError addr n).isNone

/-- Digest of a function slot (R143). -/
def fnDigest (fs : NMap FnSlot) (n : Nat) : Nat :=
  match nget fs .initial n with
  | .initial => if n < 16 then (Config.shippedDigest n).toNat else 0
  | .image b => byteField b 0x10 8

/-- The image of a load that passes, or the code, check and item that fails. -/
structure LoadBad where
  code : Nat
  check : Nat
  step : Nat
  site : Option Nat
  deriving DecidableEq, Repr

/-- The header at an address as a load reads it, empty where check 1 fails on it (R205). -/
def State.loadHeader (s : State) (q addr : Nat) : List Byte :=
  if s.readable addr 256 (s.owner q) then s.bytesAt addr 256 else []

/-- The bytes of an image after its header. -/
def restOf (h : List Byte) : Nat := imgLen h - 256

/-- Checks 1 to 8 of Table 55 for the image at an address whose header has been read (R205, R208). -/
def State.loadCheck (s : State) (q addr : Nat) (h : List Byte) : Except LoadBad Section :=
  let part := s.owner q
  if h = [] then .error ⟨0x2016, 1, noStep, none⟩
  else if !headerOk q h then .error ⟨0x2012, 2, noStep, none⟩
  else if restOf h ≠ 0 && !s.readable (addr + 256) (restOf h) part then .error ⟨0x2016, 1, noStep, none⟩
  else
    let b := h ++ s.bytesAt (addr + 256) (restOf h)
    if 0x30 < imgByte b 4 then .error ⟨0x2010, 3, noStep, none⟩
    else if (crc64 (b.drop 0x18)).toNat ≠ imgDigest b then .error ⟨0x2013, 4, noStep, none⟩
    else match encodingBad q b with
      | some e => .error ⟨0x2014, 5, e.1, e.2⟩
      | none => match scheduleBad q b (s.quad q).fnStore with
        | some e => .error ⟨0x2015, 6, e.1, e.2⟩
        | none =>
          let pins := (List.range (imgNpin b)).map fun i => secPin b i / 2 ^ 21
          if pins.any fun p => !s.owned (p * 2 ^ 21) 1 (part.getD 0) then .error ⟨0x2021, 7, noStep, none⟩
          else if imgPaired b && (let p := q / 4 * 4 + imgPairPos b; s.fenced p || !s.active p) then
            .error ⟨0x2011, 8, noStep, none⟩
          else .ok ⟨addr, b, pins.map fun p => (p, s.page p), false, [], 0, []⟩

/-- The partner that a header names: its quadrant and image (R207). -/
def pairIn (q : Nat) (h : List Byte) : Option (Nat × Nat) :=
  if h ≠ [] ∧ imgPaired h then some (q / 4 * 4 + imgPairPos h % 4, imgPartner h) else none

/-- Whether the header at an address names a partner (R207). -/
def State.pairOf (s : State) (q addr : Nat) : Option (Nat × Nat) := pairIn q (s.loadHeader q addr)

/-- The codes of R204 for one quadrant. -/
def State.loadRefusal (s : State) (q : Nat) : Option Nat :=
  if s.get (F.seqSecStat_shadow q) = 1 then some 0x2017
  else if s.fenced q then some 0x2011
  else if (s.owner q).isNone then some 0x2019
  else none

/-- Start a load: the shadow of the quadrant, and of the partner that the header names, becomes 1. The header is read here,
once (R208); the partner's image is read with the rest, and its quadrant holds an empty header. -/
def State.startLoad (s : State) (q addr : Nat) : State :=
  let h := s.loadHeader q addr
  let go := fun (t : State) (k a : Nat) (g : List Byte) =>
    (((t.setShadow k 1 none).modQuad k fun y => { y with loading := some (a, g) }).set (F.seqSecCtl_busy k) 1)
  match pairIn q h with
  | some (p, a) => if p = q then go s q addr h else go (go s q addr h) p a []
  | none => go s q addr h

/-- A load of the image at an address, with the refusals of R204. For a paired image they hold for the partner as well (R8,
R207), and so does the refusal of two owners (R206): the load does not start, and no quadrant changes but last_refusal. -/
def State.loadFrom (s : State) (q addr : Nat) : State :=
  match s.loadRefusal q with
  | some c => s.secRefuse q c clsN 0 addr noStep none
  | none =>
    match s.pairOf q addr with
    | none => s.startLoad q addr
    | some (p, _) =>
      if !s.active p then s.secRefuse q 0x2011 clsN 8 addr noStep none
      else match s.loadRefusal p with
        | some c => s.secRefuse q c clsN 0 addr noStep none
        | none => if s.owner p ≠ s.owner q then s.secRefuse q 0x2020 clsN 0 addr noStep none else s.startLoad q addr

/-- The load write of R204. -/
def State.sectionLoad (s : State) (q : Nat) : State := s.loadFrom q (s.get (F.seqSecAddr_addr q) * 256)

/-- SECTION_LOAD (R204): a write of SEQ_SEC_CTL with load set. A load waits for a scrub to end (R494). -/
def execSectionLoad (q : Fin 32) (o : Orig) (v : Lane) (s : State) : Out :=
  .next (s.guardQuad o q (quadBlock q + 0x600) fun s =>
    if !vbit v 31 then s
    else if (s.quad q).scrub.isSome then s.defer q (.sectionLoad q o v)
    else s.sectionLoad q)

/-- A loaded section enters a shadow. -/
def State.loadPass (s : State) (q : Nat) (x : Section) : State := s.setShadow q 2 (some x)

/-- A load that fails check 1 on a read logs the read's own event (R205, R255). -/
def State.readFails (s : State) (q addr : Nat) (h : List Byte) (e : LoadBad) : State :=
  let a := if h = [] then addr else addr + 256
  let n := if h = [] then 256 else restOf h
  if e.code = 0x2016 ∧ s.owned a n ((s.owner q).getD 0) then s.logRead a n (s.owner q) (some q) else s

/-- The quadrant whose load reads the partner image of quadrant p (R207). -/
def State.loaderOf (s : State) (p : Nat) : Option Nat :=
  ((List.range 4).map fun i => p / 4 * 4 + i).find? fun m => m != p && match (s.quad m).loading with
    | some l => decide (((pairIn m l.2).map (·.1)) = some p)
    | none => false

/-- SECTION_LOAD_COMPLETE (R205, R207): the checks of Table 55 in order over one image, or over both of a pair. A failure of
the partner image is logged with its quadrant and address. A paired load whose partner's part a reset of that quadrant ended
(R210) fails check 9 (DESIGN CHOICE, log entry 91). -/
def State.finishLoad (s : State) (q addr : Nat) (h : List Byte) : State :=
  match s.loadCheck q addr h with
  | .error e =>
    let t := (s.readFails q addr h e).loadFail q e.code e.check addr e.step e.site
    match pairIn q h with
    | some (p, _) => if p ≠ q ∧ (s.quad p).loading.isSome then
        (t.setShadow p 3 none).set (F.seqSecStat_last_refusal p) e.code else t
    | none => t
  | .ok x =>
    if !imgPaired x.bytes then (s.countCorr addr x.bytes.length).loadPass q x
    else
      let p := q / 4 * 4 + imgPairPos x.bytes
      let a := imgPartner x.bytes
      let g := s.loadHeader p a
      let both := fun (t : State) (code check step : Nat) (site : Option Nat) =>
        ((t.loadFail p code check a step site).setShadow q 3 none).set (F.seqSecStat_last_refusal q) code
      if p ≠ q ∧ (s.quad p).loading.isNone then s.loadFail q 0x2020 9 addr noStep none
      else if s.owner p ≠ s.owner q then both s 0x2020 9 noStep none
      else match s.loadCheck p a g with
        | .error e => both (s.readFails p a g e) e.code e.check e.step e.site
        | .ok y =>
          if imgPaired y.bytes && imgPairPos y.bytes = q % 4 && imgByte y.bytes 4 = imgByte x.bytes 4 && p ≠ q then
            (((s.countCorr addr x.bytes.length).countCorr a y.bytes.length).loadPass q x).loadPass p y
          else both s 0x2020 9 noStep none

/-- The load in which quadrant q takes part ends. -/
def State.loadComplete (s : State) (q : Nat) : State :=
  let m := (s.loaderOf q).getD q
  match (s.quad m).loading with
  | none => s
  | some l => s.finishLoad m l.1 l.2

/-- SECTION_DISCARD (R210). -/
def State.discard (s : State) (q : Nat) : State :=
  let x := s.quad q
  let pos := match x.shadow with
    | some y => if imgPaired y.bytes then some (q / 4 * 4 + imgPairPos y.bytes % 4) else none
    | none => match s.loaderOf q with
      | some m => some m
      | none => x.loading.bind fun l => (pairIn q l.2).map (·.1)
  let t := s.setShadow q 0 none
  match pos with
  | some p => t.setShadow p 0 none
  | none => t

def execSectionDiscard (q : Fin 32) (o : Orig) (v : Lane) (s : State) : Out :=
  .next (s.guardQuad o q (quadBlock q + 0x600) fun s => if vbit v 29 then s.discard q else s)

/-! ## Commit checks (Table 56) -/

/-- A quadrant is idle (R212): no command in progress, nothing running, no install. -/
def State.idle (s : State) (q : Nat) : Bool :=
  !(s.quad q).inProgress && !(s.quad q).working && !s.on (F.seqFnCtl_busy q)

/-- Equal count source of two LOOP steps (R176): both take the count field, with one value, or both the same shape register;
the bound of a shape register may differ (DEDUCED, log entry 92). -/
def countAlike (a b : Step) : Bool :=
  Step.countSrc a == Step.countSrc b &&
    if Step.countSrc a then decide (Step.loopShreg a = Step.loopShreg b) else decide (Step.count a = Step.count b)

/-- R176 for the images of quadrants lo and hi, lo the lower-numbered. -/
def pairedOk (lo hi : List Byte) : Bool :=
  imgNsteps lo = imgNsteps hi && (stepList lo).all fun i =>
    let a := secStep lo i
    let b := secStep hi i
    let same := fun (op : Nat) => decide (Step.op a = op) == decide (Step.op b = op)
    Step.dur a = Step.dur b && same 0x02 && same 0x03 && same 0x0B &&
      (Step.op a ≠ 0x02 || (Step.target a = Step.target b && Step.level a = Step.level b && countAlike a b)) &&
      (Step.op a ≠ 0x0B || Step.entry a = Step.entry b) &&
      (let writes := fun (t : List Byte) (r : Nat) => (stepList t).any (fun j =>
          decide (Step.op (secStep t j) = 0x13) && decide (Step.shreg (secStep t j) = r));
        (Step.op a ≠ 0x02 || !Step.countSrc a ||
          (writes lo (Step.loopShreg a) && !writes hi (Step.loopShreg a))))

/-- Share word fields: (limit on a D-facet, on a W-facet, word, high bit, low bit). -/
def shareFields : List (Nat × Nat × Nat × Nat × Nat) :=
  [(144, 240, 0, 7, 0), (64, 64, 0, 15, 8), (144, 240, 1, 7, 0), (64, 64, 1, 15, 8), (64, 64, 2, 7, 0)]

def shareWord (b : List Byte) (k : Nat) : Nat := byteField b (0x34 + 4 * k) 4

/-- What a section reserves in a field, each pool counted once (R278). -/
def shareOf (all : List (Nat × List Byte)) (q : Nat) (b : List Byte) (k hi lo : Nat) : Nat :=
  let w := shareWord b k
  let p := q / 4 * 4 + bits w 30 29
  if bit w 31 && decide (p < q) && all.any fun e => decide (e.1 = p) && bit (shareWord e.2 k) 31 then 0 else bits w hi lo

/-- A pool that a section forms agrees with its partner's section, base even (R278, R279). A partner with no section
committed refuses nothing; a pool with itself or, for a locked pair, with a third quadrant is none (DEDUCED, log entry 93). -/
def poolOk (all : List (Nat × List Byte)) (q : Nat) (b : List Byte) (k : Nat) : Bool :=
  let w := shareWord b k
  if !bit w 31 then true
  else
    let pos := bits w 30 29
    let p := q / 4 * 4 + pos
    (!imgPaired b || imgPairPos b = pos) && p ≠ q &&
      all.all fun e => e.1 ≠ p || (let v := shareWord e.2 k
        (k = 2 || bits w 0 0 = 0) && bit v 31 && bits v 30 29 = q % 4 && bits v 28 0 = bits w 28 0)

/-- Check 6 of Table 56 for the sections of a facet as they would be (R279). -/
def sharesOk (all : List (Nat × List Byte)) (mine : List Nat) : Bool :=
  (shareFields.all fun f =>
    decide ((all.foldl (fun n e => n + shareOf all e.1 e.2 f.2.2.1 f.2.2.2.1 f.2.2.2.2) 0)
      ≤ if all.any fun e => isW e.1 then f.2.1 else f.1)) &&
  all.all fun e => !mine.contains e.1 || [0, 1, 2].all fun k => poolOk all e.1 e.2 k

/-- Sections committed in the facet of q once the given shadows are. -/
def State.facetSections (s : State) (q : Nat) (new : List (Nat × List Byte)) : List (Nat × List Byte) :=
  (List.range 4).filterMap fun i =>
    let p := q / 4 * 4 + i
    match new.find? fun e => decide (e.1 = p) with
    | some e => some e
    | none => (s.quad p).committed.map fun x => (p, x.bytes)

/-- Checks 3 to 6 of Table 56: code and number of the first that fails. `ready p` says that the partner can commit; `also` are
images that other quadrants commit in the same fc. -/
def State.commitCheckWith (s : State) (q : Nat) (ready : Nat → Bool) (also : List (Nat × List Byte)) : Option (Nat × Nat) :=
  match (s.quad q).shadow with
  | none => some (0x2018, 1)
  | some x =>
    let p := q / 4 * 4 + imgPairPos x.bytes
    let other := (s.quad p).shadow
    let pairBad := imgPaired x.bytes && !(
      [0, 1, 2, 3].any (fun b => decide (neighbour q b = some p)) && decide (s.get (F.seqSecStat_shadow p) = 2) &&
        ready p && match other with
          | some y => imgPaired y.bytes && imgPairPos y.bytes = q % 4 && y.addr = imgPartner x.bytes &&
              x.addr = imgPartner y.bytes && (if q < p then pairedOk x.bytes y.bytes else pairedOk y.bytes x.bytes)
          | none => false)
    if pairBad then some (0x2020, 3)
    else
      let new := (q, x) :: if imgPaired x.bytes then (match other with | some y => [(p, y)] | none => []) else []
      let fnBad := new.any fun e =>
        let slots := (List.range 32).filter fun n => bit (imgFnUsed e.2.bytes) n
        (List.range slots.length).any fun i =>
          let d := fnDigest (s.quad e.1).fnStore (slots.getD i 0)
          d = 0 || d ≠ secFnDigest e.2.bytes i
      let pinBad := new.any fun e => e.2.pins.any fun r =>
        let n := s.page r.1
        !(n.valid && n.tier = Pte.tier r.2 && n.frameField = Pte.frameField r.2 && n.part = Pte.part r.2)
      if fnBad then some (0x20F1, 4)
      else if pinBad then some (0x2021, 5)
      else if !sharesOk (s.facetSections q (new.map (fun e => (e.1, e.2.bytes)) ++ also)) (new.map (·.1)) then some (0x2022, 6)
      else none

def State.commitCheck (s : State) (q : Nat) (ready : Nat → Bool) : Option (Nat × Nat) := s.commitCheckWith q ready []

/-! ## The commit (R213) -/

/-- Prisms and sectors take the reset values of segment 6; SRAM, scalar broadcasts and spare rows stay. -/
def resetUnits (q : Nat) (b : List Byte) (l : Lattice) : Lattice :=
  let l1 := (prismSites q).foldl (fun (m : Lattice) st =>
    let rf := (List.range 16).foldl (fun (r : NMap (List Lane)) k =>
      nset r zeroWord k ((List.range 64).map fun i => secPrismReset q b st k i)) []
    let old := m.prism st
    m.setPrism st { Prism.init with rf := rf, bcast := old.bcast, bcastPoison := old.bcastPoison }) l
  (sectorSites q).foldl (fun (m : Lattice) st =>
    let old := m.sector st
    let regs := (List.range 16).foldl (fun (r : NMap Lane) k => nset r 0 k (secSectorReset q b st k)) []
    m.setSector st { old with
      regs := regs, regPoison := [], basePoison := [], base0 := secSectorReset q b st 16, base1 := secSectorReset q b st 17
      basePend := [], ldPend := [], runs := [], prog := none, writes := [] }) l1

/-- Edge queues are emptied, each item counted as discarded. -/
def Quad.emptyEdges (x : Quad) (q : Nat) : Quad :=
  let y := x.lat.edgeQ.foldl (fun (z : Quad) e => z.countSat (F.latEqStat_discarded q (e.1 / 64)) e.2.length) x
  { y with lat := { y.lat with edgeQ := [], edgeOver := [] } }

/-- Loop counters of every command become inactive. -/
def Quad.clearLoops (x : Quad) : Quad :=
  (List.range 8).foldl (fun (y : Quad) n =>
    match (y.slot n).cmd with
    | some c => y.setSlot n { y.slot n with cmd := some { c with loops := [] } }
    | none => y) x

/-- The peer table bound at commit (R448): package and present admission of each entry, 0 where it is not admitted. -/
def State.bindPeers (s : State) (b : List Byte) : List (Nat × Nat) :=
  (List.range (imgNpeer b)).map fun i =>
    let p := secPeer b i 8 % 4096
    (p, (s.peerOf p).adm)

/-- The commit of one quadrant. The former section becomes the shadow, with its pins (R213, R251). -/
def State.commitOne (s : State) (q : Nat) : State :=
  match (s.quad q).shadow with
  | none => s
  | some x =>
    let s1 := if x.held then s else x.pages.foldl (fun t p => t.pinPage p true) s
    let y := (s1.quad q).emptyEdges q
    let z := { y.clearLoops with
      committed := some { x with held := true, peers := s.bindPeers x.bytes, seams := s.get F.ecuSeam_retired }
      shadow := y.committed.map fun o => { o with patched := y.patched }, loading := none
      patched := x.patched, chanArr := [], chanRcp := [], digQueue := []
      lat := resetUnits q x.bytes { y.lat with route := none, flight := [], drains := [] } }
    let st := match y.committed with | some _ => 2 | none => 0
    let s2 := (s1.setQuad q z).set (F.seqSecStat_shadow q) st
    let s3 := s2.set (F.seqSecShadowId_shadow_id q) (match y.committed with | some o => imgSectionId o.bytes | none => 0)
    let s4 := (s3.set (F.seqSecId_active_id q) (imgSectionId x.bytes)).set (F.seqSecStat_committed q) 1
    ((s4.set (F.seqSecStat_paired q) (if imgPaired x.bytes then 1 else 0)).inc (F.seqSecStat_commits q) 1).set
      (F.seqDigStat_queued q) 0

/-- The successor of a section just committed starts to load, unless the shadow holds it (R211) or the load of its pair image
reads it already. R204's refusals hold. -/
def State.startSuccessor (s : State) (q : Nat) : State :=
  match (s.quad q).committed with
  | none => s
  | some x =>
    let a := imgSuccessor x.bytes
    let there := ((s.quad q).shadow.map (·.addr)) = some a ∨ ((s.quad q).loading.map (·.1)) = some a
    if !imgHasSuccessor x.bytes ∨ there then s else s.loadFrom q a

/-- A section that leaves by a swap of the partner's commit or by a fence cancels nothing here; descriptors waiting for
another section are cancelled with SEQ:0x0A5 (R424). -/
def State.cancelWaiting (s : State) (q : Nat) : State :=
  let waits := fun (d : Option Desc) => match d with
    | some x => !x.remote && x.quad = q && match x.waitFor with
        | some id => decide (id ≠ s.get (F.seqSecId_active_id q))
        | none => false
    | none => false
  (List.range 32).foldl (fun (t : State) k =>
    let l := (t.quad k).descs.filter fun e => waits e.2
    l.foldl (fun (u : State) e =>
      match e.2 with
      | some d => ((u.postQuad 0x20A5 clsR k (some d.slot) none q).modQuad k fun y => y.setDesc e.1 none).finish k d.slot
          0x20A5 0
      | none => u) t) s

/-- The quadrants that a commit written for, or reached by, the quadrants given takes with it: the partner of a paired image
as well (R213). -/
def State.committing (s : State) (qs : List Nat) : List Nat :=
  dedup (qs.flatMap fun q => match (s.quad q).shadow with
    | some x => if imgPaired x.bytes then [q, q / 4 * 4 + imgPairPos x.bytes] else [q]
    | none => [])

/-- The commit of quadrants, and of the partners of paired images, in one fc (R213). -/
def State.commitAll (s : State) (qs : List Nat) : State :=
  let l := s.committing qs
  l.foldl State.startSuccessor (l.foldl State.cancelWaiting (l.foldl State.commitOne s))

/-- HOST_COMMIT (R212, R214). -/
def State.hostCommit (s : State) (q : Nat) : State :=
  let addr := match (s.quad q).shadow with | some x => x.addr | none => 0
  let bad := if s.get (F.seqSecStat_shadow q) ≠ 2 then some (0x2018, 1)
    else if !s.idle q then some (0x2018, 2)
    else s.commitCheck q s.idle
  match bad with
  | some e => s.secRefuse q e.1 clsN e.2 addr noStep none
  | none => s.commitAll [q]

/-- Whether a function install holds a commit of quadrant q: its own, or its partner's where the shadow is paired (R145). -/
def State.commitHeld (s : State) (q : Nat) : Bool :=
  s.on (F.seqFnCtl_busy q) || match (s.quad q).shadow with
    | some x => imgPaired x.bytes && s.on (F.seqFnCtl_busy (q / 4 * 4 + imgPairPos x.bytes))
    | none => false

/-- HOST_COMMIT (R212). A commit waits for a function install to end (R145). -/
def execHostCommit (q : Fin 32) (o : Orig) (v : Lane) (s : State) : Out :=
  .next (s.guardQuad o q (quadBlock q + 0x600) fun s =>
    if !vbit v 30 then s
    else if s.commitHeld q then s.defer q (.hostCommit q o v)
    else s.hostCommit q)

end Sys2Proof.Machine
end

