-- ==== Sys2Proof/Machine/Seq.lean ====
section
/-! DEFINITION. The sequencer (chapter 5): starting a command, running a step, holding at a gate, the slot wheel
(R411 to R417), and the meanings of RUN, LOOP, END, SEND, WADV, DMARK, SHRD, the gates, RECV, BARRIER and SSW. -/

namespace Sys2Proof.Machine

/-! ## Accounting of fc (R182, R427, R428) -/

/-- Add to a live counter of the context bound to slot n. -/
def State.acctAdd (s : State) (q n k v : Nat) : State :=
  match s.ctxOf q n with
  | some c => { s with acct := { s.acct with live := nmod s.acct.live 0 (c * 16 + k) fun x => (x + v) % 2 ^ 64 } }
  | none => s

/-- fc of slot n count in the epoch's energy attribution to its context, or to none (R429). -/
def State.epochAdd (s : State) (q n v : Nat) : State :=
  { s with acct := { s.acct with fc := nmod s.acct.fc 0 (q * 128 + (s.ctxOf q n).getD 64) (· + v) } }

/-- Clock step of a facet in force; before ready, facet clocks run only at step 0 (R545). -/
def State.stepOn (s : State) (f : Nat) : Nat := if s.on F.mgtStartStat_ready then nget s.mgmt.step 0x30 f else 0

/-- fc in a µs of a facet's clock (R524). -/
def State.fcPerUs (s : State) (f : Nat) : Nat := 400 + 25 * s.stepOn f

/-- `v` fc held under counter index k by slot n (R93, R182): the base port's transfers go on (R83). -/
def State.addHeld (s : State) (q n k v : Nat) (b : Option Nat) : State :=
  let x := ((s.quad q).countFc q v true).count (F.seqGateHold_held q n k) v
  let y := match b with | some e => x.count (F.latEqStarve_count q e) v | none => x
  (((s.setQuad q y).acctAdd q n 3 v).epochAdd q n v).heldPorts q v

/-- A gated step is passed under index k (R182). -/
def State.countPass (s : State) (q n k : Nat) : State :=
  s.modQuad q fun x => x.count (F.seqGateStat_passes q n k) 1

/-! ## Starting work -/

/-- The quadrants that step together: one, or a locked pair, the lower first (R177). -/
def State.together (s : State) (q : Nat) : List Nat :=
  match s.partner q with
  | some p => if q < p then [q, p] else [p, q]
  | none => [q]

/-- The command in progress of a slot. -/
def State.cmdOf (s : State) (q n : Nat) : Option Cmd := ((s.quad q).slot n).cmd

def State.modCmd (s : State) (q n : Nat) (f : Cmd → Cmd) : State :=
  s.modQuad q fun x =>
    let sl := x.slot n
    match sl.cmd with
    | some c => x.setSlot n { sl with cmd := some (f c) }
    | none => x

/-- The present step of slot n. -/
def State.stepOf (s : State) (q n : Nat) : Step := secStep (s.image q) (s.get (F.seqPc_step q n))

/-- Shape register i of slot n. -/
def State.shapeOf (s : State) (q n i : Nat) : Nat := s.get (F.seqShape_value q n i)

/-- Groups of which quadrant q is a consumer lose their count when its command starts (R380). -/
def State.zeroCounts (s : State) (q : Nat) : State :=
  { s with req := { s.req with groups := nmapv s.req.groups Group.init fun x => { x with counts := nset x.counts 0 q 0 } } }

/-- Whether the section has a BARRIER whose window, in slot n, is on binding b: a command is bound when it passes it, and at
its start where there is none (R313). -/
def State.hasBarrier (s : State) (q n b : Nat) : Bool :=
  let img := s.image q
  (stepList img).any fun i =>
    let w := secStep img i
    decide (Step.op w = 0x0A) && decide (s.get (F.ingWinCfg_binding (winEntry q n (Step.binding w))) = b)

/-- Whether a flag of slot n is set whose stop bit is 1 (R125). -/
def State.flagStop (s : State) (q n : Nat) : Bool :=
  decide (Nat.land (s.get (F.seqNflag_stop q n)) (s.get (F.seqNflag_flags q n)) ≠ 0)

/-- Take a queue entry as the command of slot n (R153, R163, R164, R312, R313, R338, R411). A stop enabled for a flag already
set is raised for it, and takes effect at its first step boundary (R125). Resource overflows are raised anew (R220). -/
def State.startCmd (s : State) (q n : Nat) : State :=
  let x := s.quad q
  let sl := x.slot n
  match sl.queue with
  | [] => s
  | e :: r =>
    let wins := (List.range 8).foldl (fun (m : NMap (Option Win)) w => nset m none w (s.winTake (winEntry q n w))) []
    let vers := wins.foldl (fun (m : NMap Nat) w => match w.2 with
      | some v => if s.hasBarrier q n v.bind then m else nset m 0 v.bind (s.get (F.ingBindStat_version v.bind))
      | none => m) []
    let c : Cmd := { tag := bits e 47 32, irq := bit e 31, loops := [], hold := none,
                     ending := if s.flagStop q n then some (endingOf 0x20E0 true) else none, fault := none, versions := vers,
                     windows := wins, groups := [], run := 0, passed := none }
    let y := { x with lat := { x.lat with overflowed := [] } }
    let s1 := s.setQuad q (y.setSlot n { cmd := some c, queue := r, low := sl.low, digD := 0, digN := 0, digPoison := false })
    let s2 := (s1.set (F.seqCqStat_queued q n) r.length).set (F.seqPc_step q n) (bits e 13 0)
    let s3 := (List.range 8).foldl (fun t i => t.set (F.seqShape_value q n i) 0) (s2.set (F.seqPc_active q n) 1)
    let s4 := (List.range 8).foldl (fun t w =>
      (t.set (F.ingWinPos_active (winEntry q n w)) 1).set (F.ingWinPos_pos (winEntry q n w))
        (t.get (F.ingWinCfg_first (winEntry q n w)))) s3
    wins.foldl (fun t w => match w.2 with
      | some v => t.requestLayers (winEntry q n w.1) v v.pos v.size
      | none => t) (if s.flagStop q n then (s4.zeroCounts q).postQuad 0x20E0 clsR q (some n)
        (some (s.get (F.seqNflag_first_site q n))) (seqArg (bits e 13 0) 0) else s4.zeroCounts q)

/-- The bits of descriptor i of a quadrant, patches included (R390). -/
def State.descBits (s : State) (q i : Nat) : Nat := nget (s.quad q).patched (secDesc (s.image q) i) i

/-- Whether a descriptor is timed (R162, R252, R270): its sector end is space 1 with address 0, each of its elements is whole
words of the base tier, and every page it reaches is pinned in the base tier of the quadrant's facet. -/
def State.isTimed (s : State) (q d : Nat) (transfer : Bool) : Bool :=
  let fill := descSrcSpace d = 0 && descDstSpace d = 1 && descDst d = 0
  let drain := descSrcSpace d = 1 && descDstSpace d = 0 && descSrc d = 0
  transfer && (fill || drain) && descElem d % 256 = 0 &&
    match (s.quad q).committed with
    | none => false
    | some sec => (List.range (descPositions d)).all fun p =>
        (fill && descPadded d p) ||
          (let a := if fill then descSrcAddr d p else descDstAddr d p
           a % 256 = 0 && sec.pinsRange a (descElem d) &&
            (let e := s.page (a / 2 ^ 21)
             let z := s.page ((a + descElem d - 1) / 2 ^ 21)
             e.tier = 0 && e.unit = q / 4 && z.tier = 0 && z.unit = q / 4))

/-- Lowest free descriptor slot of a quadrant's 112 (R261); a timed descriptor holds one too. -/
def Quad.freeDesc (x : Quad) : Option Nat :=
  (List.range 112).find? fun i => (x.desc i).isNone && !x.timed.any fun t => decide (t.place = i)

/-- section_id of a quadrant's occupant: committed, or saved while the quadrant is empty (R424). -/
def State.occupantId (s : State) (q : Nat) : Nat :=
  let x := s.quad q
  if x.committed.isSome then s.get (F.seqSecId_active_id q)
  else match x.areas.findSome? fun a => a.2 with
    | some v => imgSectionId v.sectionOf.bytes
    | none => 0

/-- Package of entry i of the committed section's peer table (R331, R448). -/
def State.rankOf (s : State) (q i : Nat) : Nat := secPeer (s.image q) i 8 % 4096

/-- Whether entry i of the committed section's peer table is bound to a lost peer (R448). -/
def State.entryLost (s : State) (q i : Nat) : Bool :=
  match (s.quad q).committed with
  | some x => match x.peers[i]? with
    | some e => s.peerLost e
    | none => true
  | none => true

/-- Start descriptor i for slot n (R162, R166, R261, R262); `send` gives the channel, remote flag, receiver and package. -/
def State.startDesc (s : State) (q n i : Nat) (transfer : Bool) (send : Option (Nat × Bool × Nat × Nat)) : State :=
  let d := s.descBits q i
  let emits := match s.cmdOf q n with | some c => s.emitFor q c (descTag d) | none => []
  match (s.quad q).freeDesc with
  | none => (s.resourceFault 0x2040 q n 0x12 none).causeEnd q n 0x2040 true
  | some k =>
    if send.isNone && s.isTimed q d transfer then
      s.modQuad q fun x => { x with timed := x.timed ++ [⟨d, n, i, k, x.lat.fc, 0, emits⟩] }
    else
      let e : Desc := match send with
        | some (ch, rem, rq, pk) => ⟨d, n, i, rem, some ch, rq, s.rankOf q pk, 0, false,
            if rem then none else some (s.occupantId rq), s.chord.nextUid, 0, 0, [], emits⟩
        | none => ⟨d, n, i, false, none, q, 0, 0, false, none, s.chord.nextUid, 0, 0, [], emits⟩
      { s with chord := { s.chord with nextUid := s.chord.nextUid + 1 } }.modQuad q fun x => x.setDesc k (some e)

/-- DMARK (R168, R339, R340): close the interval of slot n, post its entry, open a new one. -/
def State.dmark (s : State) (q n layer point : Nat) : State :=
  let x := s.quad q
  let sl := x.slot n
  let c := match sl.cmd with | some c => c.run | none => 0
  let fl := (if sl.digPoison then 1 else 0) + if (s.partner q).isSome then 2 else 0
  let b := leBytes 8 sl.digD.toNat ++ leBytes 4 sl.digN ++ leBytes 2 layer ++ leBytes 1 point ++ leBytes 1 fl
    ++ leBytes 4 (s.shapeOf q n 7) ++ leBytes 4 (s.get (F.seqSecId_active_id q)) ++ leBytes 4 (min c 0xFFFFFFFF)
    ++ leBytes 1 (q % 32 + n % 8 * 32) ++ leBytes 1 (s.get F.mgtGeom_geom) ++ leBytes 2 x.digSeq
  let s1 := s.setQuad q (x.setSlot n { sl with digD := 0, digN := 0, digPoison := false })
  if !s.on (F.seqDigCfg_en q) then s1
  else if 64 ≤ x.digQueue.length then (s1.resourceFault 0x2040 q n 0x13 none).causeEnd q n 0x2040 true
  else (s1.modQuad q fun y => { y with digQueue := y.digQueue ++ [⟨b⟩], digSeq := (y.digSeq + 1) % 65536 }).set
    (F.seqDigStat_queued q) (x.digQueue.length + 1)

/-- A shape value reaches its register: in every quadrant given, with its bounds checked (R164, R176). -/
def State.shapeValue (s : State) (q n : Nat) (w : Step) (v : Nat) (qs : List Nat) : State :=
  let s1 := qs.foldl (fun t k => t.set (F.seqShape_value k n (Step.shreg w)) v) s
  if v < Step.lo w ∨ Step.hi w < v then
    (s1.postQuad 0x2050 clsR q (some n) none (seqArg (s.get (F.seqPc_step q n)) (Step.shreg w))).causeEnd q n 0x2050 false
  else s1

/-- SHRD (R164): the word is read in the step's first fc; an error ends the command at the end of the step. -/
def State.shrd (s : State) (q n : Nat) (w : Step) (qs : List Nat) : State :=
  let step := s.get (F.seqPc_step q n)
  if !Step.src w then
    let site := bits w 67 60
    let x := s.quad q
    let sec := x.lat.sector site
    let word := bits w 59 48
    let x1 := x.count (F.latPArray_count q site) 1
    let x2 := x1.countCorr q site (sec.corrected word)
    if sec.isBad word then (((s.setQuad q (x2.countSat (F.latErrCnt_uncorrectable q) 1)).postQuad 0x1011 clsR q (some n)
      (some site) (seqArg step 0)).causeEnd q n 0x1011 false)
    else (s.setQuad q x2).shapeValue q n w (sec.laneOf word (bits w 47 42)).toNat qs
  else
    let a := Step.address w * 4
    let u := q / 4
    let fr := a / 2 ^ 21
    let pins := match (s.quad q).committed with | some sec => sec.pins | none => []
    let here := fun (e : Pte) => e.valid && decide (e.unit = u) && decide (e.frame = fr)
    match pins.find? fun p => here p.2 with
    | some p =>
      if some (Pte.part p.2) ≠ s.slotPart q n then
        (s.postQuad 0x6031 clsR q (some n) none (p.1 * 2 ^ 21 + a % 2 ^ 21)).causeEnd q n 0x6031 false
      else if s.wordBad u fr (a % 2 ^ 21) then
        (s.post ⟨0x3011, clsR, u, s.slotPart q n, some q, some n, some u, 0,
          fr * 2 ^ 21 + a % 2 ^ 21 / 256 * 256⟩).causeEnd q n 0x3011 false
      else (s.countCorr (p.1 * 2 ^ 21 + a % 2 ^ 21) 4).shapeValue q n w
        (leNat ((List.range 4).map fun i => s.frameByte u fr (a % 2 ^ 21 + i) (Pte.part p.2))) qs
    | none =>
      match s.pages.find? fun e => here e.2 && decide (some (Pte.part e.2) ≠ s.slotPart q n) with
      | some e => (s.postQuad 0x6031 clsR q (some n) none (e.1 * 2 ^ 21 + a % 2 ^ 21)).causeEnd q n 0x6031 false
      | none => (s.postQuad 0x6030 clsR q (some n) none 0).causeEnd q n 0x6030 false

/-- The chains of every unit start (R158, R160, R185, R191, R193). -/
def startUnits (q : Nat) (img : List Byte) (w : Step) (n : Nat) (l : Lattice) : Lattice :=
  let t := l.fc
  let l1 := if Step.uop w = 0x1FF then l else (prismSites q).foldl (fun (m : Lattice) st =>
    let code := secUop q img st
    match uopChain code 16 (Step.uop w) with
    | none => m
    | some [] => m
    | some us =>
      let p := m.prism st
      m.setPrism st { p with firings := p.firings ++ us.map fun u =>
        ⟨code u, n, t + Uop.start (code u), Uop.count (code u), Uop.period (code u), 0⟩ }) l
  let l2 := if !Step.agEn w then l1 else (sectorSites q).foldl (fun (m : Lattice) st =>
    let runs := [0, 1].flatMap fun g =>
      let code := secAg q img st g
      match agChain code 16 (Step.ag w) with
      | some es => (es.filter fun e => AgEntry.mode (code e) ≠ 0).map fun e =>
          (⟨g, code e, n, t, t + AgEntry.start (code e), 0, 0, 0, 0⟩ : AgRun)
      | none => []
    if runs.isEmpty then m else
      let x := m.sector st
      m.setSector st { x with runs := x.runs ++ runs }) l1
  (sectorSites q).foldl (fun (m : Lattice) st =>
    let x := m.sector st
    if Step.salEn w ∧ salOp (secSal q img st (Step.sal w)) ≠ 0 then
      m.setSector st { x with prog := some ⟨Step.sal w, t, none, n, t + Step.dur w⟩ }
    else if x.prog.isSome then m.setSector st { x with prog := none } else m) l2

/-- Offset 0 of the step of slot n in quadrant q: route, unit programs, and what the opcode does there. -/
def State.beginStep (s : State) (qs : List Nat) (n q : Nat) : State :=
  let w := s.stepOf q n
  let img := s.image q
  let transfer := isTransfer q img w
  let s1 := s.modQuad q fun x =>
    { x with lat := startUnits q img w n { x.lat with route := if Step.op w = 0x0B then none else some (Step.route w) } }
  match Step.op w with
  | 0x01 => if Step.descEn w then s1.startDesc q n (Step.runDesc w) transfer none else s1
  | 0x10 => if Step.remote w && s1.entryLost q (Step.peer w) then s1.causeEnd q n 0x9030 false
    else s1.startDesc q n (Step.sendDesc w) false (some (Step.channel w, Step.remote w, Step.quadrant w, Step.peer w))
  | 0x11 => s1.advanceWindow q n (Step.window w) (Step.layers w)
  | 0x12 => s1.dmark q n (Step.layer w) (Step.point w)
  | 0x13 => s1.shrd q n w (if qs.head? = some q then qs else [q])
  | _ => s1

/-! ## The end of a step -/

/-- The next step begins, or the table is overrun (R154, R220). -/
def State.goto (s : State) (q n i : Nat) : State :=
  if imgNsteps (s.image q) ≤ i then (s.resourceFault 0x2040 q n 0x10 none).endSlotContext q n 0x2040 0
  else s.set (F.seqPc_step q n) i

/-- The end of a LOOP step (R163, R164). -/
def State.loopEnd (s : State) (q n : Nat) (w : Step) (c : Cmd) : State :=
  let i := s.get (F.seqPc_step q n)
  let v := s.shapeOf q n (Step.loopShreg w)
  if Step.countSrc w && (v = 0 || decide (Step.count w < v)) then
    (s.postQuad 0x2050 clsR q (some n) none (seqArg i (Step.loopShreg w))).finish q n 0x2050 0
  else
    let k := nget c.loops 0 (Step.level w)
    let left := (if k = 0 then (if Step.countSrc w then v else Step.count w) else k) - 1
    let s1 := s.modCmd q n fun d => { d with loops := nset d.loops 0 (Step.level w) left }
    s1.goto q n (if 0 < left then Step.target w else i + 1)

/-- The end of a step of slot n in quadrant q with no cause waiting, but for an SSW, which goes on in the new table. -/
def State.endStep (s : State) (n : Nat) (q : Nat) : State :=
  match s.cmdOf q n with
  | none => s
  | some c =>
    let w := s.stepOf q n
    match Step.op w with
    | 0x02 => s.loopEnd q n w c
    | 0x03 => s.finish q n 0 0
    | _ => s.goto q n (s.get (F.seqPc_step q n) + 1)

/-- The causes waiting for the end of the step of slot n (R560). -/
def State.endings (s : State) (qs : List Nat) (n : Nat) : List (Nat × Code × Option Code) :=
  qs.filterMap fun k => ((s.cmdOf k n).bind (·.ending)).map fun e => (k, e)

/-- The end of the step of slot n: a cause that waits in either quadrant of a locked pair ends the command in both (R177,
R560); else the next step, by the opcode. -/
def State.endSteps (s : State) (qs : List Nat) (n : Nat) (next : State → Nat → State) : State :=
  match s.endings qs n with
  | [] => qs.foldl next s
  | l => l.foldl (fun t e => t.endCmd e.1 n e.2) s

/-- A switch point is reached when no activity is running (R413). -/
def State.markDue (s : State) (qs : List Nat) : State :=
  if qs.any fun q => (s.quad q).working then s
  else qs.foldl (fun t q => t.modQuad q fun x => { x with due := true }) s

/-- The fc of a step that are not held count to its command and context. -/
def State.countRun (s : State) (n d : Nat) (q : Nat) : State :=
  ((s.modCmd q n fun c => { c with run := c.run + d, passed := none }).acctAdd q n 2 d).epochAdd q n d

/-- The steps of slot n of the quadrants run for their dur (R155). An SSW commits at offset 31 under the idle
configuration and its command goes on in the new table (R215). -/
def State.runStep (s : State) (qs : List Nat) (n : Nat) : State :=
  let q := qs.headD 0
  let w := s.stepOf q n
  let d := Step.dur w
  let s1 := qs.foldl (fun t k => t.beginStep qs n k) s
  let entry := Step.entry w
  if Step.op w = 0x0B then
    let s2 := (State.ticks' qs 32 s1).commitAll qs
    let s3 := State.ticks' qs (d - 32) s2
    let s4 := qs.foldl (fun t k => t.countRun n d k) s3
    (s4.endSteps qs n fun t k => match t.cmdOf k n with | some _ => t.goto k n entry | none => t).markDue qs
  else
    let s2 := State.ticks' qs d s1
    let s3 := qs.foldl (fun t k => t.countRun n d k) s2
    (s3.endSteps qs n fun t k => t.endStep n k).markDue qs

/-- Whether quadrant q, with its partner, can take its next step now: committed, a slot in force, no decision due, no install
(R145), and no pre-emption past its switch point (R422). -/
def State.stepping (s : State) (q : Nat) : Option Nat :=
  let x := s.quad q
  let free := (s.together q).all fun k =>
    !s.on (F.seqFnCtl_busy k) && ((s.quad k).pre.isNone || s.get (F.seqPreStat_phase k) = 1)
  if x.committed.isSome && !x.due && !s.on F.ecuStat_halted && free then x.cur else none

/-! ## Gates -/

/-- The index under which quadrant k counts a hold of slot n: its own gate's, or 10 (R177). -/
def State.holdIndex (s : State) (n k : Nat) : Nat := Step.index (s.stepOf k n)

/-- The boundary whose queue a held GATE EDGE waits on. -/
def edgeOf (w : Step) : Option Nat := if Step.op w = 0x08 ∧ Step.kind w = 3 then some (Step.boundary w) else none

/-- What the gate of quadrant k does when it is passed: the items it takes, the mailbox it clears, the receipt or batch
it counts, the version it binds (R172, R169, R180, R313, R380, R390, R557). -/
def State.consume (s : State) (n : Nat) (k : Nat) : State :=
  let w := s.stepOf k n
  if Step.op w = 0x08 then
    match Step.kind w with
    | 3 =>
      let x := s.quad k
      let key := edgeKey (Step.boundary w) (Step.network w) (Step.link w)
      let l := nget x.lat.edgeQ [] key
      let site := edgeSite k (Step.boundary w) (Step.link w)
      let enter := (List.range (Step.items w)).filterMap fun j => (l[j]?).map fun it =>
        (⟨x.lat.fc + j, site, false, Step.network w, Step.boundary w, it⟩ : Flight)
      s.setQuad k { x with lat := { x.lat with
        edgeQ := nset x.lat.edgeQ [] key (l.drop (Step.items w)), flight := x.lat.flight ++ enter } }
    | 4 =>
      let g := Step.group w
      let x := s.group g
      let c := nget x.counts 0 k
      let mine := fun (p : Patch) => decide (p.group = g) && decide (p.batch = c)
      let img := s.image k
      let s1 := s.modQuad k fun y => { y with
        staged := y.staged.filter fun p => !mine p
        patched := (y.staged.filter mine).foldl (fun m p =>
          let d := secDesc img p.desc
          nset m d p.desc (putBits (nget m d p.desc) (if p.dst then 64 else 0) 64 p.addr)) y.patched }
      let emitQ := (s.emitOf x).1
      let late := decide (emitQ = k) && decide (0 < c) && !x.emits.contains (c - 1)
      let bs := x.batches.map fun b => if late && decide (b.n + 1 = c) then { b with emitted := true } else b
      let x1 := { x with counts := nset x.counts 0 k (c + 1), batches := bs }
      let s2 := (s1.setGroup g x1).modCmd k n fun d => { d with groups := if d.groups.contains g then d.groups else d.groups ++ [g] }
      bs.foldl (fun t b => if late && decide (b.n + 1 = c) then
        b.rows.foldl (fun u r => u.retire (r.id.toNat % 65536)) t else t) s2
    | 5 => s.set (F.seqMbox_value k (Step.mailbox w)) 0
    | _ => s
  else if Step.op w = 0x09 then
    let ch := chanKey (Step.remote w) (Step.channel w)
    s.modQuad k fun x => { x with chanRcp := nset x.chanRcp 0 ch ((nget x.chanRcp 0 ch + 1) % 65536) }
  else if Step.op w = 0x0A then
    match s.cmdOf k n with
    | none => s
    | some c =>
      let b := s.barrierBinding k n (Step.binding w) c
      let v := s.get (F.ingBindStat_version b)
      let s1 := s.modCmd k n fun d => { d with versions := nset d.versions 0 b v }
      (s.served k c).foldl (fun t id => match t.named id with
        | some e => if e.version = 0 ∧ imgByte (nget s.req.services [] e.service) 4 = b then
            t.setEntry (id % 65536) { e with version := v } else t
        | none => t) s1
  else s

/-- The hold of slot n in quadrant k has lasted `fc` fc in all: those not yet accounted are counted (R182). -/
def State.holdTo (s : State) (n fc : Nat) (k : Nat) : State :=
  match (s.cmdOf k n).bind (·.hold) with
  | none => s
  | some h => (s.addHeld k n h.kind (fc - h.fc) (edgeOf (s.stepOf k n))).modCmd k n fun c =>
      { c with hold := some { h with fc := max fc h.fc } }

/-- The hold of slot n in quadrant k ends after `fc` fc in all, the step passed. -/
def State.passHold (s : State) (n fc : Nat) (k : Nat) : State :=
  ((s.holdTo n fc k).closeHold k n).countPass k n (s.holdIndex n k)

/-- Timeout limit of a gated step in µs, 0 for none, as for a step that is not gated itself (R174, R179). -/
def State.gateLimit (s : State) (k : Nat) (w : Step) : Nat :=
  if !Step.gated w || Step.tmo w = 0 then 0 else s.get (F.seqGateTmo_limit_us k (Step.tmo w - 1))

/-- A hold begins in quadrant k (R83, R173, R179, R313). -/
def State.beginHold (s : State) (n k : Nat) : State :=
  let w := s.stepOf k n
  let i := s.holdIndex n k
  let s1 := s.modCmd k n fun c => { c with hold := some ⟨i, 0, s.timer, s.gateLimit k w⟩, passed := none }
  let s2 := (s1.set (F.seqPc_held k n) 1).set (F.seqPc_kind k n) i
  if i = 1 then
    match s.cmdOf k n with
    | some c => match s.windowError k n (nget c.windows none (Step.gateWindow w)) (Step.gateLayer w) with
      | some e =>
        let b := match nget c.windows none (Step.gateWindow w) with
          | some v => v.bind
          | none => s.get (F.ingWinCfg_binding (winEntry k n (Step.gateWindow w)))
        s2.post ⟨e, clsN, rimN, s.slotPart k n, some k, some n, none, 0, ingArg b (Step.gateLayer w) 0 0⟩
      | none => s2
    | none => s2
  else s2

/-- Whether slot n of quadrant k is held at a gate. -/
def State.isHeld (s : State) (k n : Nat) : Bool := match s.cmdOf k n with | some c => c.hold.isSome | none => false

/-- The joint condition of slot n (R177). -/
def State.jointReady (s : State) (qs : List Nat) (n : Nat) : Bool :=
  qs.all fun k => match s.cmdOf k n with
    | some c => s.gateReady k n (s.stepOf k n) c
    | none => false

/-- The first error delivered to a gate of slot n: a cause that ends the command under another rule, or one of the gate's
own (R174, R560). -/
def State.jointError (s : State) (qs : List Nat) (n : Nat) : Option (Nat × Code × Option Code) :=
  qs.findSome? fun k => match s.cmdOf k n with
    | some c => (c.ending.or (s.gateError k n (s.stepOf k n) c)).map fun e => (k, e)
    | none => none

/-- An error ends the hold at once (R174, R216): its event, and the end of the command. The refusals of an SSW are logged
again with the step, as they end a command (R464, R559). -/
def State.gateFail (s : State) (n k : Nat) (e : Code × Option Code) : State :=
  let i := s.get (F.seqPc_step k n)
  let w := s.stepOf k n
  let key := edgeKey (Step.boundary w) (Step.network w) (Step.link w)
  let site := edgeSite k (Step.boundary w) (Step.link w)
  let s1 := if e.1 = 0x1040 then (s.resourceFault 0x1040 k n 3 (some site)).modQuad k fun x =>
      { x with lat := { x.lat with edgeOver := x.lat.edgeOver.filter fun y => y != key } }
    else if Step.op w = 0x0B ∧ e.1 ≠ 0x20E0 then
      (s.postQuad e.1.toNat clsR k (some n) none (seqArg i 0)).set (F.seqSecStat_last_refusal k) e.1.toNat
    else s
  s1.endCmd k n e

/-- What ends the command in the fc in which the condition of its gate is sampled true, with its quadrant: an SSW whose
commit the checks of Table 56 refuse (R215, R216), and an edge queue that overflowed with no command in force (R221). -/
def State.passBad (s : State) (qs : List Nat) (n : Nat) : Option (Nat × Code × Option Code) :=
  if Step.op (s.stepOf (qs.headD 0) n) = 0x0B then
    let new := qs.filterMap fun k => (s.quad k).shadow.map fun x => (k, x.bytes)
    match qs.find? fun k => decide (s.get (F.seqSecShadowId_shadow_id k) ≠ Step.sectionId (s.stepOf k n)) with
    | some k => some (k, endingOf 0x2023 false)
    | none => qs.findSome? fun k => (s.commitCheckWith k (fun p => qs.contains p || s.idle p) new).map fun e =>
        (k, endingOf (BitVec.ofNat 16 e.1) false)
  else (qs.find? fun k =>
    let w := s.stepOf k n
    decide (Step.op w = 0x08) && decide (Step.kind w = 3) &&
      (s.quad k).lat.edgeOver.contains (edgeKey (Step.boundary w) (Step.network w) (Step.link w))).map fun k =>
        (k, endingOf 0x1040 true)

/-- The gate is passed: the step runs from its first fc. -/
def State.passGate (s : State) (qs : List Nat) (n : Nat) : State :=
  (qs.foldl (fun t k => t.consume n k) s).runStep qs n

/-- A gated step of quadrant q whose own encoding satisfies `sel` is reached (R173). -/
def State.gate (s : State) (q : Nat) (sel : Step → Bool) : State :=
  match s.stepping q with
  | none => s
  | some n =>
    let qs := s.together q
    if !(qs.all (fun k => (s.cmdOf k n).isSome) && sel (s.stepOf q n) && !qs.any fun k => s.isHeld k n) then s
    else match (s.cmdOf q n).bind (·.passed) with
      | some counted =>
        match s.passBad qs n with
        | some e => s.gateFail n e.1 e.2
        | none =>
          let t := if counted then s else qs.foldl (fun t k => t.countPass k n (s.holdIndex n k)) s
          t.passGate qs n
      | none =>
        if s.jointReady qs n then
          match s.passBad qs n with
          | some e => s.gateFail n e.1 e.2
          | none => (qs.foldl (fun t k => t.countPass k n (s.holdIndex n k)) s).passGate qs n
        else match s.jointError qs n with
          | some e => s.gateFail n e.1 e.2
          | none => qs.foldl (fun t k => t.beginHold n k) s

/-! ## The steps -/

/-- A step with opcode op of quadrant q, and of its partner with it. It is gated when the partner's step is (R155, R177). -/
def State.ungated (s : State) (q op : Nat) : State :=
  match s.stepping q with
  | none => s
  | some n =>
    let qs := s.together q
    let ready := qs.all fun k => (s.cmdOf k n).isSome && !Step.gated (s.stepOf k n)
    if ready then (if Step.op (s.stepOf q n) = op then s.runStep qs n else s)
    else s.gate q fun w => decide (Step.op w = op)

/-- RUN (R162). -/
def execRun (q : Fin 32) (s : State) : Out := .next (s.ungated q 0x01)
/-- LOOP (R163). -/
def execLoop (q : Fin 32) (s : State) : Out := .next (s.ungated q 0x02)
/-- END (R165). -/
def execEndStep (q : Fin 32) (s : State) : Out := .next (s.ungated q 0x03)
/-- WADV (R167). -/
def execWadv (q : Fin 32) (s : State) : Out := .next (s.ungated q 0x11)
/-- DMARK (R168). -/
def execDmark (q : Fin 32) (s : State) : Out := .next (s.ungated q 0x12)
/-- SHRD (R164). -/
def execShrd (q : Fin 32) (s : State) : Out := .next (s.ungated q 0x13)
/-- GATE WEIGHT (R313). -/
def execGateWeight (q : Fin 32) (s : State) : Out := .next (s.gate q fun w => Step.op w = 0x08 && Step.kind w = 1)
/-- GATE STREAM (R273). -/
def execGateStream (q : Fin 32) (s : State) : Out := .next (s.gate q fun w => Step.op w = 0x08 && Step.kind w = 2)
/-- GATE EDGE (R557). -/
def execGateEdge (q : Fin 32) (s : State) : Out := .next (s.gate q fun w => Step.op w = 0x08 && Step.kind w = 3)
/-- GATE REQ (R380). -/
def execGateReq (q : Fin 32) (s : State) : Out := .next (s.gate q fun w => Step.op w = 0x08 && Step.kind w = 4)
/-- GATE HOST (R180). -/
def execGateHost (q : Fin 32) (s : State) : Out := .next (s.gate q fun w => Step.op w = 0x08 && Step.kind w = 5)
/-- RECV (R172). -/
def execRecv (q : Fin 32) (s : State) : Out := .next (s.gate q fun w => Step.op w = 0x09)
/-- BARRIER (R169). -/
def execBarrier (q : Fin 32) (s : State) : Out := .next (s.gate q fun w => Step.op w = 0x0A)
/-- SSW (R170, R215). -/
def execSsw (q : Fin 32) (s : State) : Out := .next (s.gate q fun w => Step.op w = 0x0B)

/-- fc of a hold that the command names, no fewer than are accounted. -/
def State.holdFc (s : State) (q n fc : Nat) : Nat :=
  match s.cmdOf q n with
  | some c => (match c.hold with | some h => max fc h.fc | none => fc)
  | none => fc

/-- GATE_HOLD_END (R173): the condition is sampled true `fc` fc after the hold began, words that the base port moved by then
included, and the step runs from two fc later. -/
def State.holdEnd (s : State) (q fc : Nat) : State :=
  match s.stepping q with
  | none => s
  | some n =>
    let qs := s.together q
    if !s.isHeld q n then s
    else
      let t := qs.foldl (fun t k => t.holdTo n (s.holdFc q n fc) k) s
      match t.jointError qs n with
      | some e => t.gateFail n e.1 e.2
      | none =>
        if t.jointReady qs n then
          match t.passBad qs n with
          | some e => t.gateFail n e.1 e.2
          | none => (qs.foldl (fun u k => u.passHold n (s.holdFc q n fc + 2) k) t).passGate qs n
        else s

def execGateHoldEnd (q : Fin 32) (fc : BitVec 32) (s : State) : Out := .next (s.holdEnd q fc.toNat)

/-- Whether a hold that has lasted `fc` fc has reached its limit (R179): by the reference clock, or by the fc that the command
names, at the facet's present rate (log entry 23). -/
def State.holdOver (s : State) (q fc : Nat) (h : Hold) : Bool :=
  !s.shedding && decide (0 < h.limit) &&
    (decide (25 * h.limit ≤ s.timer - h.since) || decide (h.limit * s.fcPerUs (q / 4) ≤ fc))

/-- GATE_TIMEOUT (R174): SEQ:0x060 names the kind; the command ends without the step. A hold that has not reached its limit goes
on. -/
def State.gateTimeout (s : State) (q fc : Nat) : State :=
  match s.stepping q with
  | none => s
  | some n =>
    match (s.cmdOf q n).bind (·.hold) with
    | none => s
    | some h =>
      let m := s.holdFc q n fc
      if !s.holdOver q m h then s
      else
        let t := (s.together q).foldl (fun t k => t.holdTo n m k) s
        (t.postQuad 0x2060 clsR q (some n) none (seqArg (s.get (F.seqPc_step q n)) h.kind)).finish q n 0x2060 0

def execGateTimeout (q : Fin 32) (fc : BitVec 32) (s : State) : Out := .next (s.gateTimeout q fc.toNat)

/-- What ends a held command is delivered to its gate at once (R174, R216). -/
def State.deliver (s : State) (q : Nat) : State :=
  match (s.quad q).cur with
  | none => s
  | some n =>
    if !s.isHeld q n then s
    else match s.jointError (s.together q) n with
      | some e => s.gateFail n e.1 e.2
      | none => s

/-- SECTION_LOAD_COMPLETE (R205, R207, R216): the load ends, and with it an SSW held for another image. -/
def execSectionLoadComplete (q : Fin 32) (s : State) : Out :=
  .next (([0, 1, 2, 3].map fun i => q.val / 4 * 4 + i).foldl State.deliver (s.loadComplete q))

/-! ## The slot wheel (R411 to R417) -/

/-- SEQ_WHEEL0 and 1 of a quadrant; with no position enabled the wheel acts as at reset (R414). -/
def State.wheelRegs (s : State) (q : Nat) : Nat :=
  let w := s.get (F.seqWheel0_pos0_7 q) + s.get (F.seqWheel1_pos8_15 q) * 2 ^ 32
  if (List.range 16).any fun p => bit w (4 * p + 3) then w else 0xFEDCBA98FEDCBA98

/-- The enabled positions in scan order after the one last used, with their slots (R415). -/
def scan (w last : Nat) : List (Nat × Nat) :=
  ((List.range 16).map fun i => (last + 1 + i) % 16).filterMap fun p =>
    if bit w (4 * p + 3) then some (p, bits w (4 * p + 2) (4 * p)) else none

/-- Whether an entry of slot n can start (R411). -/
def State.canStart (s : State) (q n : Nat) : Bool :=
  let x := s.quad q
  x.committed.isSome && (x.slot n).cmd.isNone && !(x.slot n).queue.isEmpty && !s.on (F.seqFnCtl_busy q) && x.pre.isNone &&
    !s.on F.ecuStat_halted && (s.ctxOf q n).isSome

/-- The state in which slot n has its command: as it is, or with its next entry started. -/
def State.withCmds (s : State) (qs : List Nat) (n : Nat) : State :=
  qs.foldl (fun t k => if (t.cmdOf k n).isSome then t else t.startCmd k n) s

/-- Whether a slot has a command in progress or can start one, in every quadrant that decides (R415, R417). -/
def State.hasWork (s : State) (qs : List Nat) (n : Nat) : Bool :=
  qs.all fun k => (s.cmdOf k n).isSome || s.canStart k n

/-- Whether a slot is ready (R415). -/
def State.slotReady (s : State) (qs : List Nat) (n : Nat) : Bool :=
  s.hasWork qs n && (let t := s.withCmds qs n
    qs.any (fun k => imgNsteps (t.image k) ≤ t.get (F.seqPc_step k n)) || t.jointReady qs n)

/-- Slots at an SSW, or at the gate of a cut in progress: no other slot's step starts (R215, R488). -/
def State.claims (s : State) (q : Nat) : List Nat :=
  (List.range 8).filter fun n => (s.cmdOf q n).isSome &&
    (let w := s.stepOf q n
     Step.op w = 0x0B || (Step.op w = 0x08 && Step.kind w = 5 && s.cutForced q (Step.mailbox w)))

/-- An entry whose start is beyond the table executes no step (R412). -/
def State.startBeyond (s : State) (q n : Nat) : State :=
  if imgNsteps (s.image q) ≤ s.get (F.seqPc_step q n) then
    (s.resourceFault 0x2040 q n 0x10 none).endSlotContext q n 0x2040 0
  else s

/-- Give the quadrants to slot n through position p. -/
def State.giveTo (s : State) (qs : List Nat) (p n : Nat) : State :=
  let t := qs.foldl (fun u k => u.modQuad k fun x => { x with cur := some n, due := false, wheelLast := p }) (s.withCmds qs n)
  qs.foldl (fun u k => u.startBeyond k n) t

/-- A ready slot is selected at a switch point: a gated step is sampled there and has no hold (R173). -/
def State.selectReady (s : State) (qs : List Nat) (p n : Nat) : State :=
  let t := s.giveTo qs p n
  qs.foldl (fun u k => u.modCmd k n fun c =>
    { c with passed := if qs.any (fun j => Step.gated (t.stepOf j n)) then some false else none }) t

/-- The two restart fc of the slot that takes quadrant k (R416): its hold, where its step is gated, or index 11. -/
def State.restartHold (s : State) (n k : Nat) (gated : Bool) : State :=
  let i := if gated then s.holdIndex n k else 11
  let t := ((s.addHeld k n i 2 (if gated then edgeOf (s.stepOf k n) else none)).modQuad k fun x =>
    x.countMax (F.seqGateStat_max k n i) 2).countPass k n i
  (if i = 1 then t.reportHold k n 2 else t).modCmd k n fun c => { c with passed := if gated then some true else none }

/-- A ready slot takes the quadrant from a held one after two restart fc (R416). -/
def State.restart (s : State) (qs : List Nat) (old p n : Nat) : State :=
  let t := qs.foldl (fun u k => u.closeHold k old) s
  let u := t.giveTo qs p n
  let gated := qs.any fun j => Step.gated (u.stepOf j n)
  qs.foldl (fun v k => v.restartHold n k gated) u

/-- The decision of R415 at a switch point. -/
def State.wheelPick (s : State) (q : Nat) : State :=
  let qs := s.together q
  let lead := qs.headD q
  let w := s.wheelRegs lead
  let l := scan w (s.quad lead).wheelLast
  let cl := qs.flatMap s.claims
  let may := fun (e : Nat × Nat) => cl.isEmpty || cl.contains e.2
  let s0 := qs.foldl (fun t k => t.modQuad k fun x => { x with wheel := w }) s
  match l.find? fun e => may e && s.slotReady qs e.2 with
  | some e => s0.selectReady qs e.1 e.2
  | none =>
    match l.find? fun e => may e && qs.all fun k => (s.cmdOf k e.2).isSome with
    | some e => s0.giveTo qs e.1 e.2
    | none => qs.foldl (fun t k => t.modQuad k fun x =>
        { x with cur := none, due := false, lat := { x.lat with route := none } }) s0

/-- fc within which the activities of an ended command are run off before a decision. -/
def quiesceFuel : Nat := 2 ^ 20

/-- WHEEL_DECISION (R415): at a step boundary or in an idle quadrant, or during a hold in which nothing runs, where a ready
slot takes the quadrant (R416); where the scan meets the held slot ready first, GATE_HOLD_END ends its hold. -/
def State.wheelDecision (s : State) (q : Nat) : State :=
  let qs := s.together q
  let x := s.quad q
  if x.committed.isNone || x.pre.isSome || s.on (F.seqFnCtl_busy q) then s
  else match x.cur with
    | none => (State.quiesce qs quiesceFuel s).wheelPick q
    | some n =>
      if x.due then s.wheelPick q
      else if s.isHeld q n && !qs.any (fun k => (s.quad k).working) then
        let w := s.wheelRegs (qs.headD q)
        let cl := qs.flatMap s.claims
        match (scan w (s.quad (qs.headD q)).wheelLast).find? fun e =>
            (cl.isEmpty || cl.contains e.2) && s.slotReady qs e.2 with
        | some e => if e.2 = n then s else s.restart qs n e.1 e.2
        | none => s
      else s

def execWheelDecision (q : Fin 32) (s : State) : Out := .next (s.wheelDecision q)

end Sys2Proof.Machine
end

