-- ==== Sys2Proof/Machine/Transfer.lean ====
section
/-! DEFINITION. What a descriptor's elements touch and move (R266 to R268, R289), errors of the tiers (R254 to R256), and the
work that uses an element of the package (R466). -/

namespace Sys2Proof.Machine

/-! ## Elements -/

/-- The linear position of the indices in the low 120 bits of a progress field (R268, Table 73). -/
def descPosition (d prog : Nat) : Nat :=
  (List.range (descNdim d)).foldr (fun k n => bits prog (24 * k + 23) (24 * k) + dimCount (descDim d k) * n) 0

/-- A fault of one element: code, whether it is on the destination side, address. -/
structure ElemFault where
  code : Nat
  side : Bool
  addr : Nat
  deriving DecidableEq, Repr

/-- Pages that the committed section of a quadrant pins: a transfer of its commands cannot fault on them (R254). -/
def State.pinned (s : State) (q : Nat) : List Nat :=
  match (s.quad q).committed with
  | some x => x.pins.map (·.1)
  | none => []

/-- The first translation fault of `n` bytes at an address, pages of `pins` apart. -/
def State.spanFault (s : State) (pins : List Nat) (addr n : Nat) (part : Option Nat) (wr : Bool) : Option (Nat × Nat) :=
  match s.translateSpan addr n part wr with
  | .ok _ => none
  | .error e =>
    if pins.isEmpty then some e
    else (List.range ((addr + n - 1) / 2 ^ 21 + 1 - addr / 2 ^ 21)).findSome? fun i =>
      let a := max addr ((addr / 2 ^ 21 + i) * 2 ^ 21)
      if pins.contains (a / 2 ^ 21) then none
      else match s.translate a part wr with
        | .ok _ => none
        | .error c => some (c, a)

/-- Translation of the element at position p on its unified-range sides (R254, R289): reads before writes; `command` for a
section descriptor, which alone ro binds (R236), with the pages that its section pins. -/
def State.elemFault (s : State) (pins : List Nat) (d p : Nat) (part : Option Nat) (command : Bool) : Option ElemFault :=
  let src := if descSrcSpace d = 0 && !descPadded d p then
      (s.spanFault pins (descSrcAddr d p) (descElem d) part false).map fun e => (⟨e.1, false, e.2⟩ : ElemFault)
    else none
  src.or (if descDstSpace d = 0 then
    (s.spanFault pins (descDstAddr d p) (descElem d) part command).map fun e => (⟨e.1, true, e.2⟩ : ElemFault)
  else none)

/-- A tier error of the element at position p (R255): poison on the source, a failed unit on either side. -/
def State.elemTier (s : State) (d p : Nat) : Option ElemFault :=
  let src := if descSrcSpace d = 0 && !descPadded d p then
      (s.addrFault (descSrcAddr d p) (descElem d)).map fun c => (⟨c.1, false, c.2⟩ : ElemFault)
    else none
  src.or (if descDstSpace d = 0 then
    match s.addrFault (descDstAddr d p) (descElem d) with
    | some c => if c.1 = 0x3011 ∨ c.1 = 0x4011 ∨ c.1 = 0x5010 then none else some ⟨c.1, true, c.2⟩
    | none => none
  else none)

/-- Bytes of an element that has its source in the unified range or in sectors of quadrant q, or is padded; `host` for a
host source. -/
def State.elemBytes (s : State) (q d p : Nat) (host : List Byte) : List Byte :=
  if descPadded d p then descPadBytes d
  else match descSrcSpace d with
    | 0 => s.bytesAt (descSrcAddr d p) (descElem d)
    | 1 => (List.range (descElem d / 256)).flatMap fun i =>
        let a := descSrcAddr d p + i * 256
        ((s.quad q).lat.sector (bits a 27 20)).wordBytes (bits a 19 8)
    | _ => host

/-- A word of a sector source is read through the base port: counted as read and as drained, and its corrections (R82, R86,
R92). -/
def State.sectorRead (s : State) (q a : Nat) : State :=
  let site := bits a 27 20
  s.modQuad q fun x => ((x.count (F.latPArray_count q site) 1).count (F.latPVnull_count q site) 1).countCorr q site
    ((x.lat.sector site).corrected (bits a 19 8))

/-- Whether the element at position p has to wait (R272): a quadrant whose sectors it reads or writes runs a step. -/
def State.elemWaits (s : State) (q r d p : Nat) : Bool :=
  ((descSrcSpace d = 1 && !descPadded d p) || descDstSpace d = 1) && !(s.quad q).portsFree ||
    descDstSpace d = 2 && !(s.quad r).portsFree

/-- The fault that marks an element whose write waits for a migration, or which waits for the base ports: none, since it is no
fault and its transfer stays in progress. -/
def ElemFault.wait : ElemFault := ⟨0, true, 0⟩

/-- A word of a sector source with an uncorrectable error (R82). -/
def State.elemPoison (s : State) (q d p : Nat) : Option Nat :=
  if descSrcSpace d = 1 && !descPadded d p then
    (List.range (descElem d / 256)).findSome? fun i =>
      let a := descSrcAddr d p + i * 256
      if ((s.quad q).lat.sector (bits a 27 20)).isBad (bits a 19 8) then some (bits a 27 20) else none
  else none

/-- Move the element at position p: its destination is the unified range, sectors of quadrant q (space 1) or of the receiver
r (space 2), or host memory. -/
def State.moveElem (s : State) (q r d p : Nat) (host : List Byte) : State :=
  let b := s.elemBytes q d p host
  let words := List.range (descElem d / 256)
  let s1 := if descPadded d p then s
    else match descSrcSpace d with
      | 0 => s.countCorr (descSrcAddr d p) (descElem d)
      | 1 => words.foldl (fun t i => t.sectorRead q (descSrcAddr d p + i * 256)) s
      | _ => s
  match descDstSpace d with
  | 0 => s1.writeAt (descDstAddr d p) b
  | 3 => s1.hostWrite (descDstAddr d p) b
  | k => words.foldl (fun t i => t.sectorWord (if k = 1 then q else r) (descDstAddr d p + i * 256) ((b.drop (i * 256)).take 256)) s1

/-- Bytes that a context's work moves through a rim in this epoch (R429). -/
def State.rimBytes (s : State) (q n k : Nat) : State :=
  match s.ctxOf q n with
  | some c => { s with acct := { s.acct with bytes := nmod s.acct.bytes 0 c (· + k) } }
  | none => s

/-- Bytes of the elements at positions lo to hi - 1 that reach the far tier. -/
def State.farBytes (s : State) (d lo hi : Nat) : Nat :=
  let far := fun (a : Nat) => let e := s.page (a / 2 ^ 21); e.valid && decide (20 ≤ Pte.unit e)
  ((List.range (hi - lo)).filter fun i =>
    (descSrcSpace d = 0 && !descPadded d (lo + i) && far (descSrcAddr d (lo + i))) ||
      (descDstSpace d = 0 && far (descDstAddr d (lo + i)))).length * descElem d

/-! ## Work that uses an element (R466, R469) -/

/-- Whether an address lies in a frame that `sel` picks. -/
def State.lies (s : State) (sel : Nat → Nat → Bool) (addr : Nat) : Bool :=
  let e := s.page (addr / 2 ^ 21)
  decide (addr < 2 ^ 45) && e.valid && sel e.unit e.frame

/-- Whether a descriptor reaches, from its progress point on, a frame that `sel` picks. -/
def State.descTouches (s : State) (d pos : Nat) (sel : Nat → Nat → Bool) : Bool :=
  let span := fun (a : Nat) => s.lies sel a || s.lies sel (a + descElem d - 1)
  (List.range (descPositions d)).any fun p =>
    decide (pos ≤ p) && ((descDstSpace d = 0 && span (descDstAddr d p)) ||
      (descSrcSpace d = 0 && !descPadded d p && span (descSrcAddr d p)))

/-- Whether the command of slot n of quadrant q uses a frame that `sel` picks: a pinned page, or a descriptor of its in
progress, the timed one included. -/
def State.cmdTouches (s : State) (q n : Nat) (sel : Nat → Nat → Bool) : Bool :=
  let x := s.quad q
  (match x.committed with
    | some sec => sec.pins.any fun p => let e := s.page p.1; e.valid && sel e.unit e.frame
    | none => false) ||
  (x.descs.any fun e => match e.2 with
    | some d => decide (d.slot = n) && s.descTouches d.bits d.pos sel
    | none => false) ||
  x.timed.any fun t => decide (t.slot = n) && s.descTouches t.bits 0 sel

/-- Address of page p of pool k (R386). -/
def State.poolAddr (s : State) (k p : Nat) : Nat :=
  s.get (F.reqPoolBase_addr k) * 256 + p * s.get (F.reqPoolPage_page_units k) * 256

/-- Whether a request's KV pages lie in frames that `sel` picks (R466). -/
def State.reqTouches (s : State) (e : ReqEntry) (sel : Nat → Nat → Bool) : Bool :=
  (List.range (imgByte (nget s.req.services [] e.service) 0xA)).any fun sh =>
    let k := s.poolOf e.service sh
    let size := s.get (F.reqPoolPage_page_units k) * 256
    (nget e.pages [] sh).any fun p =>
      s.lies sel (s.poolAddr k p) || s.lies sel (s.poolAddr k p + size - 1)

/-- Every live request that `sel` picks ends with a code. -/
def State.endRequests (s : State) (code : Nat) (sel : ReqEntry → Bool) : State :=
  (s.req.entries.filter fun e => sel e.2).foldl (fun t e => t.endRequest e.1 code 0 0 0) s

/-- Every command that `sel` picks by quadrant and slot ends with a code and the progress field that `prog` gives. -/
def State.endCommandsAt (s : State) (code : Nat) (sel : Nat → Nat → Bool) (prog : Nat → Nat → Nat) : State :=
  (List.range 32).foldl (fun t q => (List.range 8).foldl (fun u n =>
    if (u.cmdOf q n).isSome && sel q n then u.finish q n code (prog q n) else u) t) s

/-- Every command that `sel` picks by quadrant and slot ends with a code. -/
def State.endCommands (s : State) (code : Nat) (sel : Nat → Nat → Bool) : State := s.endCommandsAt code sel fun _ _ => 0

/-- The progress field of the first transfer of a command that reaches a frame that `sel` picks, 0 where none does (R292). -/
def State.touchProgress (s : State) (q n : Nat) (sel : Nat → Nat → Bool) : Nat :=
  let x := s.quad q
  ((x.descs.findSome? fun e => match e.2 with
    | some d => if d.slot = n ∧ s.descTouches d.bits d.pos sel then some (progressField d.bits 3 d.pos) else none
    | none => none).or (x.timed.findSome? fun t =>
      if t.slot = n ∧ s.descTouches t.bits 0 sel then
        some (progressField t.bits 3 ((t.words - x.timedInFlight t.step) / (descElem t.bits / 256)))
      else none)).getD 0

/-- Work that uses a frame that `sel` picks ends with a code: commands, then requests (R292, R466, R469). -/
def State.endUsers (s : State) (code : Nat) (sel : Nat → Nat → Bool) : State :=
  (s.endCommandsAt code (fun q n => s.cmdTouches q n sel) fun q n => s.touchProgress q n sel).endRequests code
    fun e => s.reqTouches e sel

end Sys2Proof.Machine
end

