-- ==== Sys2Proof/Machine/Pages.lean ====
section
/-! DEFINITION. The page table and its frames (chapter 7): page operations (R238 to R246), migration (R247 to R250), far
ports and dynamic capacity (R231, R255). -/

namespace Sys2Proof.Machine

/-! ## Frames -/

/-- Frames of a unit (R225, R230). -/
def State.unitFrames (s : State) (u : Nat) : Nat :=
  if u < 6 then 1536 else if u < 8 then 3584 else if u < 20 then 24576 else nget s.farFrames 0 (u - 20)

/-- Whether a unit has failed: retired, or a far port whose link is down (R244, R255, R469, R474). -/
def State.unitFailed (s : State) (u : Nat) : Bool :=
  if u < 8 then bit (s.get F.ecuFacet_retired) u
  else if u < 20 then s.on (F.ecuStk_dev_retired (u - 8)) || s.on (F.ecuStk_ch_retired (u - 8))
  else bit s.ecu.farDown (u - 20)

/-- The lowest-numbered free frame of a unit. -/
def State.lowestFree (s : State) (u : Nat) : Option Nat :=
  (List.range (s.unitFrames u)).find? fun f => decide (s.useOf u f = .free)

/-- Stack devices that are being emptied: from below low_water up to low_water + 256 (R249). -/
def State.evicting (s : State) : Nat :=
  let low := s.get F.strMigCtl_low_water
  (List.range 12).foldl (fun n d =>
    let free := s.get (F.strFrameFree_free (8 + d))
    if free < low ∨ (bit s.evict d ∧ free < low + 256) then n + 2 ^ d else n) 0

/-- The devices being emptied follow every change of a free count, of low_water and of auto (R249). -/
def State.evictTrack (s : State) : State := { s with evict := if s.on F.strMigCtl_auto then s.evicting else 0 }

/-- Take a free frame. -/
def State.takeFrame (s : State) (u f : Nat) (x : FrameUse) : State :=
  ((s.setUse u f x).dec (F.strFrameFree_free u) 1).evictTrack

/-- Give a frame back: a withdrawn one is gone (R231), one with a row beyond repair joins the reserved frames (R472). -/
def State.giveFrame (s : State) (u f : Nat) : State :=
  if s.useOf u f = .withdrawn then s.setUse u f .absent
  else if nget s.ecu.badFrames false (frameKey u f) then (s.setUse u f .reserved).dec (F.strFrameFree_total u) 1
  else
    let t := s.setUse u f .free
    if s.unitFailed u then t else (t.inc (F.strFrameFree_free u) 1).evictTrack

/-- Copy a frame's contents for a page of partition p. -/
def State.copyFrame (s : State) (u f u' f' p : Nat) : State :=
  if (s.farKey u p).isSome || (s.farKey u' p).isSome then
    (List.range 8192).foldl (fun t w => t.frameWrite u' f' (w * 256) p (t.frameWord u f w p)) s
  else
    let t := s.zeroFrame u' f'
    let lo := memKey u f 0
    let cells := t.mem.filter fun c => decide (lo ≤ c.1 ∧ c.1 < lo + 2 ^ 21)
    { t with mem := cells.foldl (fun m c => nset m 0 (memKey u' f' (c.1 - lo)) c.2) t.mem }

/-! ## Page operations -/

/-- STR_MAP_ARG as an operation takes it (R241). -/
def State.mapArg (s : State) : Nat :=
  s.get F.strMapArg_count_m1 * 2 ^ 48 + s.get F.strMapArg_tier * 2 ^ 40 + s.get F.strMapArg_place_any * 2 ^ 39
    + s.get F.strMapArg_unit * 2 ^ 34 + s.get F.strMapArg_part * 2 ^ 30 + s.get F.strMapArg_ro * 2 ^ 29
    + s.get F.strMapArg_hint * 2 ^ 27

def MapOp.tier (m : MapOp) : Nat := bits m.arg 41 40
def MapOp.any (m : MapOp) : Bool := bit m.arg 39
def MapOp.unit (m : MapOp) : Nat := bits m.arg 38 34
def MapOp.part (m : MapOp) : Nat := bits m.arg 33 30
def MapOp.ro (m : MapOp) : Nat := bits m.arg 29 29
def MapOp.hint (m : MapOp) : Nat := bits m.arg 28 27

/-- Units of a tier (R237). -/
def tierUnits (t : Nat) : List Nat := (List.range 28).filter fun u => decide (tierOf u = t)

/-- The unit of a list with the most free frames, the lowest-numbered on a tie. -/
def State.mostFree (s : State) (l : List Nat) : Option Nat :=
  l.foldl (fun b u => match b with
    | none => some u
    | some v => if s.get (F.strFrameFree_free v) < s.get (F.strFrameFree_free u) then some u else some v) none

/-- Target unit of an operation and its lowest free frame, or status 0x4 or 0x9 (Table 64). -/
def State.mapTarget (s : State) (m : MapOp) : Except Nat (Nat × Nat) :=
  let u := if m.any then s.mostFree ((tierUnits m.tier).filter fun u => !s.unitFailed u)
    else if s.unitFailed m.unit then none else some m.unit
  match u with
  | none => .error 9
  | some v => match s.lowestFree v with
    | some f => .ok (v, f)
    | none => .error 4

/-- Whether a page is already where a MIGRATE would take it. -/
def MapOp.inTarget (m : MapOp) (e : Pte) : Bool :=
  if m.any then decide (Pte.tier e = m.tier) else decide (Pte.unit e = m.unit)

/-- Status with which an operation fails at its next page, 0 when it can proceed (R244, Table 64). -/
def State.mapCheck (s : State) (m : MapOp) : Nat :=
  let e := s.page m.next
  let foreign := (m.op = 1 && !s.actsFor m.orig m.part) || (e.valid && !s.actsFor m.orig (Pte.part e))
  if foreign then 7
  else if m.op = 1 then
    if e.valid then 2 else match s.mapTarget m with | .error c => c | .ok _ => 0
  else if m.op = 6 then 0
  else if !e.valid then 3
  else if e.mig then 0
  else if m.op = 2 ∨ m.op = 4 then if 0 < Pte.pins e then 5 else 0
  else if m.op = 5 then
    if m.inTarget e then 0
    else if 0 < Pte.pins e ∧ (Pte.tier e = 0 ∨ (if m.any then m.tier else tierOf m.unit) = 0) then 5
    else match s.mapTarget m with | .error c => c | .ok _ => 0
  else 0

/-- The operation ends with a status; STR_MAP_PTE shows the page at which it stopped (R243). -/
def State.mapFinish (s : State) (m : MapOp) (st page : Nat) : State :=
  ((((({ s with mapOp := none } : State).set F.strMapStat_status st).set F.strMapStat_done m.done).set F.strMapStat_busy
    0).set F.strMapPte_pte (s.page page).toNat)

/-- The entry that MAP sets (Table 64). -/
def MapOp.entry (m : MapOp) (u f : Nat) : Pte :=
  ((((((0 : Pte).setFrame u f).put 63 1 1).put 57 4 m.part).put 48 1 m.ro).put 46 2 m.hint).put 41 5 m.unit

/-- Start a migration of a page (R247 step 1). -/
def State.migStart (s : State) (page u f : Nat) (explicit : Bool) : State :=
  let t := (s.takeFrame u f .dest).setPage page ((s.page page).put 49 1 1)
  ({ t with migrations := t.migrations ++ [⟨page, u, f, [], explicit, false⟩] } : State).inc F.strMigStat_inflight 1

/-- Migrations that may be in progress at once (R250). -/
def State.migMax (s : State) : Nat := min 16 (s.get F.strMigCtl_max_inflight)

/-- Whether the copy of the page table on a stack device has an uncorrectable line at the entry of a page (R229, R235). -/
def State.tableBad (s : State) (dev page : Nat) : Bool := s.wordBad (8 + dev) (page * 8 / 2 ^ 21) (page * 8 % 2 ^ 21)

/-- An uncorrectable line of a copy is logged (R229). -/
def State.tableLog (s : State) (dev page : Nat) : State :=
  s.post ⟨0x4011, clsN, unitDie (8 + dev), none, none, none, some (8 + dev), 0, page * 8 / 64 * 64⟩

/-- A read of the table that no copy serves: the package ends (R235, R476), once the operation that reads has answered. -/
def State.tableLostAll (s : State) : State := { s with ecu := { s.ecu with tableFail := true } }

/-- The line of a copy with the entry of a page is read: its correction counts, an uncorrectable line is logged (R229). -/
def State.tableLine (s : State) (dev page : Nat) : State :=
  if s.tableBad dev page then s.tableLog dev page else s.countSpan (8 + dev) (page * 8 / 2 ^ 21) (page * 8 % 2 ^ 21) 8

/-- The read of a page's entry for a page operation (R235): from device 6, and from device 9 where that line is uncorrectable; with
one copy abandoned, from the other alone. -/
def State.tableRead (s : State) (page : Nat) : State :=
  match s.tableLost with
  | some d =>
    let dev := if d = 6 then 9 else 6
    let t := s.tableLine dev page
    if s.tableBad dev page then t.tableLostAll else t
  | none =>
    let t := s.tableLine 6 page
    if !s.tableBad 6 page then t
    else if s.tableBad 9 page then (t.tableLine 9 page).tableLostAll else t.tableLine 9 page

/-- The next page of the operation in progress is started or done: none when it must wait (R244). -/
def State.mapPage (s : State) (m : MapOp) : Option State :=
  let e := s.page m.next
  let pass := fun (t : State) => { t with mapOp := some { m with next := m.next + 1, left := m.left - 1, done := m.done + 1 } }
  match s.mapCheck m with
  | 0 =>
    if m.op ≠ 1 ∧ m.op ≠ 6 ∧ e.mig then some { s with mapOp := some { m with wait := some m.next } }
    else match m.op with
      | 1 => match s.mapTarget m with
        | .ok (u, f) => some { s.takeFrame u f .zeroing with mapOp := some { m with
            next := m.next + 1, left := m.left - 1, zeroing := m.zeroing ++ [(m.next, u, f)] } }
        | .error c => some { s with mapOp := some { m with stop := c } }
      | 2 =>
        let t := s.setPage m.next (e.put 63 1 0)
        let u := if s.useOf e.unit e.frame = .withdrawn then t else t.setUse e.unit e.frame .draining
        some { u with drains := u.drains ++ [⟨m.next, e.unit, e.frame⟩], mapOp := some { m with wait := some m.next } }
      | 3 => some (pass (s.setPage m.next ((e.put 46 2 m.hint).put 41 5 m.unit)))
      | 4 => some (pass (s.setPage m.next (e.put 48 1 m.ro)))
      | 5 =>
        if m.inTarget e then some (pass s)
        else if s.migMax ≤ s.get F.strMigStat_inflight then none
        else match s.mapTarget m with
          | .ok (u, f) => some { s.migStart m.next u f true with mapOp := some { m with wait := some m.next } }
          | .error c => some { s with mapOp := some { m with stop := c } }
      | _ => some (pass s)
  | st => some { s with mapOp := some { m with stop := st } }

/-- One step of the operation in progress, which reads its page's entry from the table: none when it must wait or has ended. -/
def State.mapStep (s : State) : Option State :=
  match s.mapOp with
  | none => none
  | some m =>
    if m.wait.isSome then none
    else if m.stop ≠ 0 then if m.zeroing.isEmpty then some (s.mapFinish m m.stop m.next) else none
    else if m.left = 0 then if m.zeroing.isEmpty then some (s.mapFinish m 1 (m.next - 1)) else none
    else if m.op = 1 ∧ 16 ≤ m.zeroing.length then none
    else (s.mapPage m).map fun t => t.tableRead m.next

/-- Run the operation in progress as far as it goes. -/
def State.mapRun : Nat → State → State
  | 0, s => s
  | n + 1, s => match s.mapStep with
    | some t => State.mapRun n t
    | none => s

/-- Steps within which an operation of 65,536 pages waits or ends. -/
def mapFuel : Nat := 3 * 65536

def State.mapGo (s : State) : State := State.mapRun mapFuel s

/-- A write to STR_MAP_CTL (R242, R244). -/
def State.mapCtl (s : State) (o : Orig) (v : Lane) : State :=
  if s.on F.strMapStat_busy then s.set F.strMapCtl_op (vbits v 3 0)
  else
    let s1 := s.set F.strMapCtl_op (vbits v 3 0)
    if !vbit v 31 then s1
    else
      let op := vbits v 3 0
      let page := s1.get F.strMapPage_page
      let n := s1.get F.strMapArg_count_m1 + 1
      let bad := op = 0 || decide (6 < op) || (op = 6 && decide (1 < n)) || decide (28 ≤ s1.get F.strMapArg_unit) ||
        s1.get F.strMapArg_tier = 3 || decide (2 ^ 24 < page + n)
      if bad then (s1.set F.strMapStat_status 6).set F.strMapStat_done 0
      else ({ s1.set F.strMapStat_busy 1 with mapOp := some ⟨op, o, s1.mapArg, page, n, 0, [], 0, none⟩ } : State).mapGo

def mapCtlOff : Nat := 0x580010

/-- MAP_ZERO_COMPLETE (R245): a frame holds zeros and its page is mapped. -/
def State.zeroDone (s : State) (page : Nat) : State :=
  match s.mapOp with
  | none => s
  | some m =>
    match m.zeroing.find? fun z => decide (z.1 = page) with
    | none => s
    | some (_, u, f) =>
      let x := (s.zeroFrame u f).setPage page (m.entry u f)
      let t := if s.useOf u f = .withdrawn then x else x.setUse u f .mapped
      ({ t with mapOp := some { m with
          done := m.done + 1, zeroing := m.zeroing.filter fun z => !decide (z.1 = page) } } : State).mapGo

/-- The operation in progress counts the page it waits for as done. -/
def State.mapPass (s : State) (page : Nat) : State :=
  match s.mapOp with
  | none => s
  | some m =>
    if m.wait = some page then
      ({ s with mapOp := some { m with wait := none, next := m.next + 1, left := m.left - 1, done := m.done + 1 } } : State).mapGo
    else s

/-- The operation in progress takes up the page that it waited for again. -/
def State.mapRetry (s : State) (page : Nat) : State :=
  match s.mapOp with
  | none => s
  | some m => if m.wait = some page then ({ s with mapOp := some { m with wait := none } } : State).mapGo else s.mapGo

/-- PAGE_TABLE_DRAIN_COMPLETE (R238): the change of a page's entry is complete and the frame it removed is free. The operation
that waits for the page counts it once no change of its entry is left. -/
def State.drainDone (s : State) (page : Nat) : State :=
  match s.drains.find? fun d => decide (d.page = page) with
  | none => s
  | some d =>
    let t := ({ s with drains := s.drains.erase d } : State).giveFrame d.unit d.frame
    if (t.page page).mig || t.drains.any fun e => e.page = page then t else t.mapPass page

/-! ## Migration -/

/-- Where a page goes on its own, if anywhere (R249, R252). -/
def State.autoTarget (s : State) (e : Pte) : Option Nat :=
  let ok := fun (u : Nat) => decide (u < 28) && !s.unitFailed u && decide (0 < s.get (F.strFrameFree_free u)) &&
    (Pte.pins e = 0 || (Pte.tier e ≠ 0 && tierOf u ≠ 0))
  if !e.valid || e.mig then none
  else if Pte.hint e = 1 then
    if Pte.unit e ≠ Pte.pref e ∧ s.get F.strMigCtl_low_water < s.get (F.strFrameFree_free (Pte.pref e)) ∧ ok (Pte.pref e) then
      some (Pte.pref e) else none
  else if Pte.hint e = 2 then
    if 8 ≤ Pte.unit e ∧ Pte.unit e < 20 ∧ bit s.evict (Pte.unit e - 8) then
      (s.mostFree ((tierUnits 2).filter fun u => !s.unitFailed u)).filter ok
    else none
  else none

/-- Whether a MIGRATE operation waits for room among the migrations, which goes first. -/
def State.migWaits (s : State) : Bool :=
  match s.mapOp with
  | some m => m.op = 5 && m.wait.isNone
  | none => false

/-- AUTO_MIGRATION_START (R249): the first candidate in ascending page number; none starts in the shed state (R522). -/
def State.autoStart (s : State) : State :=
  let t := s.evictTrack
  if s.shedding || !s.on F.strMigCtl_auto || s.migWaits || decide (s.migMax ≤ s.get F.strMigStat_inflight) then t
  else match t.pages.find? fun p => (t.autoTarget p.2).isSome with
    | none => t
    | some p => match t.autoTarget p.2 with
      | none => t
      | some u => match t.lowestFree u with
        | some f => t.migStart p.1 u f false
        | none => t

/-- A migration ends without its switch (R248): held writes go to the source. -/
def State.migAbandon (s : State) (m : Migration) : State :=
  let e := (s.page m.page).put 49 1 0
  let t := ({ s with migrations := s.migrations.erase m } : State).setPage m.page e
  let u := m.held.foldl (fun (a : State) w => a.frameWrite e.unit e.frame w.1 (Pte.part e) [w.2]) t
  let v := ((u.giveFrame m.unit m.frame).dec F.strMigStat_inflight 1).inc F.strMigStat_abandoned 1
  match v.mapOp with
  | some p => if m.explicit && p.wait = some m.page then
      ({ v with mapOp := some { p with wait := none, stop := 8 } } : State).mapGo else v.mapRetry m.page
  | none => v

/-- The switch (R247 step 3): reads and writes go to the destination, held writes too. -/
def State.migSwitch (s : State) (m : Migration) : State :=
  let e := s.page m.page
  let p := Pte.part e
  let t := ({ s with migrations := s.migrations.erase m } : State).copyFrame e.unit e.frame m.unit m.frame p
  let r := t.setPage m.page ((e.setFrame m.unit m.frame).put 49 1 0)
  let u := if s.useOf m.unit m.frame = .withdrawn then r else r.setUse m.unit m.frame .mapped
  let v := m.held.foldl (fun (a : State) w => a.frameWrite m.unit m.frame w.1 p [w.2]) u
  let w := if v.useOf e.unit e.frame = .withdrawn then v else v.setUse e.unit e.frame .draining
  let x := (({ w with drains := w.drains ++ [⟨m.page, e.unit, e.frame⟩] } : State).dec F.strMigStat_inflight 1).inc
    F.strMigStat_completed 1
  if m.explicit then x.mapGo else x.mapRetry m.page

/-- MIGRATION_COPY_END (R247, R255): the copy's reads count their corrections (R227, R229); an error on the copy abandons the
migration. -/
def State.copyEnd (s : State) (page : Nat) : State :=
  match s.migrations.find? fun m => decide (m.page = page) with
  | none => s
  | some m =>
    let e := s.page page
    match s.spanError e.unit e.frame 0 (2 ^ 21) with
    | some c =>
      (s.postAccess c clsN (((s.addrFault (page * 2 ^ 21) (2 ^ 21)).map (·.2)).getD (page * 2 ^ 21)) (some (Pte.part e)) none none).migAbandon m
    | none =>
      let t := s.countSpan e.unit e.frame 0 (2 ^ 21)
      if s.unitFailed m.unit then t.migAbandon m else t.migSwitch m

/-- MIGRATION_ABANDON (R248): only once a write has been held or waits at its engine. -/
def State.migGiveUp (s : State) (page : Nat) : State :=
  match s.migrations.find? fun m => decide (m.page = page) with
  | some m => if m.held.isEmpty && !m.waits then s else s.migAbandon m
  | none => s

/-! ## Far ports -/

/-- Position of the access that a far port did not answer, among those of a descriptor that reach the far tier: a free
value. -/
def State.farAccess (s : State) (d : Desc) : Option Nat :=
  let far := fun (a : Nat) => s.lies (fun u _ => decide (20 ≤ u)) a
  let l := (List.range (descPositions d.bits)).filterMap fun p =>
    if d.pos ≤ p then
      if descSrcSpace d.bits = 0 ∧ descPadded d.bits p = false ∧ far (descSrcAddr d.bits p) then some (descSrcAddr d.bits p)
      else if descDstSpace d.bits = 0 ∧ far (descDstAddr d.bits p) then some (descDstAddr d.bits p) else none
    else none
  l[(Config.freeLane s.freeCtr).toNat % l.length]?

/-- The first address, from the progress point on, at which a descriptor reaches a frame that `sel` picks (R268). -/
def State.firstAccess (s : State) (d : Desc) (sel : Nat → Nat → Bool) : Option Nat :=
  (List.range (descPositions d.bits)).findSome? fun p =>
    if p < d.pos then none
    else if descSrcSpace d.bits = 0 ∧ descPadded d.bits p = false ∧ s.lies sel (descSrcAddr d.bits p) then
      some (descSrcAddr d.bits p)
    else if descDstSpace d.bits = 0 ∧ s.lies sel (descDstAddr d.bits p) then some (descDstAddr d.bits p)
    else none

/-- FAR_ACCESS_TIMEOUT (R255): the command that issued the access ends with FAR:0x011. -/
def State.farTimeout (s : State) (q id : Nat) : State :=
  match (s.quad q).desc id with
  | none => s
  | some d =>
    match s.farAccess d with
    | none => s
    | some a =>
      let t : State := { s with freeCtr := s.freeCtr + 1 }
      (t.postAccess 0x5011 clsR a (t.slotPart q d.slot) (some q) (some d.slot)).finish q d.slot 0x5011
        (progressField d.bits 3 d.pos)

def execFarAccessTimeout (q : Fin 32) (id : BitVec 16) (s : State) : Out := .next (s.farTimeout q id.toNat)

/-- A far port fails (R255, R469): FAR:0x012 once, the port reported failed, the work that uses it ended. -/
def State.portFail (s : State) (port : Nat) : State :=
  let u := 20 + port
  if s.unitFailed u then s
  else
    let t := { s with ecu := { s.ecu with farDown := s.ecu.farDown + 2 ^ port } }.post
      ⟨0x5012, clsR, unitDie u, none, none, none, some u, 0, port⟩
    ((t.set (F.strFrameFree_total u) 0).set (F.strFrameFree_free u) 0).endUsers 0x5012 fun v _ => decide (v = u)

def execFarLinkDown (port : Fin 8) (s : State) : Out := .next (s.portFail port)

/-- Frames of an extent. -/
def extent (first count : Nat) : List Nat := (List.range count).map (first + ·)

/-- DCD_EXTENT_ADD (R231): the frames of an added extent become free. A port that had no frame since start-up thereby shows that its
device answers; one whose link has gone down adds none (log entry 33). -/
def State.dcdAdd (s : State) (port first count : Nat) : State :=
  let u := 20 + port
  let old := nget s.farFrames 0 port
  if s.unitFailed u && old ≠ 0 then s
  else
  let s0 : State := if s.unitFailed u then { s with ecu := { s.ecu with farDown := s.ecu.farDown - 2 ^ port } } else s
  let s1 : State := { s0 with farFrames := nset s.farFrames 0 port (min (max old (first + count)) (2 ^ 20)) }
  let s2 := (List.range (first - old)).foldl (fun t i => t.setUse u (old + i) .absent) s1
  (extent first count).foldl (fun t f =>
    if f < 2 ^ 20 ∧ (old ≤ f ∨ t.useOf u f = .absent) then
      ((t.setUse u f .free).inc (F.strFrameFree_total u) 1).inc (F.strFrameFree_free u) 1
    else t) s2

def execDcdExtentAdd (port : Fin 8) (first count : BitVec 20) (s : State) : Out :=
  .next (s.dcdAdd port first.toNat count.toNat)

/-- Whether a frame holds a page. -/
def State.frameBusy (s : State) (u f : Nat) : Bool :=
  match s.useOf u f with
  | .mapped | .withdrawn => true
  | _ => false

/-- A frame leaves its port with its extent (R231): a free one at once; one that a page has, or that is on its way to or from a
page, is withdrawn. -/
def State.frameGone (s : State) (u f : Nat) : State :=
  if f < s.unitFrames u then
    match s.useOf u f with
    | .free => ((s.setUse u f .absent).dec (F.strFrameFree_total u) 1).dec (F.strFrameFree_free u) 1
    | .mapped | .draining | .dest | .zeroing => (s.setUse u f .withdrawn).dec (F.strFrameFree_total u) 1
    | _ => s
  else s

/-- DCD_RELEASE_REQUEST (R231): granted only when no frame of the extent is mapped. -/
def State.dcdRelease (s : State) (port first count : Nat) : State :=
  let u := 20 + port
  if (extent first count).any (s.frameBusy u) then s
  else (extent first count).foldl (fun t f => t.frameGone u f) s

def execDcdReleaseRequest (port : Fin 8) (first count : BitVec 20) (s : State) : Out :=
  .next (s.dcdRelease port first.toNat count.toNat)

/-- DCD_EXTENT_WITHDRAW (R231, R255): later accesses fail with FAR:0x013, and the transfers that reach the extent end. -/
def State.dcdWithdraw (s : State) (port first count : Nat) : State :=
  let u := 20 + port
  let t := (extent first count).foldl (fun t f => t.frameGone u f) s
  let hit := fun (v f : Nat) => decide (v = u) && decide (first ≤ f) && decide (f < first + count)
  (List.range 32).foldl (fun t q =>
    (t.quad q).descs.foldl (fun v e => match e.2 with
      | some d => match v.firstAccess d hit with
        | some a => if ((v.quad q).desc e.1).isSome then
            (v.postAccess 0x5013 clsR a (v.slotPart q d.slot) (some q) (some d.slot)).finish q d.slot 0x5013
              (progressField d.bits 3 d.pos)
          else v
        | none => v
      | none => v) t) t

def execDcdExtentWithdraw (port : Fin 8) (first count : BitVec 20) (s : State) : Out :=
  .next (s.dcdWithdraw port first.toNat count.toNat)

end Sys2Proof.Machine
end

