-- ==== Sys2Proof/Machine/Routes.lean ====
section
/-! DEFINITION. Seams and routes (R38, R41, R42, R473): dies are 0 to 7 for the facets, 8 for rim N, 9 for rim S. -/

namespace Sys2Proof.Machine

/-- The ends of seams S0 to S13 (Table 8). -/
def seamEnds : List (Nat × Nat) :=
  [(8, 0), (8, 1), (0, 1), (0, 6), (1, 2), (6, 2), (6, 3), (2, 7), (3, 7), (3, 4), (7, 5), (4, 5), (9, 4), (9, 5)]

/-- Dies across the seams of die d that a mask of retired seams leaves, with the seam, lowest die first. -/
def nextDies (gone d : Nat) : List (Nat × Nat) :=
  (List.range 10).filterMap fun e =>
    ((List.range 14).find? fun n =>
      !bit gone n && (let x := seamEnds.getD n (0, 0); decide (x = (d, e)) || decide (x = (e, d)))).map fun n => (e, n)

/-- Dies within n seams of die a: what lies between is a base die, whose seam switch forwards (R41). -/
def within (gone a : Nat) : Nat → List Nat
  | 0 => [a]
  | n + 1 =>
    let l := within gone a n
    (List.range 10).filter fun e =>
      l.contains e || (nextDies gone e).any fun x => l.contains x.1 && (decide (x.1 < 8) || decide (x.1 = a))

/-- Distance in seams, 10 where there is no route. -/
def seamDist (gone a b : Nat) : Nat := ((List.range 10).find? fun n => (within gone a n).contains b).getD 10

/-- Seams of the route from die a to die b: a shortest path through base dies, at each die over the lowest-numbered next facet that
lies on one. R41 names the lower-numbered facet where two shortest paths exist; that the choice is made die by die, from the facet of
the section's quadrant on, so that it also decides among three or more paths and between paths that differ at several dies, is the
model's (DESIGN CHOICE, log entry 102). -/
def seamPath (gone b : Nat) : Nat → Nat → List Nat
  | 0, _ => []
  | f + 1, a =>
    if a = b then []
    else match (nextDies gone a).find? fun e =>
        (decide (e.1 < 8) || decide (e.1 = b)) && decide (seamDist gone e.1 b + 1 = seamDist gone a b) with
      | some e => e.2 :: seamPath gone b f e.1
      | none => []

/-- Whether the route between two dies, fixed while `old` seams were retired, crosses a seam that `sel` picks. -/
def routeCrosses (old a b : Nat) (sel : Nat → Bool) : Bool := (seamPath old b 10 a).any sel

/-- Whether every die still in service has a route to rim N (R42, R476). -/
def State.allRouted (s : State) : Bool :=
  (List.range 8).all (fun f => bit (s.get F.ecuFacet_retired) f || decide (seamDist (s.get F.ecuSeam_retired) f 8 < 10)) &&
    (s.ecu.rimS || decide (seamDist (s.get F.ecuSeam_retired) 9 8 < 10))

/-- Seams retired at the commit of the section of quadrant q. -/
def State.seamsOf (s : State) (q : Nat) : Nat := match (s.quad q).committed with | some x => x.seams | none => 0

/-- Whether a descriptor of quadrant q, from position p on, moves data over a seam that `sel` picks: between the quadrant's
facet and the dies of its pages, a SEND's receiver, or the rims for a peer. -/
def State.descCrosses (s : State) (q d p : Nat) (recv : Option (Bool × Nat)) (sel : Nat → Bool) : Bool :=
  let old := s.seamsOf q
  let meets := fun (die : Nat) => routeCrosses old (q / 4) die sel
  s.descTouches d p (fun u _ => meets (unitDie u)) ||
    match recv with
    | some (true, _) => meets rimN || meets rimS
    | some (false, r) => meets (r / 4)
    | none => false

/-- Whether the committed routes of the section of quadrant q cross a seam that `sel` picks (R41, R466): its pins, its
descriptor table and the receivers of its SENDs. -/
def State.sectionCrosses (s : State) (q : Nat) (sel : Nat → Bool) : Bool :=
  match (s.quad q).committed with
  | none => false
  | some x =>
    let old := x.seams
    let meets := fun (die : Nat) => routeCrosses old (q / 4) die sel
    (x.pins.any fun p => let e := s.page p.1; e.valid && meets (unitDie e.unit)) ||
      ((List.range (imgNdesc x.bytes)).any fun i => s.descCrosses q (nget (s.quad q).patched (secDesc x.bytes i) i) 0 none sel) ||
      (List.range (imgNsteps x.bytes)).any fun i =>
        let w := secStep x.bytes i
        decide (Step.op w = 0x10) && (if Step.remote w then meets rimN || meets rimS else meets (Step.quadrant w / 4))

/-- Whether a descriptor in progress waits for a seam retired since its section's commit (R42, R473). -/
def State.seamBlocked (s : State) (q : Nat) (d : Desc) : Bool :=
  s.descCrosses q d.bits d.pos (if d.chan.isSome then some (d.remote, d.quad) else none) fun n =>
    bit (s.get F.ecuSeam_retired) n && !bit (s.seamsOf q) n

end Sys2Proof.Machine
end

