-- ==== Sys2Proof/Machine/Streams.lean ====
section
/-! DEFINITION. Descriptors and host queues (chapter 8): DESCRIPTOR_COMPLETE (R268, R272, R273, R289, R292), and the queues
through which the host moves data (R282 to R291). -/

namespace Sys2Proof.Machine

/-! ## Completion of a section's descriptor -/

/-- A descriptor holds its slot no longer (R261). -/
def State.freeDesc (s : State) (q id : Nat) : State := s.modQuad q fun x => x.setDesc id none

/-- Every element is committed (R273). -/
def State.descFinish (s : State) (q id : Nat) (d : Desc) : State :=
  let t := (s.freeDesc q id).countEmit d.emit
  match d.chan with
  | some ch => if d.remote then t else t.arrive d.quad (chanKey false ch)
  | none => t

/-- Elements from position p in the order of R268 until one fails or has to wait; where it stopped, and the fault. -/
def State.runElems (q r d : Nat) (part : Option Nat) : Nat → Nat → State → State × Nat × Option ElemFault
  | 0, p, s => (s, p, none)
  | n + 1, p, s =>
    match (s.elemFault (s.pinned q) d p part true).or (s.elemTier d p) with
    | some f => (s, p, some f)
    | none =>
      if s.elemWaits q r d p then (s, p, some ElemFault.wait)
      else match s.elemPoison q d p with
        | some site => (s, p, some ⟨0x1011, false, site⟩)
        | none =>
          if descDstSpace d = 0 && s.migHolds (descDstAddr d p) (descElem d) then
            (s.migWait (descDstAddr d p) (descElem d), p, some ElemFault.wait)
          else State.runElems q r d part n (p + 1) (s.moveElem q r d p [])

/-- Log the fault that ends a command's transfer (R82, R254, R255). -/
def State.postElem (s : State) (f : ElemFault) (q n : Nat) : State :=
  if f.code = 0x1011 then
    (s.modQuad q fun x => x.countSat (F.latErrCnt_uncorrectable q) 1).postQuad 0x1011 clsR q (some n) (some f.addr) 0
  else s.postAccess f.code clsR f.addr (s.slotPart q n) (some q) (some n)

/-- Whether a SEND's receiver has the section that it started for, and is not being saved or restored (R424). -/
def State.receiverHere (s : State) (d : Desc) : Bool :=
  match d.waitFor with
  | some id => (s.quad d.quad).committed.isSome && s.get (F.seqSecId_active_id d.quad) = id &&
      decide (s.get (F.seqPreStat_phase d.quad) ≤ 1)
  | none => true

/-- DESCRIPTOR_COMPLETE (R273): the elements not yet committed are committed in order; a fault ends the command at the
faulting element (R254, R255, R292). It stays in progress at an element whose word waits for a migration (R248, R250) or for
the base ports of a quadrant (R272). A descriptor to another package is complete when its last element is acknowledged
(R446). -/
def State.descDone (s : State) (q id : Nat) : State :=
  match (s.quad q).desc id with
  | none => s
  | some d =>
    if d.suspended || !s.receiverHere d || (s.get F.ecuSeam_retired ≠ 0 && s.seamBlocked q d) then s
    else if d.remote then if d.pos = descPositions d.bits then s.descFinish q id d else s
    else
      let r0 := State.runElems q d.quad d.bits (s.slotPart q d.slot) (descPositions d.bits - d.pos) d.pos s
      let r := (r0.1.rimBytes q d.slot (s.farBytes d.bits d.pos r0.2.1), r0.2)
      match r.2.2 with
      | none => r.1.descFinish q id d
      | some f =>
        if f.code = 0 then r.1.modQuad q fun x => x.setDesc id (some { d with pos := r.2.1 })
        else ((r.1.freeDesc q id).postElem f q d.slot).finish q d.slot f.code (progressField d.bits 3 r.2.1)

/-! ## Host queues -/

def State.hq (s : State) (p : Nat) : Hq := nget s.hqs Hq.init p
def State.setHq (s : State) (p : Nat) (x : Hq) : State := { s with hqs := nset s.hqs Hq.init p x }

/-- Ring size of a queue (R284). -/
def State.hqSize (s : State) (p : Nat) : Nat := 2 ^ clampLog (s.get (F.strHqCfg_log2n p))

/-- Whether the completion ring is full (R288). -/
def State.hqFull (s : State) (p : Nat) : Bool :=
  decide ((s.get (F.strHqCtail_ctail p) + 1) % s.hqSize p = s.get (F.strHqChead_chead p) % s.hqSize p)

/-- Log an event of a queue (R293). -/
def State.postHq (s : State) (code cls p arg : Nat) : State :=
  s.post ⟨code, cls, rimN, some p, none, none, some p, 0, arg⟩

def State.hqMsix (s : State) (p : Nat) : State := s.sendMsix p (s.get (F.strHqCfg_vector p))

/-- Bytes committed of an entry, padding included (Table 73). -/
def HqEntry.bytes (e : HqEntry) : Nat := e.pos * descElem e.bits

/-- The completion record of a finished entry (Table 73). -/
def HqEntry.record (e : HqEntry) : List Byte :=
  leBytes 2 (descTag e.bits) ++ leBytes 2 e.code ++ leBytes 2 e.idx ++ leBytes 2 0 ++ leBytes 8 e.bytes
    ++ leBytes 16 (progressField e.bits (if e.code = 0 then 2 else 3) e.pos)

/-- Write the record of the oldest entry: the record, then ctail, then the message (R258, R288). -/
def State.hqRecord (s : State) (p : Nat) (e : HqEntry) : State :=
  let tail := s.get (F.strHqCtail_ctail p)
  let t := (s.hostWrite (s.get (F.strHqCplBase_addr p) * 4096 + tail * 32) e.record).set (F.strHqCtail_ctail p)
    ((tail + 1) % s.hqSize p)
  if descIrq e.bits && t.on (F.strHqCfg_irq_en p) then t.hqMsix p else t

/-- Records leave in ring order while the ring has room (R288). -/
def State.hqRecords (p : Nat) : List HqEntry → State → State × List HqEntry
  | [], s => (s, [])
  | e :: r, s => if e.phase = 2 && !s.hqFull p then State.hqRecords p r (s.hqRecord p e) else (s, e :: r)

/-- The engine reads the entry at head: an invalid one ends at once (R269, R291). -/
def State.hqRead (s : State) (p : Nat) : State :=
  let x := s.hq p
  let i := s.get (F.strHqHead_head p) % s.hqSize p
  let d := (nget x.subm none i).getD 0
  let s1 := s.set (F.strHqHead_head p) ((i + 1) % s.hqSize p)
  if descOk true 0 [] d then
    s1.setHq p { x with act := x.act ++ [⟨i, d, 0, 0, false, 0, 0⟩], subm := nset x.subm none i none }
  else
    (s1.postHq 0x603A clsR p i).setHq p
      { x with act := x.act ++ [⟨i, d, 2, 0, false, 0, 0x603A⟩], subm := nset x.subm none i none }

/-- Whether the engine reads another entry (R284, R288). -/
def State.hqReads (s : State) (p : Nat) : Bool :=
  s.get (F.strHqStat_state p) = 1 && s.on (F.strHqCfg_en p) && !s.hqFull p &&
    decide (((s.hq p).act.filter fun e => decide (e.phase < 2)).length < 16) &&
    decide (s.get (F.strHqHead_head p) % s.hqSize p ≠ s.get (F.strHqTail_tail p) % s.hqSize p)

/-- The queue starts (R284). -/
def State.hqStart (s : State) (p : Nat) (v : Lane) : State :=
  let t := ((((s.set (F.strHqHead_head p) 0).set (F.strHqTail_tail p) 0).set (F.strHqCtail_ctail p) 0).set
    (F.strHqChead_chead p) 0).set (F.strHqStat_state p) 1
  let u := (((t.set (F.strHqCfg_en p) 1).set (F.strHqCfg_irq_en p) (vbits v 30 30)).set (F.strHqCfg_vector p)
    (vbits v 20 16)).set (F.strHqCfg_log2n p) (vbits v 4 0)
  u.setHq p Hq.init

/-- A queue that was disabled has finished: state 0, then a held write (R284). -/
def State.hqSettle (s : State) (p : Nat) : State :=
  if s.on (F.strHqCfg_en p) || s.get (F.strHqStat_state p) = 0 || !(s.hq p).act.isEmpty then s
  else
    let t := s.set (F.strHqStat_state p) 0
    match (s.hq p).held with
    | some v => t.hqStart p v
    | none => t.setHq p Hq.init

/-- Records that can be written are written, or discarded in state 3 once the queue is disabled (R284, R291). -/
def State.hqDrain (s : State) (p : Nat) : State :=
  let x := s.hq p
  if s.get (F.strHqStat_state p) = 3 then
    if s.on (F.strHqCfg_en p) then s else s.setHq p { x with act := x.act.filter fun e => decide (e.phase < 2) }
  else
    let r := State.hqRecords p x.act s
    r.1.setHq p { x with act := r.2 }

/-- Records, then new entries, as far as they go (R288). -/
def State.hqPump (p : Nat) : Nat → State → State
  | 0, s => s
  | n + 1, s =>
    let t := s.hqDrain p
    if t.hqReads p then State.hqPump p n (t.hqRead p) else t.hqSettle p

/-- Bound on what one command lets a queue read: its ring. -/
def State.hqGo (s : State) (p : Nat) : State := State.hqPump p 65537 s

/-- Show the first waiting suspended entry (R290). -/
def State.hqShow (s : State) (p : Nat) : State :=
  let x := s.hq p
  match x.susp with
  | [] => s.set (F.strHqStat_state p) (if s.get (F.strHqStat_state p) = 2 then 1 else s.get (F.strHqStat_state p))
  | i :: _ =>
    match x.act.find? fun e => decide (e.idx = i) with
    | none => s
    | some e =>
      let t := ((((s.set (F.strHqFault_addr p) e.addr).set (F.strHqFinfo_side p) (if e.side then 1 else 0)).set
        (F.strHqFinfo_entry p) i).set (F.strHqStat_state p) 2).set (F.strHqStat_code p) 0x6038
      let u := t.postHq 0x6038 clsN p e.addr
      if u.on (F.strHqCfg_irq_en p) then u.hqMsix p else u

/-- Change an entry in progress. -/
def State.hqMod (s : State) (p i : Nat) (f : HqEntry → HqEntry) : State :=
  let x := s.hq p
  s.setHq p { x with act := x.act.map fun e => if e.idx = i then f e else e }

/-- An entry ends with a code at a position, 0 when complete (R288, R291). -/
def State.hqEnd (s : State) (p i code pos : Nat) : State :=
  s.hqMod p i fun e => { e with phase := 2, code := code, pos := pos }

/-- An entry stops at a position with a translation fault (R290): its progress field, and the queue shows it when no
other is shown. With the queue disabled it ends as an abort ends it, or is discarded in state 3 (R284). -/
def State.hqSuspend (s : State) (p : Nat) (e : HqEntry) (pos : Nat) (side : Bool) (addr : Nat) : State :=
  let t := (s.hostWrite (s.get (F.strHqBase_addr p) * 4096 + e.idx * 128 + 0x70)
    (leBytes 16 (progressField e.bits 1 pos))).hqMod p e.idx fun f =>
      { f with phase := 1, pos := pos, side := side, addr := addr }
  if !s.on (F.strHqCfg_en p) then
    (if s.get (F.strHqStat_state p) = 3 then t else t.postHq 0x6039 clsR p addr).hqEnd p e.idx 0x6039 pos
  else
    let x := t.hq p
    let u := t.setHq p { x with susp := x.susp ++ [e.idx] }
    if x.susp.isEmpty && s.get (F.strHqStat_state p) ≠ 3 then u.hqShow p else u

/-- Elements of a host queue entry in order: until one faults, or the host access after `left` others fails. -/
def State.runHost (d part : Nat) (fails : Bool) : Nat → Nat → Nat → List Byte → State → State × Nat × Option ElemFault
  | 0, p, _, _, s => (s, p, none)
  | n + 1, p, left, data, s =>
    match (s.elemFault [] d p (some part) false).or (s.elemTier d p) with
    | some f => (s, p, some f)
    | none =>
      if descDstSpace d = 0 && s.migHolds (descDstAddr d p) (descElem d) then
        (s.migWait (descDstAddr d p) (descElem d), p, some ElemFault.wait)
      else
      let src := descSrcSpace d = 3 && !descPadded d p
      let host := src || descDstSpace d = 3
      if fails && host && left = 0 then (s, p, some ⟨0x603B, descDstSpace d = 3, if src then descSrcAddr d p else descDstAddr d p⟩)
      else State.runHost d part fails n (p + 1) (if host then left - 1 else left)
        (if src then data.drop (descElem d) else data) (s.moveElem 0 0 d p (data.take (descElem d)))

/-- Run an entry from its progress point to position `stop` with what the host returned, and say how it went. -/
def State.hqRun (s : State) (p : Nat) (e : HqEntry) (stop : Nat) (data : List Byte) (fails : Bool) :
    State × Nat × Option ElemFault :=
  State.runHost e.bits p fails (stop - e.pos) e.pos (data.length / descElem e.bits) data s

/-- What a fault of an entry leads to (R290, R291); an entry that waits for a migration stays in progress (R248, R257). -/
def State.hqFault (s : State) (p : Nat) (e : HqEntry) (pos : Nat) (f : ElemFault) : State :=
  if f.code = 0 then s.hqMod p e.idx fun x => { x with pos := pos }
  else if f.code = 0x6030 then s.hqSuspend p e pos f.side f.addr
  else if f.code = 0x603B then (s.postHq 0x603B clsR p f.addr).hqEnd p e.idx f.code pos
  else (s.postAccess f.code clsR f.addr (some p) none none).hqEnd p e.idx f.code pos

/-- HQ_ENTRY_COMPLETE (R288). -/
def State.hqComplete (s : State) (p i : Nat) (data : List Byte) (fails : Bool) : State :=
  match (s.hq p).act.find? fun e => decide (e.idx = i) && e.phase = 0 with
  | none => s
  | some e =>
    let r := s.hqRun p e (descPositions e.bits) data fails
    (match r.2.2 with
      | none => r.1.hqEnd p i 0 (descPositions e.bits)
      | some f => r.1.hqFault p e r.2.1 f).hqGo p

def execHqEntryComplete (p : Fin 16) (entry : BitVec 16) (hostData : List Byte) (hostErr : Bool) (s : State) : Out :=
  .next (s.hqComplete p entry.toNat hostData hostErr)

/-- HQ_ENTRY_SUSPEND (R290): every element before the faulting position commits. A fault on a unified-range side must be
one of the page table; a fault on a host side is what ATS reports. -/
def State.hqStop (s : State) (p i : Nat) (data : List Byte) (prog : Nat) (side : Bool) (addr : Nat) : State :=
  match (s.hq p).act.find? fun e => decide (e.idx = i) && e.phase = 0 with
  | none => s
  | some e =>
    let pos := descPosition e.bits prog
    if pos < e.pos ∨ descPositions e.bits ≤ pos then s
    else
      let r := s.hqRun p e pos data false
      match r.2.2 with
      | some f => (r.1.hqFault p e r.2.1 f).hqGo p
      | none =>
        let space := if side then descDstSpace e.bits else descSrcSpace e.bits
        if space = 3 then (r.1.hqSuspend p e pos side addr).hqGo p
        else match r.1.elemFault [] e.bits pos (some p) false with
          | some f => (r.1.hqFault p e pos f).hqGo p
          | none => s

def execHqEntrySuspend (p : Fin 16) (entry : BitVec 16) (hostData : List Byte) (pos : BitVec 120) (side : Bool) (addr : Dword)
    (s : State) : Out :=
  .next (s.hqStop p entry.toNat hostData pos.toNat side addr.toNat)

/-- The entry shown is no longer suspended. -/
def State.hqUnshow (s : State) (p : Nat) : State :=
  let x := s.hq p
  s.setHq p { x with susp := x.susp.drop 1 }

/-- The entry shown, in state 2. -/
def State.hqShown (s : State) (p : Nat) : Option HqEntry :=
  if s.get (F.strHqStat_state p) = 2 then
    (s.hq p).susp.head?.bind fun i => (s.hq p).act.find? fun e => decide (e.idx = i)
  else none

/-- Abort of the entry shown (R291). -/
def State.hqAbort (s : State) (p : Nat) : State :=
  match s.hqShown p with
  | none => s
  | some e => (((s.postHq 0x6039 clsR p e.addr).hqUnshow p).hqEnd p e.idx 0x6039 e.pos).hqShow p

/-- Resume of the entry shown (R290): its faulting position is translated again. -/
def State.hqResume (s : State) (p : Nat) : State :=
  match s.hqShown p with
  | none => s
  | some e =>
    let t := s.hqUnshow p
    match t.elemFault [] e.bits e.pos (some p) false with
    | some f =>
      if f.code = 0x6030 then
        let x := t.hq p
        ((t.setHq p { x with susp := x.susp ++ [e.idx] }).hqMod p e.idx fun y =>
          { y with side := f.side, addr := f.addr }).hqShow p
      else (t.hqFault p e e.pos f).hqShow p
    | none => (t.hqMod p e.idx fun y => { y with phase := 0 }).hqShow p

/-- A write to STR_HQ_CTL (R286): abort goes before resume. -/
def State.hqCtl (s : State) (p : Nat) (v : Lane) : State :=
  if vbit v 1 then (s.hqAbort p).hqGo p else if vbit v 0 then (s.hqResume p).hqGo p else s

def hqOff (p k : Nat) : Nat := 0x581000 + p * 0x40 + k

/-- HQ_RESUME (R290). -/
def execHqResume (p : Fin 16) (o : Orig) (v : Lane) (s : State) : Out :=
  .next (s.guard o (.part (some p)) (hqOff p 0x28) fun s => s.hqCtl p v)
/-- HQ_ABORT (R291). -/
def execHqAbort (p : Fin 16) (o : Orig) (v : Lane) (s : State) : Out :=
  .next (s.guard o (.part (some p)) (hqOff p 0x28) fun s => s.hqCtl p v)

/-- End every suspended entry as an abort ends it. -/
def State.hqAbortAll (p : Nat) : Nat → State → State
  | 0, s => s
  | n + 1, s => if (s.hqShown p).isSome then State.hqAbortAll p n (s.hqAbort p) else s

/-- The queue is disabled (R284). -/
def State.hqStop0 (s : State) (p : Nat) : State :=
  let x := s.hq p
  let t := (s.set (F.strHqCfg_en p) 0).setHq p { x with held := none }
  let u := if t.get (F.strHqStat_state p) = 3 then
      let y := t.hq p
      t.setHq p { y with act := y.act.filter fun e => decide (e.phase = 0), susp := [] }
    else State.hqAbortAll p 17 t
  u.hqGo p

/-- A write to STR_HQ_CFG (R284). -/
def State.hqCfg (s : State) (p : Nat) (v : Lane) : State :=
  let en := s.on (F.strHqCfg_en p)
  if vbit v 31 && !en then
    if s.get (F.strHqStat_state p) = 0 then s.hqStart p v
    else
      let x := s.hq p
      s.setHq p { x with held := some v }
  else
    let t := (s.set (F.strHqCfg_irq_en p) (vbits v 30 30)).set (F.strHqCfg_vector p) (vbits v 20 16)
    if en then if vbit v 31 then t else t.hqStop0 p
    else (t.set (F.strHqCfg_log2n p) (vbits v 4 0)).hqStop0 p

/-- HQ_ENABLE (R284). -/
def execHqEnable (p : Fin 16) (o : Orig) (v : Lane) (s : State) : Out :=
  .next (s.guard o (.part (some p)) (hqOff p 0x10) fun s => s.hqCfg p v)
/-- HQ_DISABLE (R284). -/
def execHqDisable (p : Fin 16) (o : Orig) (v : Lane) (s : State) : Out :=
  .next (s.guard o (.part (some p)) (hqOff p 0x10) fun s => s.hqCfg p v)

/-- HQ_DOORBELL (R285, R288): `entries` are the descriptors that the host placed from the former tail on. -/
def State.hqDoorbell (s : State) (p : Nat) (v : Lane) (entries : List (BitVec 1024)) : State :=
  let x := s.hq p
  let old := s.get (F.strHqTail_tail p)
  let sub := (entries.foldl (fun (a : Nat × NMap (Option Nat)) e =>
    (a.1 + 1, nset a.2 none (a.1 % s.hqSize p) (some e.toNat))) (old, x.subm)).2
  ((s.set (F.strHqTail_tail p) (vbits v 15 0)).setHq p { x with subm := sub }).hqGo p

def execHqDoorbell (p : Fin 16) (o : Orig) (v : Lane) (entries : List (BitVec 1024)) (s : State) : Out :=
  .next (s.guard o (.part (some p)) (hqOff p 0x14) fun s => s.hqDoorbell p v entries)

/-- HQ_CHEAD_WRITE (R285, R288). -/
def execHqCheadWrite (p : Fin 16) (o : Orig) (v : Lane) (s : State) : Out :=
  .next (s.guard o (.part (some p)) (hqOff p 0x20) fun s => (s.set (F.strHqChead_chead p) (vbits v 15 0)).hqGo p)

/-- HQ_RING_ERROR (R291): the queue stops. -/
def State.hqRingError (s : State) (p : Nat) : State :=
  let st := s.get (F.strHqStat_state p)
  if st = 0 ∨ st = 3 then s
  else ((s.set (F.strHqStat_state p) 3).set (F.strHqStat_code p) 0x603C).postHq 0x603C clsN p 0

def execHqRingError (p : Fin 16) (s : State) : Out := .next (s.hqRingError p)

end Sys2Proof.Machine
end

