-- ==== Sys2Proof/Machine/ChordTx.lean ====
section
/-! DEFINITION. The sending side of the chords (chapter 14): effective masks (R449), packets and their protection (R443,
R457), transactions of a remote SEND (R445, R446), remap (R451) and the loss of a peer (R454). -/

namespace Sys2Proof.Machine

/-! ## Chords and masks -/

def State.link (s : State) (k : Nat) : ChordLink := nget s.chord.links ChordLink.init k
def State.setLink (s : State) (k : Nat) (x : ChordLink) : State :=
  { s with chord := { s.chord with links := nset s.chord.links ChordLink.init k x } }

/-- Die of a chord (R37, R556). -/
def chordDie (k : Nat) : Nat := if k < 32 then rimN else rimS

/-- Log an event of a chord: the chord in the unit field. -/
def State.postChord (s : State) (code cls k arg : Nat) : State :=
  s.post ⟨code, cls, chordDie k, none, none, none, some k, 0, arg⟩

/-- Log an event of a peer: the package in arg. -/
def State.postPeer (s : State) (code cls p : Nat) (part quad slot : Option Nat) : State :=
  s.post ⟨code, cls, rimN, part, quad, slot, none, 0, p⟩

/-- The chords of a configured mask to package p that are in service (R449), in ascending order; encrypted traffic takes no part
in chords at version 2 (R457). -/
def State.inService (s : State) (mask p : Nat) (enc : Bool) : List Nat :=
  (List.range 64).filter fun k =>
    bit mask k && decide (s.get (F.chdLinkStat_state k) = 5) && !bit (nget s.chord.down 0 p) k &&
      (!enc || decide (s.get (F.chdLinkStat_version k) = 3))

/-- The chords of the effective mask of package p (R449). -/
def State.effMask (s : State) (p : Nat) (enc : Bool) : List Nat := s.inService (s.get (F.chdRoute_mask p)) p enc

/-- CHD_ROUTE_EFF as it reads (R450). -/
def State.effBits (s : State) (p : Nat) : Nat := (s.effMask p false).foldl (fun n k => n + 2 ^ k) 0

/-- The chord of a transaction of tag slot k (R449). -/
def State.chordFor (s : State) (p k : Nat) (enc : Bool) : Option Nat :=
  let l := s.effMask p enc
  if l.isEmpty then none else l[k % l.length]?

/-- The chord of a transaction that started under a configured mask (R450); where none of that mask is in service, of the mask
as it is configured now (DEDUCED, log entry 49). -/
def State.chordOf (s : State) (mask p k : Nat) (enc : Bool) : Option Nat :=
  let l := s.inService mask p enc
  if l.isEmpty then s.chordFor p k enc else l[k % l.length]?

/-- Admitted peers. -/
def State.admitted (s : State) : List Nat := (s.chord.peers.filter fun e => decide (e.2.adm ≠ 0)).map (·.1)

/-- Packets that a peer's receiving rim grants (R444): an equal part of 16 MiB for each admitted peer. -/
def State.creditLimit (s : State) : Nat := 2 ^ 24 / (832 * max 1 s.admitted.length)

/-! ## Packets (R443, R457) -/

/-- What a header flit carries (Table 111), but for what the sender and the protection add. -/
structure Pkt where
  type : Nat
  flags : Nat
  dst : Nat
  part : Nat
  tag : Nat
  idx : Nat
  cnt : Nat
  quad : Nat
  chan : Nat
  cause : Nat
  credits : Nat
  words : List Nat
  deriving DecidableEq, Repr

/-- Header bytes 0x00 to 0x2F. -/
def Pkt.header (p : Pkt) (src gen counter : Nat) : List Byte :=
  leBytes 1 p.type ++ leBytes 1 p.flags ++ leBytes 2 p.dst ++ leBytes 2 (src % 4096 + p.part * 4096) ++ leBytes 1 gen
    ++ leBytes 1 (4 * p.words.length) ++ leBytes 4 p.tag ++ leBytes 1 p.idx ++ leBytes 1 p.cnt ++ leBytes 1 p.quad
    ++ leBytes 1 p.chan ++ leBytes 1 p.cause ++ leBytes 1 p.credits ++ leBytes 6 0
    ++ ((List.range 3).flatMap fun i => leBytes 4 (p.words.getD i 0)) ++ leBytes 8 counter ++ leBytes 4 0

/-- The 96-bit IV (R457): source package, its generation, sending rim, eleven zeros, counter. -/
def gcmIv (src gen rim counter : Nat) : BitVec 96 :=
  BitVec.ofNat 96 (((((src % 4096) * 256 + gen % 256) * 2 + rim % 2) * 2 ^ 11) * 2 ^ 64 + counter % 2 ^ 64)

/-- The GCM key of a key slot when it holds one of a partition (R504). -/
def State.gcmKey (s : State) (ks part : Nat) : Option (BitVec 256) :=
  if decide (0 < ks) && decide (ks < 64) && s.get (F.secKeyAttr_kind ks) = 1 && s.get (F.secKeyAttr_part ks) = part then
    some ((nget s.sec.keys 0 ks).setWidth 256)
  else none

/-- Key index flag and key slot with which a partition sends (R458). -/
def State.sendKey (s : State) (part : Nat) : Nat × Nat :=
  if s.on (F.chdPartCrypt_active part) then (1, s.get (F.chdPartCrypt_slot_b part))
  else (0, s.get (F.chdPartCrypt_slot_a part))

/-- Whether a key slot named for a partition is empty. -/
def State.keyEmpty (s : State) (part : Nat) (key : Option (Nat × Nat)) : Bool :=
  match key with
  | some e => (s.gcmKey e.2 part).isNone
  | none => false

/-- Send a packet on chord k, encrypted under a key or with a CRC-64 (R443, R457). -/
def State.emitPkt (s : State) (k : Nat) (p : Pkt) (data : List Byte) (key : Option (Nat × Nat)) : State :=
  let gen := if s.get (F.chdLinkStat_version k) = 2 then 0 else s.get F.chdPkgId_gen
  let src := s.get F.chdPkgId_pkg
  match key.bind fun e => (s.gcmKey e.2 p.part).map fun g => (e, g) with
  | none =>
    let h := p.header src gen 0
    s.send (16 + k) p.dst (h ++ leBytes 8 (crc64 (h ++ data)).toNat ++ leBytes 8 0 ++ data)
  | some (e, g) =>
    let c := k / 32 * 2 ^ 12 + p.part * 64 + e.2
    let n := nget s.chord.counters 0 c
    let h := { p with flags := p.flags + 1 + 2 * e.1 }.header src gen n
    let iv := gcmIv src gen (k / 32) n
    let body := Config.gcmCrypt g iv data
    let t := s.send (16 + k) p.dst (h ++ leBytes 16 (Config.gcmTag g iv h body).toNat ++ body)
    { t with chord := { t.chord with counters := nset t.chord.counters 0 c ((n + 1) % 2 ^ 64) } }

/-! ## Transactions (R445, R446) -/

/-- Packets of a transaction. -/
def Trans.packets (x : Trans) : Nat := (x.data.length + 2) / 3

/-- Tag of slot k in its present generation. -/
def State.tagOf (s : State) (k : Nat) : Nat := k + nget s.chord.gens 0 k * 2 ^ 20

/-- Packet i of a transaction. -/
def State.transPkt (s : State) (k : Nat) (x : Trans) (i : Nat) : Pkt × List Byte :=
  let w := (x.data.drop (3 * i)).take 3
  (⟨1, if x.last then 4 else 0, x.pkg, x.part, s.tagOf k, i, x.packets, x.quad, x.chan, 0, 0, w.map (·.1)⟩, w.flatMap (·.2))

/-- Packets of the present send leave while the sender has a credit for each not yet paid (R444). -/
def State.pushPkts (k : Nat) : Nat → State → State
  | 0, s => s
  | f + 1, s =>
    match s.trans k with
    | none => s
    | some x => match x.chord with
      | none => s
      | some c =>
        if x.packets ≤ x.sent then s
        else
          let p := s.peerOf x.pkg
          let paid := decide (x.sent < x.paid)
          if !paid && decide (s.creditLimit ≤ nget p.out 0 (c / 32)) then s
          else
            let s1 := if paid then s else s.setPeer x.pkg { p with out := nmod p.out 0 (c / 32) (· + 1) }
            let e := s1.transPkt k x x.sent
            let s2 := s1.emitPkt c e.1 e.2 x.key
            State.pushPkts k f (s2.setTrans k (some { x with sent := x.sent + 1, paid := if paid then x.paid else x.paid + 1 }))

/-- The command that issued a transaction ends with a code, which is logged (R446, R447). -/
def State.failTrans (s : State) (x : Trans) (code : Nat) : State :=
  (s.postPeer code clsR x.pkg (some x.part) (some x.q) (some x.slot)).finish x.q x.slot code 0

/-- Send a whole transaction on the chord that R449 selects now; `count` when the send is one of the three of R446. -/
def State.sendTrans (s : State) (k : Nat) (count : Bool) : State :=
  match s.trans k with
  | none => s
  | some x =>
    if s.keyEmpty x.part x.key then s.failTrans x 0x9061
    else
      let m := if x.sends = 0 then s.get (F.chdRoute_mask x.pkg) else x.mask
      match s.chordOf m x.pkg k x.key.isSome with
      | none => s.setTrans k (some { x with chord := none })
      | some c =>
        let same := match x.chord with | some o => decide (o / 32 = c / 32) | none => false
        let y := { x with chord := some c, mask := m, sent := 0, paid := if same then x.paid else 0
                          sends := if count then x.sends + 1 else x.sends }
        State.pushPkts k 64 (s.setTrans k (some y))

/-- Send again, where fewer than three sends were made (R446, R451). -/
def State.resend (s : State) (k : Nat) : State :=
  match s.trans k with
  | some x => if x.sends < 3 then s.sendTrans k true else s
  | none => s

/-- A free tag slot: its rim and its place in the rim are free values (log entry 3); none when the rim has none. -/
def State.freeTagSlot (s : State) : Option Nat :=
  let v := (Config.freeLane s.freeCtr).toNat
  let base := v % 2 * 2 ^ 19
  let mine := fun (k : Nat) => decide (base ≤ k) && decide (k < base + 2 ^ 19)
  let used := (s.chord.trans.filter fun e => mine e.1).length + (s.chord.holds.filter fun e => mine e.1).length
  ((List.range (used + 1)).map fun i => base + (v / 2 + i) % 2 ^ 19).find? fun k =>
    (s.trans k).isNone && !nget s.chord.holds false k

/-- Words of a descriptor with a space 2 end, and words of one element. -/
def descWpe (d : Nat) : Nat := descElem d / 256
def descTotal (d : Nat) : Nat := descPositions d * descWpe d

/-- Word w of a descriptor to a peer: its header word address and its 256 bytes (R266, R267, Table 111). -/
def State.descWord (s : State) (q d w : Nat) : Nat × List Byte :=
  let p := w / descWpe d
  let i := w % descWpe d
  let a := descSrcAddr d p + i * 256
  (bits (descDstAddr d p + i * 256) 27 8,
    if descPadded d p then (List.range 256).map fun j => BitVec.ofNat 8 (descPad d / 256 ^ ((i * 256 + j) % descPadWidth d))
    else if descSrcSpace d = 1 then ((s.quad q).lat.sector (bits a 27 20)).wordBytes (bits a 19 8)
    else s.bytesAt a 256)

/-- The source of a word is read. -/
def State.readWord (s : State) (q d w : Nat) : State :=
  let p := w / descWpe d
  let a := descSrcAddr d p + w % descWpe d * 256
  if descPadded d p then s else if descSrcSpace d = 1 then s.sectorRead q a else s.countCorr a 256

/-- The first fault of the elements that a range of words touches, with its position. -/
def State.rangeFault (s : State) (q d : Nat) (part : Option Nat) (first count : Nat) : Option (ElemFault × Nat) :=
  let lo := first / descWpe d
  (List.range ((first + count - 1) / descWpe d + 1 - lo)).findSome? fun i =>
    ((((s.elemFault (s.pinned q) d (lo + i) part true).or (s.elemTier d (lo + i))).or
      ((s.elemPoison q d (lo + i)).map fun site => ⟨0x1011, false, site⟩)).map fun f => (f, lo + i))

/-- The next range of words that may become a transaction of up to 64 packets: the one that ends the descriptor waits for
every other acknowledgement (R448). -/
def Desc.range (d : Desc) : Option (Nat × Nat) :=
  let total := descTotal d.bits
  let fresh := if d.next < total then [(d.next, min 192 (total - d.next))] else []
  (d.redo ++ fresh).find? fun r => decide (r.1 + r.2 ≠ total) || decide (d.acked + r.2 = total)

/-- Whether the traffic of a descriptor to a package is encrypted (R448, R457). -/
def State.mustEncrypt (s : State) (q part pkg : Nat) : Bool :=
  s.on (F.chdPartCrypt_req part) ||
    (List.range (imgNpeer (s.image q))).any fun i =>
      decide (secPeer (s.image q) i 8 % 4096 = pkg) && bit (secPeer (s.image q) i 8) 16

/-- Form the next transaction of descriptor id of quadrant q and send it; the Bool says that one was formed. Words of a sector leave
only while the base ports are free for them (R272). -/
def State.formTrans (s : State) (q id : Nat) : State × Bool :=
  match (s.quad q).desc id with
  | none => (s, false)
  | some d =>
    if !d.remote || d.suspended || (descSrcSpace d.bits = 1 && !(s.quad q).portsFree) ||
        (s.get F.ecuSeam_retired ≠ 0 && s.seamBlocked q d) then (s, false)
    else match d.range with
      | none => (s, false)
      | some r =>
        let part := (s.slotPart q d.slot).getD 0
        let enc := s.mustEncrypt q part d.peer
        let key := if enc then some (s.sendKey part) else none
        if (s.chordFor d.peer 0 enc).isNone then (s, false)
        else match s.rangeFault q d.bits (some part) r.1 r.2 with
          | some (f, p) =>
            (((s.freeDesc q id).postElem f q d.slot).finish q d.slot f.code (progressField d.bits 3 p), false)
          | none => match s.freeTagSlot with
            | none => ({ s with freeCtr := s.freeCtr + 1 }, false)
            | some k =>
              let ws := (List.range r.2).map fun i => r.1 + i
              let x : Trans := ⟨q, d.uid, d.slot, part, d.peer, key, decide (r.1 + r.2 = descTotal d.bits), d.quad,
                d.chan.getD 0, r.1, ws.map (s.descWord q d.bits), none, 0, 0, 0, false, 0⟩
              let s0 : State := { s with freeCtr := s.freeCtr + 1 }
              let s1 := (ws.foldl (fun t w => t.readWord q d.bits w) s0).rimBytes q d.slot (r.2 * 256)
              let d1 := if d.redo.contains r then { d with redo := d.redo.erase r } else { d with next := r.1 + r.2 }
              (((s1.modQuad q fun y => y.setDesc id (some d1)).setTrans k (some x)).sendTrans k true, true)

/-- Every transaction that descriptor id of quadrant q can form now. -/
def State.formAll (q id : Nat) : Nat → State → State
  | 0, s => s
  | f + 1, s => match s.formTrans q id with
    | (t, true) => State.formAll q id f t
    | (t, false) => t

/-- The rims' engines go on: transactions that wait for a chord or for credits, then new ones. -/
def State.pump (s : State) : State :=
  let s1 := s.chord.trans.foldl (fun (t : State) e => match t.trans e.1 with
    | some x => if x.chord.isNone then t.sendTrans e.1 (decide (x.sends = 0)) else State.pushPkts e.1 64 t
    | none => t) s
  s1.quads.foldl (fun t e => e.2.descs.foldl (fun u x => match x.2 with
    | some d => if d.remote then State.formAll e.1 x.1 (descTotal d.bits / 192 + 1 + d.redo.length) u else u
    | none => u) t) s1

/-- DESCRIPTOR_COMPLETE (R273): a descriptor to another package goes on with the transactions that it can form now, until its last
element is acknowledged (R446). -/
def State.descGo (s : State) (q id : Nat) : State :=
  match (s.quad q).desc id with
  | none => s
  | some d =>
    if d.remote && decide (d.pos ≠ descPositions d.bits) then
      State.formAll q id (descTotal d.bits / 192 + 1 + d.redo.length) s
    else s.descDone q id

def execDescriptorComplete (q : Fin 32) (id : BitVec 16) (s : State) : Out := .next (s.descGo q id.toNat)

/-- SEND (R166, R445): the step, and the transactions that it can start at once. -/
def execSend (q : Fin 32) (s : State) : Out := .next (s.ungated q 0x10).pump

/-! ## Loss of a peer (R454) -/

/-- Quadrants whose committed section binds an admission of a package. -/
def State.boundTo (s : State) (p adm : Nat) : List Nat :=
  (s.quads.filter fun e => match e.2.committed with | some x => x.peers.contains (p, adm) | none => false).map (·.1)

/-- A peer is lost or evicted: quarantined, its transactions ended, and with them the commands of every section that binds
it (R453, R454). -/
def State.losePeer (s : State) (p : Nat) : State :=
  if s.get (F.chdPeer_state p) ≠ 1 then s
  else
    let qs := s.boundTo p (s.peerOf p).adm
    let works := qs.any fun q => (s.quad q).inProgress
    let s1 := ((s.set (F.chdPeer_state p) 2).setPeer p { s.peerOf p with adm := 0, out := [], owe := [] }).postPeer 0x9030
      (if works then clsR else clsN) p none none none
    let s2 := s1.endTrans fun x => decide (x.pkg = p)
    let s3 := { s2 with chord := { s2.chord with rx := s2.chord.rx.filter fun r => decide (r.pkg ≠ p) } }
    qs.foldl (fun t q => (List.range 8).foldl (fun u n =>
      if (u.cmdOf q n).isSome then u.finish q n 0x9030 0 else u) t) s3

/-- Peers whose effective mask has become zero are lost. -/
def State.checkPeers (s : State) : State :=
  s.admitted.foldl (fun t p => if (t.effMask p false).isEmpty then t.losePeer p else t) s

/-! ## Remap (R451) -/

/-- Transactions whose chord and destination `sel` picks are sent again at once. -/
def State.moveTrans (s : State) (sel : Nat → Nat → Bool) : State :=
  s.chord.trans.foldl (fun (t : State) e => match t.trans e.1 with
    | some x => if (match x.chord with | some c => sel c x.pkg | none => false) then t.resend e.1 else t
    | none => t) s

/-- Chords of a list enter state 0 or 6: CHD:0x020, and for those that were in service CHD:0x021 with the number of admitted
destinations whose masks held them, and the remap (R439, R449, R451). -/
def State.darken (s : State) (ks : List Nat) (st : Nat) : State :=
  let up := ks.filter fun k => s.get (F.chdLinkStat_state k) = 5
  let hit := fun (k : Nat) => (s.admitted.filter fun p => (s.effMask p false).contains k).length
  let s1 := ks.foldl (fun t k =>
    let l := t.link k
    let u := ((t.setLink k { l with version := none, seq := none, fails := 0, replay := false, flits := [] }).set
      (F.chdLinkStat_state k) st).set (F.chdLinkStat_version k) 0
    if up.contains k then (u.set (F.chdRefl_dist_valid k) 0).postChord 0x9020 clsE k k
    else if st = 6 then u.postChord 0x9020 clsE k k else u) s
  let s2 := up.foldl (fun t k => t.postChord 0x9021 clsE k (hit k)) s1
  if up.isEmpty then s2 else ((s2.checkPeers).moveTrans fun c _ => up.contains c).pump

end Sys2Proof.Machine
end

