-- ==== Sys2Proof/Machine/Chord.lean ====
section
/-! DEFINITION. The chords (chapter 14): training (R439 to R442), codewords (R434 to R436), received packets (R446, R447,
R449, R454), timers, peers (R453 to R456), pattern tests and reflectometry (R459, R460). -/

namespace Sys2Proof.Machine

/-! ## Training (R439 to R442) -/

/-- Whether a chord may train: CHD_CFG en, its own en, no test, and +13.0 dBm on every wavelength of its laser input
(R433, R439, R442). -/
def State.mayTrain (s : State) (k : Nat) : Bool :=
  let t := s.get (F.chdLinkCtl_test k)
  s.on F.chdCfg_en && s.on (F.chdLinkCtl_en k) && decide (t ≠ 1 ∧ t ≠ 2) && !s.on F.ecuStat_halted &&
    (decide (k < 32) || !s.ecu.rimS) && (List.range 8).all fun w => decide (1300 ≤ signed 16 (s.get (F.chdLaser_in_pow (k / 16 * 8 + w))))

/-- CHORD_CFG_EN_WRITE (R441). -/
def State.chdCfg (s : State) (v : Lane) : State :=
  let t := s.set F.chdCfg_en (vbits v 31 31)
  if vbit v 31 then t else t.darken (List.range 64) 0

def execChordCfgEnWrite (o : Orig) (v : Lane) (s : State) : Out := .next (s.guard o .pfOnly 0x600004 fun s => s.chdCfg v)

/-- A write of CHD_LINK_CTL (R442): en = 0, retrain, and tests 1 and 2 take the chord to state 0; the pattern checkers run
only under test 1 (R459). -/
def State.linkCtl (s : State) (k : Nat) (v : Lane) : State :=
  let t := (s.set (F.chdLinkCtl_en k) (vbits v 31 31)).set (F.chdLinkCtl_test k) (vbits v 29 28)
  let u := if vbits v 29 28 = 1 then t else (List.range 8).foldl (fun w i => w.set (F.chdPrbsCtl_lock (8 * k + i)) 0) t
  if !vbit v 31 || vbit v 30 || vbits v 29 28 = 1 || vbits v 29 28 = 2 then
    (u.setLink k { u.link k with bounds := 0 }).darken [k] 0
  else u

/-- The write through which all rows of CHD_LINK_CTL go. -/
def State.linkWrite (s : State) (k : Nat) (o : Orig) (v : Lane) : State :=
  s.guard o .pfOnly (0x600100 + k * 0x20) fun s => s.linkCtl k v

/-- CHORD_LINK_EN_WRITE (R442). -/
def execChordLinkEnWrite (k : Fin 64) (o : Orig) (v : Lane) (s : State) : Out := .next (s.linkWrite k o v)
/-- RETRAIN (R442). -/
def execRetrain (k : Fin 64) (o : Orig) (v : Lane) (s : State) : Out := .next (s.linkWrite k o v)
/-- CHORD_TEST_SELECT (R442). -/
def execChordTestSelect (k : Fin 64) (o : Orig) (v : Lane) (s : State) : Out := .next (s.linkWrite k o v)

/-- A chord enters service (R439, R440, R449). -/
def State.chordUp (s : State) (k v : Nat) : State :=
  let t := ((s.set (F.chdLinkStat_state k) 5).set (F.chdLinkStat_version k) v).setLink k { s.link k with bounds := 0 }
  let u := t.postChord 0x9022 clsN k k
  (if v = 2 then u.postChord 0x9023 clsN k k else u).pump

/-- CHORD_TRAIN_ADVANCE (R439): the condition to leave the state is met with every lane lit; in state 0
lanes_ok shows the lanes that have light (R442); states 3 and 4 also need the
capability flit and the version. -/
def State.trainAdvance (s : State) (k lanes : Nat) : State :=
  if s.mayTrain k = false then s
  else if lanes ≠ 0xFF then
    if s.get (F.chdLinkStat_state k) = 0 then s.set (F.chdLinkStat_lanes_ok k) lanes else s
  else
    let t := s.set (F.chdLinkStat_lanes_ok k) lanes
    match s.get (F.chdLinkStat_state k) with
    | 0 => (t.set (F.chdLinkStat_state k) 1).incSat (F.chdLinkStat_trains k) 1
    | 1 => t.set (F.chdLinkStat_state k) 2
    | 2 => t.set (F.chdLinkStat_state k) 3
    | 3 => if (s.link k).version.isSome then t.set (F.chdLinkStat_state k) 4 else s
    | 4 => match (s.link k).version with
      | some v => t.chordUp k v
      | none => s
    | _ => s

def execChordTrainAdvance (k : Fin 64) (lanes : Byte) (s : State) : Out := .next (s.trainAdvance k lanes.toNat)

/-- CAPABILITY_FLIT (R440): the highest version that both ends support, of 2 and 3; with none the chord fails. -/
def State.capability (s : State) (k vlo vhi : Nat) : State :=
  if s.get (F.chdLinkStat_state k) ≠ 3 then s
  else
    let ok := fun (v : Nat) => decide (vlo ≤ v) && decide (v ≤ vhi) && decide (s.get F.chdCfg_ver_min ≤ v) &&
      decide (v ≤ s.get F.chdCfg_ver_max)
    match [3, 2].find? ok with
    | some v => s.setLink k { s.link k with version := some v }
    | none => s.darken [k] 6

def execCapabilityFlit (k : Fin 64) (vlo vhi : Byte) (_pkg : BitVec 12) (_gen : Byte) (_port : BitVec 6) (s : State) : Out :=
  .next (s.capability k vlo.toNat vhi.toNat)

/-- CHORD_TRAIN_BOUND_EXPIRE (R439): back to state 0, and to state 6 at the third time in a row. -/
def State.boundExpire (s : State) (k : Nat) : State :=
  let st := s.get (F.chdLinkStat_state k)
  if st = 0 ∨ 5 ≤ st then s
  else
    let n := (s.link k).bounds + 1
    (s.setLink k { s.link k with bounds := if n < 3 then n else 0 }).darken [k] (if n < 3 then 0 else 6)

def execChordTrainBoundExpire (k : Fin 64) (s : State) : Out := .next (s.boundExpire k)

/-- CHORD_FAILED_RETRAIN (R439). -/
def execChordFailedRetrain (k : Fin 64) (s : State) : Out :=
  .next (if s.get (F.chdLinkStat_state k) = 6 then s.darken [k] 0 else s)

/-- CHORD_LIGHT_LOSS (R439). -/
def State.lightLoss (s : State) (k lane : Nat) : State :=
  let st := s.get (F.chdLinkStat_state k)
  let l := s.get (F.chdLinkStat_lanes_ok k)
  let t := s.set (F.chdLinkStat_lanes_ok k) (if bit l lane then l - 2 ^ lane else l)
  if st = 0 ∨ st = 6 then t else t.darken [k] 0

def execChordLightLoss (k : Fin 64) (lane : Fin 8) (s : State) : Out := .next (s.lightLoss k lane)

/-! ## Receiving packets -/

/-- A packet as it arrived: the bytes of its header flit and of its data flits. -/
structure RxPkt where
  hdr : List Byte
  data : List Byte
  deriving DecidableEq, Repr

def RxPkt.fld (p : RxPkt) (off n : Nat) : Nat := byteField p.hdr off n
def RxPkt.type (p : RxPkt) : Nat := p.fld 0 1
def RxPkt.flags (p : RxPkt) : Nat := p.fld 1 1
def RxPkt.dst (p : RxPkt) : Nat := p.fld 2 2 % 4096
def RxPkt.src (p : RxPkt) : Nat := p.fld 4 2 % 4096
def RxPkt.part (p : RxPkt) : Nat := p.fld 4 2 / 4096
def RxPkt.gen (p : RxPkt) : Nat := p.fld 6 1
def RxPkt.nwords (p : RxPkt) : Nat := p.fld 7 1 / 4
def RxPkt.tag (p : RxPkt) : Nat := p.fld 8 4 % 2 ^ 28
def RxPkt.idx (p : RxPkt) : Nat := p.fld 0xC 1
def RxPkt.cnt (p : RxPkt) : Nat := p.fld 0xD 1
def RxPkt.quad (p : RxPkt) : Nat := p.fld 0xE 1
def RxPkt.chan (p : RxPkt) : Nat := p.fld 0xF 1 % 64
def RxPkt.cause (p : RxPkt) : Nat := p.fld 0x10 1
def RxPkt.credits (p : RxPkt) : Nat := p.fld 0x11 1
def RxPkt.word (p : RxPkt) (w : Nat) : Nat := p.fld (0x18 + 4 * w) 4

/-- The bytes of a flit and of data words. -/
def flitBytes (f : BitVec 512) : List Byte := leBytes 64 f.toNat
def rxPkt (hdr : BitVec 512) (data : List (BitVec 2048)) : RxPkt := ⟨flitBytes hdr, data.flatMap fun w => leBytes 256 w.toNat⟩

/-- Whether a packet belongs to a partition: WRITE, ACK and NACK do. -/
def RxPkt.parted (p : RxPkt) : Bool := decide (1 ≤ p.type) && decide (p.type ≤ 3)

/-- Plain data of a packet that passes its check on chord k, and encryption where R457 requires it (R443, R457); none where
it fails. -/
def State.openPkt (s : State) (k : Nat) (p : RxPkt) : Option (List Byte) :=
  let h := p.hdr.take 0x30
  if bit p.flags 0 then
    let ks := if bit p.flags 1 then s.get (F.chdPartCrypt_slot_b p.part) else s.get (F.chdPartCrypt_slot_a p.part)
    match s.gcmKey ks p.part with
    | none => none
    | some g =>
      let iv := gcmIv p.src p.gen (k / 32) (p.fld 0x24 8)
      if s.get (F.chdLinkStat_version k) = 3 ∧ (Config.gcmTag g iv h p.data).toNat = p.fld 0x30 16 then
        some (Config.gcmCrypt g iv p.data) else none
  else if p.parted && s.on (F.chdPartCrypt_req p.part) then none
  else if p.fld 0x30 8 = (crc64 (h ++ p.data)).toNat ∧ p.fld 0x38 8 = 0 then some p.data
  else none

/-- Answer a WRITE (R446, R447): type 2 ACK or 3 NACK with a cause, returning credits. -/
def State.reply (s : State) (k : Nat) (p : RxPkt) (type cause : Nat) : State :=
  let enc := s.on (F.chdPartCrypt_req p.part)
  match s.chordFor p.src (p.tag % 2 ^ 20) enc with
  | none => s
  | some c =>
    let x := s.peerOf p.src
    let n := if type = 2 then min 255 (nget x.owe 0 (k / 32)) else 0
    let s1 := if n = 0 then s else s.setPeer p.src { x with owe := nmod x.owe 0 (k / 32) (· - n) }
    s1.emitPkt c ⟨type, 0, p.src, p.part, p.tag, p.idx, p.cnt, p.quad, p.chan, cause, n, []⟩ []
      (if enc then some (s.sendKey p.part) else none)

/-- A packet of a package that is not admitted: dropped and counted (R455, R461). -/
def State.dropForeign (s : State) : State := s.inc F.chdDrop_quarantined 1

/-- A stale packet: dropped and counted (R446). -/
def State.dropStale (s : State) : State :=
  { s.inc F.chdDrop_stale 1 with chord := { s.chord with stale := s.chord.stale + 1 } }

/-- Whether a packet's generation is not the one recorded for its source; version-2 chords carry none (R440, R446). -/
def State.genStale (s : State) (k : Nat) (p : RxPkt) : Bool :=
  decide (s.get (F.chdLinkStat_version k) = 3) && decide (p.gen ≠ s.get (F.chdPeer_gen p.src))

/-- The occupant saved in an area of a quadrant whose section binds the source (R424, R447). -/
def State.savedBinding (s : State) (q p : Nat) : Option Saved :=
  ((s.quad q).areas.filterMap (·.2)).find? fun v => v.sectionOf.peers.contains (p, (s.peerOf p).adm)

/-- Whether the section committed in a quadrant, or with none committed the occupant saved of it, binds the source. Where
another section has been committed a saved destination is replaced (R424, R447). -/
def State.bindsSource (s : State) (q p : Nat) : Bool :=
  match (s.quad q).committed with
  | some y => y.peers.contains (p, (s.peerOf p).adm)
  | none => (s.savedBinding q p).isSome

/-- Whether a quadrant is saving, saved or restoring (R424). -/
def State.away (s : State) (q : Nat) : Bool := (s.quad q).committed.isNone || decide (2 ≤ s.get (F.seqPreStat_phase q))

/-- Whether a quadrant's contexts, or those of the occupant saved of it, belong to a partition that its peer mask admits
(R447). -/
def State.partOk (s : State) (q p part : Nat) : Bool :=
  (if (s.quad q).committed.isSome then decide (s.owner q = some part) &&
      (List.range 8).all fun n => match s.slotPart q n with | some x => decide (x = part) | none => true
    else decide ((s.savedBinding q p).map (·.part) = some part)) &&
    bit (s.get (F.chdPeer_part_mask p)) part

/-- The cause of the first condition of R447 that a WRITE of an admitted source fails, in their order; 0 when none. -/
def State.writeCause (s : State) (k : Nat) (p : RxPkt) : Nat :=
  if 32 ≤ p.quad || !s.bindsSource p.quad p.src then 2
  else if !s.partOk p.quad p.src p.part then 3
  else if (s.openPkt k p).isNone then 4
  else if s.away p.quad then 1
  else if (List.range p.nwords).any fun w =>
      decide (2 ^ 20 ≤ p.word w) || !isSector p.quad (bits (p.word w) 19 12) then 6
  else 0

/-- A packet fails its check: counted, and CHD:0x060 logged once per peer and epoch (R447, R461). -/
def State.authFail (s : State) (p : RxPkt) (log : Bool) : State :=
  let t := s.inc F.chdErr_auth 1
  let x := t.peerOf p.src
  if log && !x.logged then
    (t.setPeer p.src { x with logged := true }).postPeer 0x9060 clsN p.src (some p.part) none none
  else t

/-- The words of a WRITE accepted on chord k reach the quadrant's engine (R272, R446, R447); the buffer space is free when they
are committed (R444). -/
def State.commitPkt (s : State) (k : Nat) (p : RxPkt) (data : List Byte) : State :=
  s.rxWords p.quad (((List.range p.nwords).map fun w => ⟨p.word w * 256, (data.drop (w * 256)).take 256, none, none⟩) ++
    [⟨0, [], none, some (k, p.src)⟩])

/-- An accepted WRITE: a packet is taken once; when every packet of the transaction is there, its ACK leaves, its tag is kept
and a channel counts its arrival once its last word is committed (R172, R273, R446, R448). -/
def State.takeWrite (s : State) (k : Nat) (p : RxPkt) (data : List Byte) : State :=
  let mine := fun (r : RxTrans) => decide (r.pkg = p.src) && decide (r.tag % 2 ^ 20 = p.tag % 2 ^ 20)
  let got := match s.chord.rx.find? fun r => mine r && decide (r.tag = p.tag) with
    | some r => r.got
    | none => []
  let rest := s.chord.rx.filter fun r => !mine r
  let s1 := if got.contains p.idx then s.owe k p.src else s.commitPkt k p data
  let now := if got.contains p.idx then got else got ++ [p.idx]
  if now.length < p.cnt then { s1 with chord := { s1.chord with rx := rest ++ [⟨p.src, p.tag, now⟩] } }
  else
    let s2 := { s1 with chord := { s1.chord with rx := rest, kept := s1.chord.kept ++ [(p.src, p.tag)] } }
    let s3 := s2.reply k p 2 0
    if bit p.flags 2 then s3.rxWords p.quad [⟨0, [], some (chanKey true p.chan), none⟩] else s3

/-- A WRITE on chord k (R446, R447, R455). -/
def State.rxWrite (s : State) (k : Nat) (p : RxPkt) : State :=
  match s.get (F.chdPeer_state p.src) with
  | 2 => s.dropForeign
  | 1 =>
    let t := s.owe k p.src
    if s.genStale k p then t.dropStale.reply k p 3 5
    else if s.chord.kept.contains (p.src, p.tag) then (t.inc F.chdErr_dup 1).reply k p 2 0
    else match s.writeCause k p with
      | 0 => s.takeWrite k p ((s.openPkt k p).getD [])
      | 4 => (t.authFail p true).reply k p 3 4
      | c => t.reply k p 3 c
  | _ => s.dropForeign.reply k p 3 5

/-- Credits that a peer returns over chord k (R444). -/
def State.credit (s : State) (k p n : Nat) : State :=
  let x := s.peerOf p
  s.setPeer p { x with out := nmod x.out 0 (k / 32) (· - n) }

/-- What is common to ACK, NACK and PROBE: their source, generation and check (R446, R455, R461). -/
def State.rxPlain (s : State) (k : Nat) (p : RxPkt) (go : State → State) : State :=
  if s.get (F.chdPeer_state p.src) ≠ 1 then s.dropForeign
  else if s.genStale k p then s.dropStale
  else if (s.openPkt k p).isNone then s.authFail p false
  else go s

/-- An ACK or NACK of the present holder of its tag slot; with another generation it is stale (R446). -/
def State.rxTag (s : State) (p : RxPkt) (go : Nat → Trans → State → State) : State :=
  let k := p.tag % 2 ^ 20
  if p.tag / 2 ^ 20 ≠ nget s.chord.gens 0 k then s.dropStale
  else match s.trans k with
    | some x => if x.pkg = p.src then go k x s else s
    | none => s

/-- A transaction is acknowledged: its tag slot is freed and its words are done (R445, R446). -/
def State.acked (s : State) (k : Nat) (x : Trans) : State :=
  (s.freeTag k).modQuad x.q fun y => { y with descs := y.descs.map fun e => (e.1, e.2.map fun d =>
    if d.remote && decide (d.uid = x.uid) then
      let n := d.acked + x.data.length
      { d with acked := n, pos := if descTotal d.bits ≤ n then descPositions d.bits else d.pos }
    else d) }

def State.rxAck (s : State) (k : Nat) (p : RxPkt) : State :=
  s.rxPlain k p fun t => ((t.credit k p.src p.credits).rxTag p fun i x u => u.acked i x).pump

/-- A NACK (R424, R447): busy waits in the engine, or is given back where the sender is itself being saved; stale is left to
the transaction's timeout; a busy destination that is gone ends the command with SEQ:0x0A5. -/
def State.rxNack (s : State) (k : Nat) (p : RxPkt) : State :=
  s.rxPlain k p fun t => t.rxTag p fun i x u =>
    match p.cause with
    | 1 => if 2 ≤ u.get (F.seqPreStat_phase x.q) then u.giveBack i x else u.setTrans i (some { x with busy := true })
    | 2 => if x.busy then (u.postQuad 0x20A5 clsR x.q (some x.slot) none p.quad).finish x.q x.slot 0x20A5 0
        else u.failTrans x 0x9051
    | 3 => u.failTrans x 0x9052
    | 4 => u.failTrans x 0x9060
    | 6 => u.failTrans x 0x9053
    | _ => u

def State.rxProbe (s : State) (k : Nat) (p : RxPkt) : State :=
  s.rxPlain k p fun t => (t.credit k p.src p.credits).pump

/-- A MGMT packet: its message goes to the security block (R501); it needs no admission, so that a peer can be attested
before it is admitted (R453). -/
def State.rxMgmt (s : State) (k : Nat) (p : RxPkt) : State :=
  if s.get (F.chdPeer_state p.src) = 2 then s.dropForeign
  else match s.openPkt k p with
    | none => (s.owe k p.src).authFail p false
    | some b => { s.owe k p.src with chord := { (s.owe k p.src).chord with mgmt := s.chord.mgmt ++ [(p.src, b)] } }

/-- PORT_DOWN and PORT_UP (R443, R449, R451): src is the package whose port changed, chan the switch. -/
def State.rxPort (s : State) (up : Bool) (p : RxPkt) : State :=
  let sw := p.fld 0xF 1 % 64
  let old := nget s.chord.down 0 p.src
  let had := (s.effMask p.src false).contains sw
  let new := if up then (if bit old sw then old - 2 ^ sw else old) else if bit old sw then old else old + 2 ^ sw
  let t := { s with chord := { s.chord with down := nset s.chord.down 0 p.src new } }
  if up then t.pump
  else if had && decide ((s.peerOf p.src).adm ≠ 0) then
    (((t.postChord 0x9021 clsE sw 1).checkPeers).moveTrans fun c d => decide (c = sw) && decide (d = p.src)).pump
  else t

/-- A packet arrives on chord k, addressed to this package where R452 forwards it by dst. -/
def State.rxPacket (s : State) (k : Nat) (p : RxPkt) : State :=
  if s.get (F.chdLinkStat_state k) ≠ 5 ∨ s.on F.ecuStat_halted = true then s
  else if p.type = 6 then s.rxPort false p
  else if p.type = 7 then s.rxPort true p
  else if p.dst ≠ s.get F.chdPkgId_pkg ∨ p.data.length ≠ p.nwords * 256 then s
  else match p.type with
    | 1 => s.rxWrite k p
    | 2 => s.rxAck k p
    | 3 => s.rxNack k p
    | 4 => s.rxProbe k p
    | 5 => s.rxMgmt k p
    | _ => s

/-- The packet of a row, when its type is that of the row. -/
def State.rxRow (s : State) (k type : Nat) (hdr : BitVec 512) (data : List (BitVec 2048)) : State :=
  let p := rxPkt hdr data
  if p.type = type then s.rxPacket k p else s

/-- WRITE_PACKET (R447). -/
def execWritePacket (k : Fin 64) (hdr : BitVec 512) (data : List (BitVec 2048)) (s : State) : Out :=
  .next (s.rxRow k 1 hdr data)
/-- ACK_PACKET (R446). -/
def execAckPacket (k : Fin 64) (hdr : BitVec 512) (s : State) : Out := .next (s.rxRow k 2 hdr [])
/-- NACK_PACKET (R447). -/
def execNackPacket (k : Fin 64) (hdr : BitVec 512) (s : State) : Out := .next (s.rxRow k 3 hdr [])
/-- PROBE_PACKET (R454). -/
def execProbePacket (k : Fin 64) (hdr : BitVec 512) (s : State) : Out := .next (s.rxRow k 4 hdr [])
/-- MGMT_PACKET (R501). -/
def execMgmtPacket (k : Fin 64) (hdr : BitVec 512) (data : List (BitVec 2048)) (s : State) : Out :=
  .next (s.rxRow k 5 hdr data)
/-- PORT_DOWN (R449). -/
def execPortDown (k : Fin 64) (hdr : BitVec 512) (s : State) : Out := .next (s.rxRow k 6 hdr [])
/-- PORT_UP (R449). -/
def execPortUp (k : Fin 64) (hdr : BitVec 512) (s : State) : Out := .next (s.rxRow k 7 hdr [])

/-! ## Codewords (R434 to R436) -/

/-- CRC-8 with generator 0x07 over the 12-bit sequence number, most significant bit first (R434). -/
def crc8 (seq : Nat) : Nat :=
  (List.range 12).foldl (fun c i =>
    let top := (bit c 7) != bit seq (11 - i)
    let sh := c * 2 % 256
    if top then (sh ^^^ 0x07) else sh) 0

/-- The packet flits of a codeword, in order: a packet starts at any flit boundary and may continue in the next codeword; an
idle flit has type 0 (R435). -/
def State.takeFlits (k : Nat) : List (BitVec 512) → State → State
  | [], s => s
  | f :: r, s =>
    let l := s.link k
    let fl := if l.flits.isEmpty && decide (f.toNat % 256 = 0) then [] else l.flits ++ [f]
    match fl with
    | [] => State.takeFlits k r s
    | h :: d =>
      let need := byteField (flitBytes h) 7 1
      if d.length < need then State.takeFlits k r (s.setLink k { l with flits := fl })
      else State.takeFlits k r ((s.setLink k { l with flits := [] }).rxPacket k ⟨flitBytes h, d.flatMap flitBytes⟩)

/-- An uncorrectable codeword (R436): discarded with every later one until its replay; at the third failure of one sequence
number the chord goes down. CHD:0x011 is of class C: once per chord and epoch (R463). -/
def State.badCodeword (s : State) (k : Nat) : State :=
  let l := s.link k
  let s1 := s.inc (F.chdFecCnt_uncorrectable k) 1
  let s2 := if l.logged then s1 else s1.postChord 0x9011 clsC k (l.seq.getD 0)
  let s3 := s2.setLink k { l with replay := true, fails := l.fails + 1, logged := true }
  if 3 ≤ l.fails + 1 then s3.darken [k] 0 else s3

/-- CODEWORD_RECEIVE (R434 to R436): header and flits, none when the decoder could not correct it, and the symbols
corrected. -/
def State.codeword (s : State) (k : Nat) (word : Option (BitVec 20 × List (BitVec 512))) (corrected : Nat) : State :=
  if s.get (F.chdLinkStat_state k) ≠ 5 then s
  else match word with
    | none => s.badCodeword k
    | some (h, flits) =>
      let seq := h.toNat / 256
      let t := (s.inc (F.chdFecCnt_corrected k) corrected).setLink k { s.link k with fec := (s.link k).fec + corrected }
      if crc8 seq ≠ h.toNat % 256 then t.badCodeword k
      else
        let l := t.link k
        if l.seq.isSome ∧ l.seq ≠ some seq then t
        else
          State.takeFlits k (flits.drop 1) (t.setLink k { l with seq := some ((seq + 1) % 4096), fails := 0, replay := false })

def execCodewordReceive (k : Fin 64) (word : Option (BitVec 20 × List (BitVec 512))) (corrected : BitVec 10) (s : State) :
    Out := .next (s.codeword k word corrected.toNat)

/-! ## Timers -/

/-- TRANSACTION_ACK_TIMEOUT (R446). -/
def State.ackTimeout (s : State) (k : Nat) : State :=
  match s.trans k with
  | none => s
  | some x =>
    if x.busy || x.chord.isNone || decide (x.sent < x.packets) then s
    else if x.sends < 3 then s.sendTrans k true else s.failTrans x 0x9050

def execTransactionAckTimeout (slot : BitVec 20) (s : State) : Out := .next (s.ackTimeout slot.toNat)

/-- BUSY_RESEND (R447). -/
def execBusyResend (slot : BitVec 20) (s : State) : Out :=
  .next (match s.trans slot.toNat with
    | some x => if x.busy then s.sendTrans slot.toNat false else s
    | none => s)

/-- TAG_SLOT_HOLD_EXPIRE (R445). -/
def execTagSlotHoldExpire (slot : BitVec 20) (s : State) : Out :=
  .next (({ s with chord := { s.chord with holds := nset s.chord.holds false slot.toNat false } } : State).pump)

/-- KEPT_TAG_EXPIRE (R446). -/
def execKeptTagExpire (pkg : BitVec 12) (tag : BitVec 28) (s : State) : Out :=
  .next { s with chord := { s.chord with kept := s.chord.kept.filter fun e => !decide (e = (pkg.toNat, tag.toNat)) } }

/-- PROBE_SEND (R444, R454): a rim sends a PROBE to every admitted peer over chords taken in turn from its effective mask. -/
def State.probeSend (s : State) (rim : Nat) : State :=
  s.admitted.foldl (fun t p =>
    let x := t.peerOf p
    let l := t.effMask p false
    let i := nget x.turn 0 rim
    match l[i % max 1 l.length]? with
    | none => t
    | some c =>
      let n := min 255 (nget x.owe 0 rim)
      (t.setPeer p { x with owe := nmod x.owe 0 rim (· - n), turn := nset x.turn 0 rim (i + 1) }).emitPkt c
        ⟨4, 0, p, 0, 0, 0, 0, 0, 0, 0, n, []⟩ [] none) s

def execProbeSend (rim : Fin 2) (s : State) : Out := .next (s.probeSend rim).pump

/-! ## Peers (R453 to R456) -/

/-- PEER_SILENCE_TIMEOUT (R454). -/
def execPeerSilenceTimeout (pkg : BitVec 12) (s : State) : Out := .next (s.losePeer pkg.toNat).pump

/-- PEER_QUARANTINE_EXPIRE (R455). -/
def execPeerQuarantineExpire (pkg : BitVec 12) (s : State) : Out :=
  .next (if s.get (F.chdPeer_state pkg.toNat) = 2 then s.set (F.chdPeer_state pkg.toNat) 0 else s)

/-- The registers of a write of CHD_PEER_CTL (R456). -/
def State.peerCtl (s : State) (v : Lane) : State :=
  ((s.set F.chdPeerCtl_op (vbits v 30 28)).set F.chdPeerCtl_gen (vbits v 27 20)).set F.chdPeerCtl_pkg (vbits v 11 0)

/-- ADMIT (R453, R503): only the host admits a peer. -/
def State.peerAdmit (s : State) (o : Orig) (p gen : Nat) : State :=
  let st := s.get (F.chdPeer_state p)
  if o ≠ .pf then s.set F.chdPeerCtl_status 4
  else if st = 1 then s.set F.chdPeerCtl_status 5
  else if st = 2 then s.set F.chdPeerCtl_status 2
  else if s.get (F.secPeerAtt_result p) ≠ 1 ∨ 10000 < s.get (F.secPeerAtt_age_ms p) then s.set F.chdPeerCtl_status 3
  else
    let n := s.chord.admissions + 1
    let t := { s with chord := { s.chord with admissions := n } }.setPeer p { Peer.init with adm := n }
    ((t.set (F.chdPeer_state p) 1).set (F.chdPeer_gen p) gen).set F.chdPeerCtl_status 1

/-- EVICT (R453, R456). -/
def State.peerEvict (s : State) (o : Orig) (p : Nat) : State :=
  if o ≠ .pf then s.set F.chdPeerCtl_status 4
  else if s.get (F.chdPeer_state p) ≠ 1 then s.set F.chdPeerCtl_status 5
  else ((s.losePeer p).set F.chdPeerCtl_status 1).pump

/-- A write of CHD_PEER_CTL. -/
def State.peerWrite (s : State) (o : Orig) (v : Lane) : State :=
  s.guard o .pfOnly 0x614000 fun s =>
    let t := s.peerCtl v
    if !vbit v 31 then t
    else match vbits v 30 28 with
      | 1 => t.peerAdmit o (vbits v 11 0) (vbits v 27 20)
      | 2 => t.peerEvict o (vbits v 11 0)
      | _ => t.set F.chdPeerCtl_status 5

/-- PEER_ADMIT (R453). -/
def execPeerAdmit (o : Orig) (v : Lane) (s : State) : Out := .next (s.peerWrite o v)
/-- PEER_EVICT (R453). -/
def execPeerEvict (o : Orig) (v : Lane) (s : State) : Out := .next (s.peerWrite o v)

/-! ## Pattern tests and reflectometry (R459, R460) -/

/-- PRBS_CHECK_ENABLE (R459): a write of chk_en = 1 zeroes the counters. -/
def State.prbsCtl (s : State) (lane : Nat) (v : Lane) : State :=
  let t := ((s.set (F.chdPrbsCtl_gen_en lane) (vbits v 31 31)).set (F.chdPrbsCtl_chk_en lane) (vbits v 30 30)).set
    (F.chdPrbsCtl_poly lane) (vbits v 29 28)
  let u := t.set (F.chdPrbsCtl_lock lane) 0
  if vbit v 30 then (u.set (F.chdPrbsErr_errors lane) 0).set (F.chdPrbsBits_kbits lane) 0 else u

def execPrbsCheckEnable (lane : Fin 512) (o : Orig) (v : Lane) (s : State) : Out :=
  .next (s.guard o .pfOnly (0x604000 + lane * 0x10) fun s => s.prbsCtl lane v)

/-- PRBS_CHECKER_LOCK (R459): the checker of a lane under test locks, or relocks after the errors and 1,024-bit units that
it has counted since. -/
def State.prbsLock (s : State) (lane errs kb : Nat) (relock : Bool) : State :=
  if s.get (F.chdLinkCtl_test (lane / 8)) ≠ 1 ∨ s.on (F.chdPrbsCtl_chk_en lane) = false then s
  else
    let was := s.on (F.chdPrbsCtl_lock lane)
    if relock != was then s
    else
      let t := if was then (s.incSat (F.chdPrbsErr_errors lane) errs).inc (F.chdPrbsBits_kbits lane) kb else s
      t.set (F.chdPrbsCtl_lock lane) 1

def execPrbsCheckerLock (lane : Fin 512) (errs kbits : BitVec 32) (relock : Bool) (s : State) : Out :=
  .next (s.prbsLock lane errs.toNat kbits.toNat relock)

/-- REFLECTOMETRY_DONE (R442, R460). -/
def execReflectometryDone (k : Fin 64) (dist : BitVec 12) (s : State) : Out :=
  .next (if s.get (F.chdLinkCtl_test k) = 2 then (s.set (F.chdRefl_dist k) dist.toNat).set (F.chdRefl_dist_valid k) 1 else s)

end Sys2Proof.Machine
end

