-- ==== Sys2Proof/Machine/Digest.lean ====
section
/-! DEFINITION. The digest rings in host memory (R341, R342). -/

namespace Sys2Proof.Machine

/-- Ring size of a quadrant's digest ring (R341). -/
def State.digSize (s : State) (q : Nat) : Nat := 2 ^ clampLog (s.get (F.seqDigCfg_log2n q))

/-- DIGEST_ENTRY_WRITE (R342): one entry leaves the post queue. It is discarded while en is 0, dropped and counted at a full
ring, and otherwise written before tail advances; a failed write disables the ring. -/
def State.digestWrite (s : State) (q : Nat) (err : Bool) : State :=
  match (s.quad q).digQueue with
  | [] => s
  | e :: r =>
    let t := (s.modQuad q fun x => { x with digQueue := r }).set (F.seqDigStat_queued q) r.length
    let tail := t.get (F.seqDigTail_tail q)
    let addr := t.get (F.seqDigBase_addr q) * 4096 + tail * 32
    if !t.on (F.seqDigCfg_en q) then t
    else if (tail + 1) % t.digSize q = t.get (F.seqDigHead_head q) % t.digSize q then t.incSat (F.seqDigStat_dropped q) 1
    else if err then
      (t.set (F.seqDigCfg_en q) 0).post ⟨0x2070, clsN, rimN, t.owner q, some q, none, none, 0, addr⟩
    else (t.hostWrite addr e.bytes).set (F.seqDigTail_tail q) ((tail + 1) % t.digSize q)

def execDigestEntryWrite (q : Fin 32) (hostErr : Bool) (s : State) : Out := .next (s.digestWrite q hostErr)

/-- DIG_RING_ENABLE (R341): a write to SEQ_DIG_CFG. -/
def State.digCfg (s : State) (q : Nat) (v : Lane) : State :=
  if s.on (F.seqDigCfg_en q) then s.set (F.seqDigCfg_en q) (vbits v 31 31)
  else
    let t := s.set (F.seqDigCfg_log2n q) (vbits v 4 0)
    if vbit v 31 then
      (((t.set (F.seqDigCfg_en q) 1).set (F.seqDigTail_tail q) 0).set (F.seqDigHead_head q) 0).set (F.seqDigStat_dropped q) 0
    else t

def execDigRingEnable (q : Fin 32) (o : Orig) (v : Lane) (s : State) : Out :=
  .next (s.guardQuad o q (quadBlock q + 0x2008) fun s => s.digCfg q v)

end Sys2Proof.Machine
end

