-- ==== Sys2Proof/Machine/Prefix.lean ====
section
/-! DEFINITION. Prefix reuse (R392, R393): the tree of nodes, each holding one page slot of one prompt, its handles, and
their release. -/

namespace Sys2Proof.Machine

/-- Insert into a list in rising order of a key, after equal keys. -/
def insertBy {α : Type} (key : α → Nat) (x : α) : List α → List α
  | [] => [x]
  | y :: r => if key x < key y then x :: y :: r else y :: insertBy key x r

/-- Sort by a key; elements of equal key keep their order. -/
def sortBy {α : Type} (key : α → Nat) (l : List α) : List α := l.foldl (fun a x => insertBy key x a) []

/-- Take one reference of a pool page. -/
def State.refPage (s : State) (k p : Nat) : State :=
  { s with req := { s.req with pageRefs := nmod s.req.pageRefs 0 (k * 2 ^ 24 + p) (· + 1) } }

/-- References of a pool page. -/
def State.refsOf (s : State) (k p : Nat) : Nat := nget s.req.pageRefs 0 (k * 2 ^ 24 + p)

/-- Release a node: its references, itself and the handles that name it. -/
def State.releaseNode (s : State) (i : Nat) : State :=
  match nget s.req.nodes none i with
  | none => s
  | some n =>
    let t := n.pages.foldl (fun u p => u.dropPage p.1 p.2) s
    let names := fun (e : Nat × Option (Nat × Nat)) => match e.2 with | some h => decide (h.1 = i) | none => false
    ({ t with req := { t.req with
      nodes := nset t.req.nodes none i none
      handles := t.req.handles.filter fun e => !names e } } : State).dec F.reqPfxStat_nodes 1

/-- The nodes that `sel` picks are released. -/
def State.releaseNodes (s : State) (sel : PfxNode → Bool) : State :=
  s.req.nodes.foldl (fun t e => match e.2 with
    | some n => if sel n then t.releaseNode e.1 else t
    | none => t) s

/-- The nodes of a binding's other versions are released (R393). -/
def State.releaseOld (s : State) (b v : Nat) : State :=
  s.releaseNodes fun n => decide (n.binding = b) && decide (n.version ≠ v)

/-- Nodes of pool k that may be evicted: no child, no handle, no request reference. -/
def State.evictable (s : State) (k : Nat) : List (Nat × Nat) :=
  s.req.nodes.filterMap fun e => match e.2 with
    | some n =>
      let child := s.req.nodes.any fun x => match x.2 with | some m => decide (m.parent = some e.1) | none => false
      let handle := s.req.handles.any fun x => match x.2 with | some h => decide (h.1 = e.1) | none => false
      if n.pages.any (fun p => decide (p.1 = k)) && !child && !handle && n.pages.all (fun p => decide (s.refsOf p.1 p.2 = 1)) then
        some (n.used, e.1) else none
    | none => none

/-- Evict from pool k, least recently used first, while its free count is below low_water. -/
def State.evictPool (k : Nat) : Nat → State → State
  | 0, s => s
  | n + 1, s =>
    if s.get (F.reqPoolFree_free k) < s.get (F.reqPoolLow_low_water k) then
      match sortBy (·.1) (s.evictable k) with
      | [] => s
      | e :: _ => State.evictPool k n (s.releaseNode e.2)
    else s

/-- PREFIX_EVICT (R393). -/
def State.evictPfx (s : State) : State :=
  (List.range 32).foldl (fun t k => State.evictPool k t.req.nodes.length t) s

/-- The child of a node whose tokens and pools are these. -/
def State.findChild (s : State) (b v part : Nat) (pools : List Nat) (parent : Option Nat) (toks : List Lane) : Option Nat :=
  s.req.nodes.findSome? fun e => match e.2 with
    | some n =>
      if n.binding = b ∧ n.version = v ∧ n.part = part ∧ n.parent = parent ∧ n.tokens = toks ∧ n.pages.map (·.1) = pools then
        some e.1 else none
    | none => none

/-- The longest chain from the root over at most n page slots of a prompt. -/
def State.pfxChain (s : State) (b v part : Nat) (pools : List Nat) : Nat → Option Nat → List Lane → List Nat
  | 0, _, _ => []
  | n + 1, parent, toks =>
    if toks.length < 256 then []
    else match s.findChild b v part pools parent (toks.take 256) with
      | some i => i :: s.pfxChain b v part pools n (some i) (toks.drop 256)
      | none => []

/-- Note the use of a node. -/
def State.touchNode (s : State) (i : Nat) : State :=
  match nget s.req.nodes none i with
  | some n => { s with req := { s.req with nodes := nset s.req.nodes none i (some { n with used := s.now }) } }
  | none => s

/-- Nodes that the prefix area holds (R392). -/
def State.pfxSize (s : State) : Nat := 2 ^ (max 10 (min 20 (s.get F.reqPfxCfg_log2nodes)))

/-- Insert the nodes of a prompt's whole page slots, slot j with the pages `slots j`; the deepest node (R393). -/
def State.publish (b v part : Nat) (pools : List Nat) (slots : Nat → List (Nat × Nat)) :
    Nat → Nat → Option Nat → List Lane → State → State × Option Nat
  | 0, _, parent, _, s => (s, parent)
  | n + 1, j, parent, toks, s =>
    if toks.length < 256 then (s, parent)
    else match s.findChild b v part pools parent (toks.take 256) with
      | some i => State.publish b v part pools slots n (j + 1) (some i) (toks.drop 256) (s.touchNode i)
      | none =>
        match (List.range s.pfxSize).find? fun i => decide (nget s.req.nodes none i = none) with
        | none => (s, parent)
        | some i =>
          let t := (slots j).foldl (fun u p => u.refPage p.1 p.2) s
          let node : PfxNode := ⟨b, v, part, parent, toks.take 256, slots j, s.now⟩
          let u := ({ t with req := { t.req with nodes := nset t.req.nodes none i (some node) } } : State).inc
            F.reqPfxStat_nodes 1
          State.publish b v part pools slots n (j + 1) (some i) (toks.drop 256) u

/-- Record a handle for a node: a handle present is replaced, and at a full table the least recently used goes (R393). -/
def State.setHandle (s : State) (part h node : Nat) : State :=
  let key := part * 2 ^ 32 + h
  let full := decide (16384 ≤ s.req.handles.length) && (nget s.req.handles none key).isNone
  let lru := (sortBy (fun e => match e.2 with | some x => x.2 | none => 0) s.req.handles).head?
  let old := match lru with
    | some e => if full then nerase s.req.handles e.1 else s.req.handles
    | none => s.req.handles
  { s with req := { s.req with handles := nset old none key (some (node, s.now)) } }

end Sys2Proof.Machine
end

