-- ==== Sys2Proof/Machine/Weights.lean ====
section
/-! DEFINITION. Decoding the stored bytes of a weight shard (R296 to R301, R304): blocks, the canonical prefix code, BF16
quantisation and the deposit layouts of Table 80. -/

namespace Sys2Proof.Machine

/-- Decoded weights in source order: bits of one weight (4 or 8), their patterns, and the scale of each group of 32. -/
structure Decoded where
  width : Nat
  vals : List Nat
  scales : List Nat
  deriving DecidableEq, Repr

/-! ## Mode 1 (R298) -/

/-- Symbols in code order: ascending length, then ascending symbol. -/
def codeOrder (len : Nat → Nat) : List Nat :=
  (List.range 15).flatMap fun l => (List.range 16).filter fun s => decide (len s = l + 1)

/-- The canonical codes of a list of symbols: (length, code, symbol); `code` and `prev` as the rule's program holds them. -/
def assignCodes (len : Nat → Nat) : List Nat → Nat → Nat → List (Nat × Nat × Nat)
  | [], _, _ => []
  | s :: r, code, prev =>
    let c := if prev = 0 then code else (code + 1) * 2 ^ (len s - prev)
    (len s, c, s) :: assignCodes len r c (len s)

/-- Whether the lengths form a code (R298). -/
def lengthsOk (len : Nat → Nat) : Bool :=
  let used := (List.range 16).filter fun s => decide (len s ≠ 0)
  (decide (used.length = 1) && used.all fun s => decide (len s = 1)) ||
    decide ((used.map fun s => 2 ^ (15 - len s)).sum = 2 ^ 15)

/-- Bits of a byte string, most significant first. -/
def bitStream (b : List Byte) : List Bool := b.flatMap fun x => (List.range 8).map fun i => x.getLsbD (7 - i)

/-- Decode `n` symbols; the bits after the last are zero. `acc` and `k` are the code bits read so far and their number. -/
def decodeCodes (tbl : List (Nat × Nat × Nat)) : List Bool → Nat → Nat → Nat → Option (List Nat)
  | [], n, _, k => if n = 0 ∧ k = 0 then some [] else none
  | x :: r, n, acc, k =>
    if n = 0 then if x then none else decodeCodes tbl r 0 0 0
    else
      let a := 2 * acc + if x then 1 else 0
      match tbl.find? fun e => decide (e.1 = k + 1) && decide (e.2.1 = a) with
      | some e => (decodeCodes tbl r (n - 1) 0 0).map (e.2.2 :: ·)
      | none => if 15 ≤ k + 1 then none else decodeCodes tbl r n a (k + 1)

/-! ## Mode 3 (R304) -/

/-- Round to nearest even of n / 2^k. -/
def rneShift (n k : Nat) : Nat :=
  let q := n / 2 ^ k
  let r := n % 2 ^ k
  if 2 ^ k < 2 * r ∨ (2 * r = 2 ^ k ∧ q % 2 = 1) then q + 1 else q

/-- Magnitude of a BF16 as significand × 2^exponent; a subnormal reads as zero. -/
def bfMag (x : Nat) : Nat × Int :=
  if bits x 14 7 = 0 then (0, 0) else (128 + bits x 6 0, (bits x 14 7 : Int) - 134)

/-- Whether m × 2^x ≤ m' × 2^x'. -/
def magLe (a b : Nat × Int) : Bool :=
  if b.2 ≤ a.2 then decide (a.1 * 2 ^ (a.2 - b.2).toNat ≤ b.1) else decide (a.1 ≤ b.1 * 2 ^ (b.2 - a.2).toNat)

/-- A group of 32 BF16 weights quantised with limit Q: scale byte and patterns of `width` bits; none on NaN or infinity. -/
def quantGroup (Q width : Nat) (g : List Nat) : Option (Nat × List Nat) :=
  if g.any fun x => decide (bits x 14 7 = 255) then none
  else
    let top := (g.map bfMag).foldl (fun a b => if magLe a b then b else a) (0, 0)
    if top.1 = 0 then some (0, g.map fun _ => 0)
    else
      let d := ((List.range 16).find? fun d => decide (top.1 ≤ Q * 2 ^ d)).getD 0
      let b := (top.2 + d + 127).toNat
      some (b, g.map fun x =>
        let m := bfMag x
        let t := m.2 + 127 - (b : Int)
        let q := if 0 ≤ t then m.1 * 2 ^ t.toNat else rneShift m.1 (-t).toNat
        if bit x 15 ∧ q ≠ 0 then 2 ^ width - q else q)

/-! ## Blocks (R297) -/

/-- Split a list into chunks of n. -/
def chunks {α : Type} (n : Nat) : Nat → List α → List (List α)
  | 0, _ => []
  | k + 1, l => l.take n :: chunks n k (l.drop n)

/-- Nibbles of a byte string, low first. -/
def nibbles (b : List Byte) : List Nat := b.flatMap fun x => [x.toNat % 16, x.toNat / 16]

/-- One block of `n` weights: its mode, weights, scales and length in bytes. -/
def decodeBlock (target n : Nat) (b : List Byte) : Option (Nat × Decoded × Nat) :=
  let mode := byteField b 0 1
  let nq := byteField b 1 1
  let plen := byteField b 2 2
  let L := byteField b 4 8
  let len := fun s => bits L (4 * s + 3) (4 * s)
  let sl := if mode = 3 then 0 else 32 * nq
  let size := 16 + sl + plen
  let whole := (size + 15) / 16 * 16
  let scales := ((b.drop 16).take sl).map (·.toNat)
  let pay := (b.drop (16 + sl)).take plen
  let okHead := decide (nq * 1024 = n) && decide (byteField b 0xC 4 = 0) && decide (mode = 1 ∨ L = 0) &&
    decide (whole ≤ b.length) && ((b.drop size).take (whole - size)).all (fun x => x = 0)
  if !okHead then none
  else match mode with
    | 0 => if plen = 512 * nq then some (0, ⟨4, nibbles pay, scales⟩, whole) else none
    | 1 => if lengthsOk len then
        (decodeCodes (assignCodes len (codeOrder len) 0 0) (bitStream pay) n 0 0).map fun v => (1, ⟨4, v, scales⟩, whole)
      else none
    | 2 => if plen = 1024 * nq then some (2, ⟨8, pay.map (·.toNat), scales⟩, whole) else none
    | 3 =>
      if plen ≠ 2048 * nq then none
      else
        let w := if target = 1 then 8 else 4
        let xs := (List.range n).map fun i => byteField pay (2 * i) 2
        let gs := (chunks 32 (n / 32) xs).map (quantGroup (if target = 1 then 127 else 7) w)
        if gs.any (·.isNone) then none
        else
          let g := gs.filterMap id
          some (3, ⟨w, g.flatMap (·.2), g.map (·.1)⟩, whole)
    | _ => none

/-- The blocks of a shard of n weights: modes 0 and 1 only, 2 only, or 3 only. -/
def decodeBlocks (target : Nat) : Nat → Nat → List Byte → Option (List Nat × Decoded)
  | 0, n, b => if n = 0 ∧ b = [] then some ([], ⟨4, [], []⟩) else none
  | k + 1, n, b =>
    if n = 0 then if b = [] then some ([], ⟨4, [], []⟩) else none
    else match decodeBlock target (min n 4096) b with
      | none => none
      | some (m, d, used) =>
        (decodeBlocks target k (n - min n 4096) (b.drop used)).map fun r =>
          (m :: r.1, ⟨d.width, d.vals ++ r.2.vals, d.scales ++ r.2.scales⟩)

/-! ## Shards (Table 78) -/

abbrev ShardEntry := Nat
def ShardEntry.primary (e : ShardEntry) : Nat := bits e 63 0
def ShardEntry.replica (e : ShardEntry) : Nat := bits e 127 64
def ShardEntry.digest (e : ShardEntry) : Nat := bits e 191 128
def ShardEntry.storedLen (e : ShardEntry) : Nat := bits e 223 192
def ShardEntry.form (e : ShardEntry) : Nat := bits e 231 224
def ShardEntry.layout (e : ShardEntry) : Nat := bits e 226 224
def ShardEntry.isSigned (e : ShardEntry) : Bool := bit e 227
def ShardEntry.target (e : ShardEntry) : Nat := bits e 229 228
def ShardEntry.depositOff (e : ShardEntry) : Nat := bits e 319 256
def ShardEntry.kLen (e : ShardEntry) : Nat := bits e 343 320
def ShardEntry.nLen (e : ShardEntry) : Nat := bits e 367 344

/-- Slice width of a layout. -/
def sliceWidth (layout : Nat) : Nat := if layout = 1 then 64 else if layout = 2 then 16 else 1

/-- Fields of a shard entry that an FL2 image has too (R296, R301). -/
def ShardEntry.plainOk (e : ShardEntry) : Bool :=
  decide (16 ≤ e.storedLen ∧ e.storedLen ≤ 2 ^ 26 ∧ e.storedLen % 16 = 0) && bits e 255 232 = 0 && bits e 383 368 = 0 &&
    e.depositOff % 256 = 0 && e.kLen % 32 = 0

/-- Fields of a shard entry (R296). -/
def ShardEntry.ok (e : ShardEntry) : Bool :=
  e.plainOk && decide (e.layout ≤ 2) && bits e 231 230 = 0 && e.nLen % sliceWidth e.layout = 0 && e.kLen * e.nLen % 1024 = 0 && decide (0 < e.kLen * e.nLen)

/-- Weights, widths and scales of a shard's stored bytes. -/
def decodeShard (e : ShardEntry) (b : List Byte) : Option Decoded :=
  match decodeBlocks e.target (b.length / 16 + 1) (e.kLen * e.nLen) b with
  | none => none
  | some (modes, d) =>
    let low := modes.all (fun m => decide (m ≤ 1))
    let ok := if low || modes.all (fun m => decide (m = 2)) then decide (e.target = 0)
      else modes.all (fun m => decide (m = 3)) && (e.target = 1 || e.target = 2) && e.isSigned
    if ok then some d else none

/-! ## Deposit layouts (R66, R299, Table 80) -/

/-- Pack patterns of 4 or 8 bits into bytes, the lower k in the low nibble. -/
def packVals (width : Nat) : List Nat → List Byte
  | [] => []
  | [a] => [BitVec.ofNat 8 a]
  | a :: b :: r =>
    if width = 8 then BitVec.ofNat 8 a :: packVals width (b :: r) else BitVec.ofNat 8 (a + 16 * b) :: packVals width r

/-- Zero bytes up to a multiple of 256. -/
def pad256 (b : List Byte) : List Byte := b ++ List.replicate ((256 - b.length % 256) % 256) 0

/-- The words of one k-block of a slice, whose groups are given by column or row: the scale word, then data words of `per`
elements of k of each column or row. -/
def blockWords (width per : Nat) (groups : List (List Nat)) (scales : List Nat) : List Byte :=
  pad256 (scales.map (BitVec.ofNat 8)) ++
    (List.range (32 / per)).flatMap fun w => groups.flatMap fun g => packVals width ((g.drop (per * w)).take per)

/-- The deposited bytes of a shard (R299). -/
def depositBytes (layout : Nat) (d : Decoded) : List Byte :=
  let groups := chunks 32 (d.vals.length / 32) d.vals
  if layout = 0 then groups.flatMap (packVals d.width) ++ pad256 (d.scales.map (BitVec.ofNat 8))
  else
    let w := sliceWidth layout
    let per := (if layout = 1 then 4 else 16) * if d.width = 4 then 2 else 1
    let n := groups.length / w
    (List.zip (chunks w n groups) (chunks w n d.scales)).flatMap fun b => blockWords d.width per b.1 b.2

/-- What a shard of an image deposits (R301: the bytes of an FL2 shard as they are); none for invalid content. -/
def shardDeposit (fl2 : Bool) (e : ShardEntry) (b : List Byte) : Option (List Byte) :=
  if fl2 then
    if e.plainOk && e.storedLen % 256 = 0 then some b else none
  else if e.ok then (decodeShard e b).map (depositBytes e.layout) else none

end Sys2Proof.Machine
end

