-- ==== Sys2Proof/Machine/Ingest.lean ====
section
/-! DEFINITION. Model bindings and ingest (chapter 9): the binding operations (R308 to R310), shard attempts and deposits
(R302 to R307), layer commits, replacement and rollback (R315 to R318). -/

namespace Sys2Proof.Machine

/-! ## Images (R294, R295, R301, R310) -/

def isFl2 (magic : Nat) : Bool := decide (magic = 0x00324C46)

/-- Whether the directory entry of layer l is valid (R295, R301). -/
def State.dirOk (s : State) (image l : Nat) (fl2 : Bool) : Bool :=
  let k := s.dirKind image l
  let n := s.dirShards image l
  s.dirTable image l % 256 = 0 && s.memNat (image + 0x115 + 32 * l) 3 = 0 && s.dirLen image l % 256 = 0 &&
    decide (1 ≤ n) && (decide (k = 0 ∧ n ≤ 1024) || (!fl2 && decide (k = 1 ∧ n ≤ 2 ^ 24)))

/-- The checks of R310 on an image and its placement list: the number of layers, or the code. -/
def State.imageCheck (s : State) (addr place part : Nat) : Except Nat Nat :=
  if !s.readable addr 256 (some part) then .error 0x7012
  else
    let n := s.memNat (addr + 0x18) 2
    let magic := s.memNat addr 4
    let isa := s.memNat (addr + 4) 1
    let count := decide (1 ≤ n ∧ n ≤ 4096)
    if count && !s.readable (addr + 0x100) (32 * n) (some part) then .error 0x7012
    else if 0x30 < isa then .error 0x7010
    else
      let kind := magic = 0x33535747 || (isFl2 magic && decide (0x20 ≤ isa ∧ isa ≤ 0x2F))
      let zeros := s.memNat (addr + 5) 3 = 0 && s.memNat (addr + 0x1A) 230 = 0
      let dir := decide ((crc64 (s.bytesAt (addr + 0x100) (32 * n))).toNat = s.memNat (addr + 0x10) 8) &&
        (List.range n).all fun l => s.dirOk addr l (isFl2 magic)
      let list := s.readable place (16 * n) (some part) &&
        (List.range (2 * n)).all fun i => s.memNat (place + 8 * i) 8 % 256 = 0
      if kind && zeros && count && dir && list then .ok n else .error 0x7011

/-- The placement list as read at acceptance (R309). -/
def State.placeList (s : State) (place n : Nat) : NMap (Nat × Nat) :=
  (List.range n).foldl (fun m l => nset m (0, 0) l (s.memNat (place + 16 * l) 8, s.memNat (place + 16 * l + 8) 8)) []

/-! ## Bindings -/

/-- Log an ingest event of binding b (R323, R556; log entry 16). -/
def State.postIng (s : State) (code cls u b l shard c : Nat) : State :=
  s.post ⟨code, cls, if u = 0 then rimN else rimS, some (s.bind b).part, none, none, some u, 0, ingArg b l shard c⟩

/-- Log an ingest event about a shard or a destination: its entry, then one of the same code whose arg is the address (R323, log
entry 16). -/
def State.postIngAt (s : State) (code cls u b l shard c addr : Nat) : State :=
  (s.postIng code cls u b l shard c).post
    ⟨code, cls, if u = 0 then rimN else rimS, some (s.bind b).part, none, none, some u, 0, addr⟩

/-- committed and failed of ING_BIND_STAT (R308). -/
def State.recount (s : State) (b : Nat) : State :=
  let l := (s.bind b).layers
  (s.set (F.ingBindStat_committed b) (l.filter fun e => e.2.c0.isSome).length).set (F.ingBindStat_failed b)
    (l.filter fun e => decide (e.2.fail ≠ 0)).length

/-- The version after the one in force, skipping 0 (R310). -/
def State.nextVersion (s : State) (b : Nat) : Nat :=
  let v := (s.get (F.ingBindStat_version b) + 1) % 65536
  if v = 0 then 1 else v

/-- The queue of a LOAD has ended: ready or incomplete (Table 81). -/
def State.loadEnd (s : State) (b : Nat) : State :=
  if s.get (F.ingBindStat_state b) = 1 && !s.ing.loads.any (fun y => !y.dead && y.queued && decide (y.bind = b)) then
    s.set (F.ingBindStat_state b) (if s.get (F.ingBindStat_failed b) = 0 then 2 else 3)
  else s

/-- Change one layer of a binding. -/
def State.modLayer (s : State) (b l : Nat) (f : Layer → Layer) : State :=
  let x := s.bind b
  (s.setBind b (x.setLayer l (f (x.layer l)))).recount b

/-- A live request whose service names binding b, and one that is bound to a version of it. -/
def State.reqOf (s : State) (b : Nat) (e : ReqEntry) : Bool :=
  decide (2 ≤ e.state) && decide (imgByte (nget s.req.services [] e.service) 4 = b)
def State.reqBound (s : State) (b : Nat) (e : ReqEntry) : Bool := s.reqOf b e && decide (e.version ≠ 0)

/-- Whether some command in progress, running or saved, satisfies a condition. -/
def State.anyCmd (s : State) (f : Cmd → Bool) : Bool :=
  let has := fun (m : NMap Slot) => m.any fun e => match e.2.cmd with | some c => f c | none => false
  s.quads.any fun e => has e.2.slots || e.2.areas.any fun a => match a.2 with | some x => has x.slots | none => false

def Cmd.boundTo (c : Cmd) (b : Nat) : Bool := (nkeys c.versions).contains b

/-- A refused operation: only code changes (R310). -/
def State.bindRefuse (s : State) (b code : Nat) : State :=
  (s.set (F.ingBindStat_code b) code).postIng code clsN 0 b 0 0 0

/-- A layer where a new placement list puts it: it is not committed at a destination that has moved (R309). -/
def Layer.moved (y : Layer) (old new : Nat × Nat) : Layer :=
  let c0 := if old.1 = new.1 then y.c0 else none
  { y with c0 := c0, c1 := if old.2 = new.2 then y.c1 else none }

/-- The layers of a binding under a new placement list. -/
def Bind.replace (x : Bind) (place : NMap (Nat × Nat)) : Bind :=
  { x with
    place := place
    layers := (x.layers.map fun e => (e.1, e.2.moved (nget x.place (0, 0) e.1) (nget place (0, 0) e.1))).filter fun e =>
      !decide (e.2 = Layer.init) }

/-- LOAD from a permitted state (Table 81), or the code of its refusal. -/
def State.bindLoad (s : State) (b part : Nat) : Except Nat State :=
  let image := s.get (F.ingBindImage_addr b) * 256
  let place := s.get (F.ingBindPlace_addr b) * 256
  match s.imageCheck image place part with
  | .error c => .error c
  | .ok n =>
    let first := s.get (F.ingBindStat_state b) = 0
    let v := s.nextVersion b
    let x := s.bind b
    let z := x.replace (s.placeList place n)
    let y : Bind := { z with part := part, image := image, n := n, layers := if first then [] else z.layers }
    let s1 := (s.setBind b y).recount b
    let s2 := if first then (s1.set (F.ingBindStat_version b) v).releaseOld b v else s1
    let want := (List.range n).filter fun l =>
      let p := nget y.place (0, 0) l
      decide (p.1 ≠ 0) && ((y.layer l).c0.isNone || (decide (p.2 ≠ 0) && (y.layer l).c1.isNone))
    .ok ((want.foldl (fun t l => t.queueLoad (Load.fresh b l (nget y.place (0, 0) l).1 image .queue [] true))
      (s2.set (F.ingBindStat_state b) 1)).loadEnd b)

/-- REPLACE (Table 81, R316): the replacement has IMAGE's shape. Its placement list is that of the new version (R309). -/
def State.bindReplace (s : State) (b : Nat) : Except Nat State :=
  let x := s.bind b
  let next := s.get (F.ingBindNext_addr b) * 256
  let place := s.get (F.ingBindPlace_addr b) * 256
  match s.imageCheck next place x.part with
  | .error c => .error c
  | .ok n =>
    let same := decide (n = x.n) && (List.range n).all fun l => decide (s.dirLen next l = s.dirLen x.image l)
    if !same || s.get (F.ingBindStage_addr b) = 0 then .error 0x7011
    else .ok ((s.setBind b { x with next := next, other := s.placeList place n, replaced := [] }).set (F.ingBindStat_state b) 4)

/-- UNLOAD (Table 81). -/
def State.bindUnload (s : State) (b : Nat) : Except Nat State :=
  let used := s.anyCmd (fun c => c.windows.any fun w => match w.2 with | some v => decide (v.bind = b) | none => false) ||
    s.req.entries.any fun e => s.reqBound b e.2
  if used then .error 0x7013
  else
    let t := s.setBind b { s.bind b with layers := [], replaced := [] }
    let loads := t.ing.loads.map fun y => if y.bind = b then { y with dead := true } else y
    .ok ((({ t with ing := { t.ing with loads := purgeLoads loads } } : State).recount b).set (F.ingBindStat_state b) 0)

/-! ## Replacement (R316 to R318) -/

/-- Commands that an occupant saved in an area has bound to binding b end with a code: their completions, and their slots free when
the occupant comes back (R318). -/
def State.endSavedBound (s : State) (b code : Nat) : State :=
  s.quads.foldl (fun t e => e.2.areas.foldl (fun t a => match a.2 with
    | none => t
    | some x =>
      let mine := x.slots.filter fun w => match w.2.cmd with | some c => c.boundTo b | none => false
      if mine.isEmpty then t
      else
        let u := mine.foldl (fun u w => match w.2.cmd with
          | some c => (u.complete e.1 w.1 c.tag code false).breakGroups e.1 x.sectionOf.bytes c code 0
          | none => u) t
        let off := mine.flatMap fun w => [F.seqPc_active e.1 w.1, F.seqPc_held e.1 w.1, F.seqPc_kind e.1 w.1]
        let y := { x with
          slots := mine.foldl (fun m w => nset m Slot.init w.1 { w.2 with cmd := none }) x.slots
          descs := x.descs.filter fun d => !mine.any fun w => w.1 = d.2.slot
          timed := x.timed.filter fun d => !mine.any fun w => w.1 = d.slot
          regs := off.foldl (fun m f => nset m 0 f.key 0) x.regs }
        u.modQuad e.1 fun z => { z with areas := nset z.areas none a.1 (some y) }) t) s

/-- Rollback has failed: the binding fails and everything that uses it ends (R318). -/
def State.bindFail (s : State) (b : Nat) : State :=
  let t := (s.set (F.ingBindStat_state b) 7).postIng 0x7041 clsR 0 b 0 0 0
  let u := t.endCommands 0x7041 fun q n => match t.cmdOf q n with | some c => c.boundTo b | none => false
  (u.endSavedBound b 0x7041).endRequests 0x7041 fun e => t.reqOf b e

/-- The destinations of layer l change places with those of the other list. -/
def Bind.turn (x : Bind) (l : Nat) : Bind :=
  let a := nget x.place (0, 0) l
  { x with place := nset x.place (0, 0) l (nget x.other (0, 0) l), other := nset x.other (0, 0) l a }

/-- The streaming windows of a command over binding b have nothing of it yet. -/
def Cmd.emptyStreams (c : Cmd) (b : Nat) : Cmd :=
  { c with windows := c.windows.map fun w => (w.1, w.2.map fun v =>
      if v.streaming ∧ v.bind = b then { v with here := [] } else v) }

/-- What windows that are not bound to the old version have of it is void once the new one is in force, and is requested again (R315,
R317): loads of the old image, and layers streamed from it. -/
def State.renewWindows (s : State) (b : Nat) : State :=
  let next := (s.bind b).image
  let old := fun (y : Load) => decide (y.bind = b) && decide (y.image ≠ next) && !y.dead
  let bound := fun (e : Nat) => match s.cmdOf (e / 64) (e / 8 % 8) with | some c => c.boundTo b | none => false
  let t : State := { s with ing := { s.ing with loads := purgeLoads (s.ing.loads.map fun y =>
    if old y then { y with resident := false, wins := y.wins.filter bound, dead := !y.wins.any bound } else y) } }
  (List.range 32).foldl (fun t q => (List.range 8).foldl (fun t n => match t.cmdOf q n with
    | none => t
    | some c =>
      if c.boundTo b || !c.windows.any fun w => match w.2 with | some v => decide (v.bind = b) | none => false then t
      else c.windows.foldl (fun u w => match w.2 with
        | some v => if v.bind = b then u.requestLayers (winEntry q n w.1) v v.pos v.size else u
        | none => u) (t.modCmd q n fun d => d.emptyStreams b)) t) t

/-- The next layer of a write, or the switch to the new version when none is left (R317). -/
def State.writeNext (s : State) (b l : Nat) : State :=
  let x := s.bind b
  match (List.range x.n).find? fun k => decide (l ≤ k) && !x.replaced.contains k && decide ((nget x.other (0, 0) k).1 ≠ 0) with
  | some k => s.queueLoad (Load.fresh b k (s.get (F.ingBindStage_addr b) * 256) x.next .write [] false)
  | none =>
    let v := s.nextVersion b
    let y := ((List.range x.n).filter fun k => !x.replaced.contains k).foldl (fun (z : Bind) k =>
      if nget z.place (0, 0) k = nget z.other (0, 0) k then z
      else { z.turn k with layers := nset z.layers Layer.init k Layer.init }) x
    let t := (s.setBind b { y with image := x.next, other := [], replaced := [] }).set (F.ingBindImage_addr b) (x.next / 256)
    ((((t.recount b).set (F.ingBindStat_version b) v).set (F.ingBindStat_state b) 2).releaseOld b v).renewWindows b

/-- The next layer of a rollback, or its end (R318). A layer that has no resident place in the old list is only put back. -/
def State.backNext (s : State) (b l : Nat) : State :=
  let x := s.bind b
  match (List.range x.n).find? fun k => decide (l ≤ k) && x.replaced.contains k && decide ((nget x.other (0, 0) k).1 ≠ 0) with
  | some k => s.queueLoad (Load.fresh b k (s.get (F.ingBindStage_addr b) * 256) x.image .back [] false)
  | none =>
    let y := (x.replaced.filter fun k => decide ((nget x.other (0, 0) k).1 = 0)).foldl (fun (z : Bind) k =>
      { z.turn k with layers := nset z.layers Layer.init k Layer.init }) x
    (((s.setBind b { y with other := [], replaced := [] }).recount b).set (F.ingBindStat_state b) 2).postIng 0x7040 clsN 0 b 0 0 0

/-- Loads of a binding of a kind stop. -/
def State.dropLoads (s : State) (b : Nat) (k : LoadKind) : State :=
  let l := s.ing.loads.map fun y => if y.bind = b ∧ y.kind = k then { y with dead := true } else y
  { s with ing := { s.ing with loads := purgeLoads l } }

/-- Rollback starts (R318). -/
def State.rollback (s : State) (b : Nat) : State :=
  ((s.dropLoads b .write).set (F.ingBindStat_state b) 6).backNext b 0

/-- CANCEL (Table 81). -/
def State.bindCancel (s : State) (b : Nat) : State :=
  let st := s.get (F.ingBindStat_state b)
  let t := s.postIng 0x7042 clsN 0 b 0 0 0
  if st = 1 then
    let stop := fun (y : Load) => decide (y.bind = b) && y.queued && !y.started && !y.dead
    let l := (t.ing.loads.filter fun y => !(stop y && decide (y.kind = .queue))).map fun y =>
      if stop y then { y with queued := false } else y
    ({ t with ing := { t.ing with loads := l } } : State).loadEnd b
  else if st = 4 then t.set (F.ingBindStat_state b) 2
  else t.rollback b

/-- A write to ING_BIND_CTL (R308, R310): a refused operation changes nothing but code. -/
def State.bindCtl (s : State) (b : Nat) (o : Orig) (v : Lane) : State :=
  let s1 := (s.set (F.ingBindCtl_part b) (vbits v 11 8)).set (F.ingBindCtl_op b) (vbits v 3 0)
  if !vbit v 31 then s1
  else
    let st := s1.get (F.ingBindStat_state b)
    let op := vbits v 3 0
    let part := if op = 1 ∧ st = 0 then vbits v 11 8 else (s1.bind b).part
    let states := match op with | 1 => [0, 2, 3] | 2 => [2] | 3 => [2, 3, 7] | 4 => [1, 4, 5] | _ => []
    let r : Except Nat State :=
      if !states.contains st || !s1.actsFor o part then .error 0x7013
      else match op with
        | 1 => s1.bindLoad b part
        | 2 => s1.bindReplace b
        | 3 => s1.bindUnload b
        | _ => .ok (s1.bindCancel b)
    match r with
    | .ok t => t
    | .error c => s.bindRefuse b c

/-- Scope of the registers of a binding (Table 121). -/
def State.bindScope (s : State) (b : Nat) : Scope :=
  .part (some (if s.get (F.ingBindStat_state b) = 0 then s.get (F.ingBindCtl_part b) else (s.bind b).part))

def bindCtlOff (b : Nat) : Nat := 0x410020 + b * 0x40

/-- A write to ING_BIND_CTL by an originator: one that starts an operation is checked by R310, which logs ING:0x013 for a partition
that the originator does not act for (R492). -/
def State.bindOp (s : State) (b : Nat) (o : Orig) (v : Lane) : State :=
  s.guard o (if vbit v 31 then .perOp else s.bindScope b) (bindCtlOff b) fun s => s.bindCtl b o v

/-- BIND_LOAD (R310). -/
def execBindLoad (b : Fin 256) (o : Orig) (v : Lane) (s : State) : Out :=
  .next (s.bindOp b o v)
/-- BIND_REPLACE (R310, R316). -/
def execBindReplace (b : Fin 256) (o : Orig) (v : Lane) (s : State) : Out :=
  .next (s.bindOp b o v)
/-- BIND_UNLOAD (R310). -/
def execBindUnload (b : Fin 256) (o : Orig) (v : Lane) (s : State) : Out :=
  .next (s.bindOp b o v)
/-- BIND_CANCEL (R310, R318). -/
def execBindCancel (b : Fin 256) (o : Orig) (v : Lane) (s : State) : Out :=
  .next (s.bindOp b o v)

/-- BIND_DRAIN_COMPLETE (R316): nothing bound to the old version is left. -/
def State.drainEnd (s : State) (b : Nat) : State :=
  if s.get (F.ingBindStat_state b) ≠ 4 || s.anyCmd (·.boundTo b) || s.req.entries.any fun e => s.reqBound b e.2 then s
  else (s.set (F.ingBindStat_state b) 5).writeNext b 0

def execBindDrainComplete (b : Fin 256) (s : State) : Out := .next (s.drainEnd b)

/-! ## Layer loads -/

/-- Change one load. -/
def State.modLoad (s : State) (x : Load) (f : Load → Load) : State :=
  { s with ing := { s.ing with loads := purgeLoads (s.ing.loads.map fun y => if y = x then f y else y) } }

/-- A tier code is delivered to the WEIGHT gates that hold on a layer (R306). -/
def State.deliverTier (s : State) (b l : Nat) : State :=
  (List.range 32).foldl (fun t q =>
    match t.stepping q with
    | none => t
    | some n =>
      let w := t.stepOf q n
      match t.cmdOf q n with
      | none => t
      | some c =>
        let on := match nget c.windows none (Step.gateWindow w) with | some v => decide (v.bind = b) | none => false
        if t.isHeld q n && Step.op w = 0x08 && Step.kind w = 1 && on && Step.gateLayer w = l then t.holdEnd q 0 else t) s

/-- A layer load fails with a code; `tier` is the tier code of its last attempt, if that is why, `addr` the address that the event
names (R305, R306, R308, R318). -/
def State.loadFails (s : State) (x : Load) (u shard code tier addr : Nat) : State :=
  let s1 := ((s.modLoad x fun y => { y with dead := true }).postIngAt code clsN u x.bind x.layer shard tier addr).set
    (F.ingBindStat_code x.bind) code
  let s2 := s1.modLayer x.bind x.layer fun y => { y with fail := code, tier := tier }
  let s3 := if tier ≠ 0 then s2.deliverTier x.bind x.layer else s2
  match x.kind with
  | .write => s3.rollback x.bind
  | .back => s3.bindFail x.bind
  | _ => s3.loadEnd x.bind

def Load.shard (x : Load) (i : Nat) : Shard := nget x.shards Shard.init i

/-- Entry of a shard in its layer's table. -/
def State.shardEntry (s : State) (x : Load) (i : Nat) : ShardEntry := s.memNat (s.dirTable x.image x.layer + 48 * i) 48

/-- Address of the attempt of a shard after `tries` attempts (R303). -/
def attemptAddr (e : ShardEntry) (tries : Nat) : Nat := if tries < 3 then e.primary else e.replica

/-- Ingest unit that takes the data at an address (R44): unit 1 what arrives at far ports 4 to 7. Data that lies in the base or the
stack tier arrives at no far port, and unit 0 takes it (DESIGN CHOICE, log entry 98). -/
def State.ingestUnit (s : State) (a : Nat) : Nat := if 24 ≤ Pte.unit (s.page (a / 2 ^ 21)) then 1 else 0

/-- Whether a load's shard table waits for an attempt, or one of its shards once the table has passed. -/
def State.waitsFor (s : State) (u : Nat) (x : Load) (retry : Bool) (i : Nat) : Bool :=
  let h := if x.table.phase = 2 then x.shard i else x.table
  let a := if x.table.phase = 2 then attemptAddr (s.shardEntry x i) h.tries else s.dirTable x.image x.layer
  h.phase = 0 && (decide (0 < h.tries) == retry) && s.ingestUnit a = u

/-- The next attempt of a unit in its service order (R303, R312): retries, window requests as posted, then LOAD queues by
layer. -/
def State.nextShard (s : State) (u : Nat) : Option (Load × Nat) :=
  let live := s.ing.loads.filter fun y => !y.dead && !y.copying
  let pick := fun (retry : Bool) (y : Load) =>
    ((List.range (if y.table.phase = 2 then s.dirShards y.image y.layer else 1)).find? (s.waitsFor u y retry)).map fun i => (y, i)
  let rest := live.filter fun y => decide (y.kind ≠ .window)
  let byLayer := (List.range 4096).flatMap fun l => rest.filter fun y => decide (y.layer = l)
  (live.findSome? (pick true)).or
    (((live.filter fun y => decide (y.kind = .window)).findSome? (pick false)).or (byLayer.findSome? (pick false)))

/-- Error of a read of image bytes: a translation code, or a tier's. -/
def State.readError (s : State) (a n part : Nat) : Option Nat :=
  match s.translateSpan a n (some part) false with
  | .error e => some e.1
  | .ok _ => s.rangeError a n

/-- Whether a code is a tier code (R306). -/
def isTier (c : Nat) : Bool := c / 4096 = 3 || c / 4096 = 4 || c / 4096 = 5 || c / 4096 = 0xA

/-- The reads of an attempt of `n` bytes at an address: their events or corrections, and how many bytes of it were read, a free
value where it fails with `err` or does not end. -/
def State.attemptReads (s : State) (u a n part : Nat) (code : Nat) (whole : Bool) : State :=
  let read := if whole then n else (Config.freeLane s.freeCtr).toNat % (n + 1)
  let s0 := match s.readError a n part with
    | some c => if whole = false ∧ code = c ∧ c / 4096 ≠ 6 then s.logRead a n (some part) none else s
    | none => if whole then s.countCorr a n else s
  ({ s0 with freeCtr := s.freeCtr + 1 } : State).inc (F.ingUnitIn_bytes u) read

/-- SHARD_ATTEMPT_START (R44, R303, R305): the next attempt of a unit. A failed unit makes none, and the load that needs it fails. -/
def State.attemptStart (s : State) (u : Nat) : State :=
  match s.nextShard u with
  | none => s
  | some (x, i) =>
    let tab := decide (x.table.phase ≠ 2)
    let h := if tab then x.table else x.shard i
    if u = 1 ∧ s.ing.failed then
      s.loadFails x 1 i 0x7032 0 (if tab then s.dirTable x.image x.layer else attemptAddr (s.shardEntry x i) h.tries)
    else
      let g := { h with tries := h.tries + 1, phase := 1, start := s.now }
      let t := s.modLoad x fun y => { y with
        started := true
        table := if tab then g else y.table
        shards := if tab then y.shards else nset y.shards Shard.init i g }
      if 0 < h.tries then t.inc (F.ingUnitShard_retries u) 1 else t

/-- SHARD_ATTEMPT_START: attempts pause in the shed state, and their timeouts do not advance (R522). -/
def execShardAttemptStart (u : Fin 2) (s : State) : Out := .next (if s.shedding then s else s.attemptStart u)

/-- The load of a layer with a shard in a phase. -/
def State.loadWith (s : State) (b l i phase : Nat) : Option Load :=
  s.ing.loads.find? fun y => decide (y.bind = b) && decide (y.layer = l) && (y.shard i).phase = phase

/-- The load of a layer whose shard table is being read; while it is, the shard that an attempt's end names is not looked at (log
entry 99). -/
def State.loadTable (s : State) (b l : Nat) : Option Load :=
  s.ing.loads.find? fun y => decide (y.bind = b) && decide (y.layer = l) && y.table.phase = 1

/-- An attempt has failed: another follows, or the layer fails (R303, R305). `g` puts the attempt's new state into the load. -/
def State.attemptFail (s : State) (x : Load) (u i code : Nat) (digest : Bool) (h : Shard) (replica addr : Nat)
    (g : Shard → Load → Load) : State :=
  let s1 := s.postIngAt (if digest then 0x7020 else 0x7021) clsN u x.bind x.layer i code addr
  let y := g { h with phase := 0, last := code, digest := digest } x
  let s2 := s1.modLoad x fun _ => y
  if h.tries < 3 ∨ (h.tries = 3 ∧ replica ≠ 0) then s2
  else s2.loadFails y u i (if digest then 0x7031 else 0x7032) (if !digest && isTier code then code else 0) addr

/-- Put the state of a shard, or of the shard table, into a load. -/
def setShard (i : Nat) (h : Shard) (y : Load) : Load := { y with shards := nset y.shards Shard.init i h }
def setTable (h : Shard) (y : Load) : Load := { y with table := h }

/-- A read that ends for a dead load is discarded. -/
def State.discardRead (s : State) (x : Load) (i : Nat) : State :=
  s.modLoad x fun y => setShard i { y.shard i with phase := 0 } y

/-- The attempt at a shard table ends, with an error code that its reads met, or none: `late` where it has timed out (R303,
R305). -/
def State.tableEnd (s : State) (x : Load) (code : Nat) (late : Bool) : State :=
  let a := s.dirTable x.image x.layer
  let n := 48 * s.dirShards x.image x.layer
  let u := s.ingestUnit a
  let part := (s.bind x.bind).part
  let err := if late then some 0 else if code ≠ 0 then some code else s.readError a n part
  let s1 := s.attemptReads u a n part (err.getD 0) err.isNone
  if x.dead then s1.modLoad x (setTable { x.table with phase := 0 })
  else match err with
    | some c => s1.attemptFail x u 0 c false x.table 0 a setTable
    | none =>
      if (crc64 (s.bytesAt a n)).toNat ≠ s.dirDigest x.image x.layer then s1.attemptFail x u 0 0 true x.table 0 a setTable
      else s1.modLoad x (setTable { x.table with phase := 2 })

/-- SHARD_ATTEMPT_END (R303): the bytes of a passing attempt are those that its digest was checked over. -/
def State.attemptEnd (s : State) (b l i code : Nat) : State :=
  match s.loadTable b l with
  | some x => s.tableEnd x code false
  | none =>
  match s.loadWith b l i 1 with
  | none => s
  | some x =>
    let e := s.shardEntry x i
    let h := x.shard i
    let a := attemptAddr e (h.tries - 1)
    let u := s.ingestUnit a
    let part := (s.bind b).part
    let err := if code ≠ 0 then some code else s.readError a e.storedLen part
    let s1 := s.attemptReads u a e.storedLen part (err.getD 0) err.isNone
    if x.dead then s1.discardRead x i
    else match err with
      | some c => s1.attemptFail x u i c false h e.replica a (setShard i)
      | none =>
        let d := s.bytesAt a e.storedLen
        if (crc64 d).toNat ≠ e.digest then s1.attemptFail x u i 0 true h e.replica a (setShard i)
        else s1.modLoad x fun y => setShard i { y.shard i with phase := 2, data := d } y

def execShardAttemptEnd (b : Fin 256) (layer : BitVec 12) (shard : BitVec 24) (code : Code) (s : State) : Out :=
  .next (if s.shedding then s else s.attemptEnd b layer.toNat shard.toNat code.toNat)

/-- SHARD_ATTEMPT_TIMEOUT (R303, R321). -/
def State.attemptTimeout (s : State) (b l i : Nat) : State :=
  if s.get F.ingCfg_shard_tmo_us = 0 then s
  else match s.loadTable b l with
  | some x => s.tableEnd x 0 true
  | none =>
  match s.loadWith b l i 1 with
  | none => s
  | some x =>
    let e := s.shardEntry x i
    let h := x.shard i
    let a := attemptAddr e (h.tries - 1)
    let u := s.ingestUnit a
    let s1 := s.attemptReads u a e.storedLen (s.bind b).part 0 false
    if x.dead then s1.discardRead x i else s1.attemptFail x u i 0 false h e.replica a (setShard i)

def execShardAttemptTimeout (b : Fin 256) (layer : BitVec 12) (shard : BitVec 24) (s : State) : Out :=
  .next (if s.shedding then s else s.attemptTimeout b layer.toNat shard.toNat)

/-- Whether `n` bytes at a destination cannot be written (ING:0x034, R305). -/
def State.destBad (s : State) (a n part : Nat) : Bool :=
  (List.range ((a + n - 1) / 2 ^ 21 + 1 - a / 2 ^ 21)).any fun i =>
    let p := a / 2 ^ 21 + i
    let e := s.page p
    decide (2 ^ 24 ≤ p) || !e.valid || decide (Pte.part e ≠ part) || s.unitFailed e.unit

/-- Whether the previous contents of a load's destination are live, so that its deposits wait for the commit (R305): the layer is
committed there. -/
def State.keepsOld (s : State) (x : Load) : Bool :=
  x.resident && decide (x.kind = .queue ∨ x.kind = .window) && ((s.bind x.bind).layer x.layer).c0.isSome &&
    decide (x.dest = (nget (s.bind x.bind).place (0, 0) x.layer).1)

/-- SHARD_DEPOSIT_COMPLETE (R299, R302, R305). A deposit into a page that is being migrated waits at its engine (R248). -/
def State.deposit (s : State) (b l i : Nat) : State :=
  match s.loadWith b l i 2 with
  | none => s
  | some x =>
    if x.dead then s.discardRead x i
    else
      let e := s.shardEntry x i
      let h := x.shard i
      let a := attemptAddr e (h.tries - 1)
      let u := s.ingestUnit a
      match shardDeposit (isFl2 (s.memNat x.image 4)) e h.data with
      | none => s.loadFails x u i 0x7033 0 a
      | some d =>
        let off := e.depositOff
        let clash := x.shards.any fun h => match h.2.span with
          | some r => decide (off < r.1 + r.2) && decide (r.1 < off + d.length)
          | none => false
        if s.dirLen x.image x.layer < off + d.length ∨ clash then s.loadFails x u i 0x7033 0 a
        else if s.destBad (x.dest + off) d.length (s.bind b).part then s.loadFails x u i 0x7034 0 (x.dest + off)
        else if s.migHolds (x.dest + off) d.length then s.migWait (x.dest + off) d.length
        else
          let old := s.keepsOld x
          let t := if old then s else s.writeAt (x.dest + off) d
          let g := { h with phase := 3, span := some (off, d.length), data := if old then d else [] }
          ((t.modLoad x (setShard i g)).inc (F.ingUnitOut_bytes u) d.length).inc (F.ingUnitShard_shards u) 1

def execShardDepositComplete (b : Fin 256) (layer : BitVec 12) (shard : BitVec 24) (s : State) : Out :=
  .next (s.deposit b layer.toNat shard.toNat)

/-- A load is over. -/
def State.endLoad (s : State) (x : Load) : State := { s with ing := { s.ing with loads := s.ing.loads.erase x } }

/-- A layer of a binding is in place everywhere: what follows (Table 81, R317, R318). -/
def State.layerDone (s : State) (x : Load) : State :=
  match x.kind with
  | .write => s.writeNext x.bind (x.layer + 1)
  | .back => s.backNext x.bind (x.layer + 1)
  | _ => s.loadEnd x.bind

/-- The layer commits at dst0; the copy to dst1 follows (R309). -/
def State.commitLayer (s : State) (x : Load) (v : Nat) : State :=
  let s1 := s.modLayer x.bind x.layer fun y => { y with c0 := some v, fail := 0, tier := 0 }
  if (nget (s.bind x.bind).place (0, 0) x.layer).2 = 0 then (s1.endLoad x).layerDone x
  else s1.modLoad x fun y => { y with copying := true }

/-- The version in which a load commits (R313, R317, R318). -/
def State.loadVersion (s : State) (x : Load) : Nat :=
  if x.kind = .write then s.nextVersion x.bind else s.get (F.ingBindStat_version x.bind)

/-- A layer is in its slot of streaming window w of a command (R312). -/
def State.deposited (s : State) (q n w l : Nat) : State :=
  let put := fun (c : Cmd) => match nget c.windows none w with
    | some v => { c with windows := nset c.windows none w (some { v with here := v.here ++ [l] }) }
    | none => c
  if (s.quad q).committed.isSome then s.modCmd q n put
  else s.modQuad q fun x => { x with areas := x.areas.map fun a => (a.1, a.2.map fun y => { y with
    slots := y.slots.map fun e => if e.1 = n then (e.1, { e.2 with cmd := e.2.cmd.map put }) else e }) }

/-- The deposits that waited for the commit are written, in one step (R305). -/
def State.writeKept (s : State) (x : Load) : State :=
  x.shards.foldl (fun t h => match h.2.span with
    | some r => if h.2.data = [] then t else t.writeAt (x.dest + r.1) h.2.data
    | none => t) s

/-- A layer whose shards have all been deposited commits (R305, R308, R312, R317): in the streaming windows that share its load,
and at its resident destination. -/
def State.layerInPlace (s : State) (x : Load) : State :=
  let b := x.bind
  let l := x.layer
  if x.kind = .queue ∨ x.kind = .window then
    let t := x.wins.foldl (fun t e => t.deposited (e / 64) (e / 8 % 8) (e % 8) l) s
    if x.resident then (t.writeKept x).commitLayer x (s.loadVersion x)
    else (t.modLayer b l fun y => { y with fail := 0, tier := 0 }).endLoad x
  else
    let y := (s.bind b).turn l
    let dst := (nget y.place (0, 0) l).1
    let n := s.dirLen x.image l
    if s.destBad dst n y.part then s.loadFails x 0 0 0x7034 0 dst
    else if s.migHolds dst n then s.migWait dst n
    else
      let t := s.writeAt dst (s.bytesAt x.dest n)
      let r := if x.kind = .write then y.replaced ++ [l] else y.replaced.filter (· ≠ l)
      let e := (y.layer l).moved (nget y.other (0, 0) l) (nget y.place (0, 0) l)
      let z : Bind := { y with replaced := r, layers := nset y.layers Layer.init l e }
      (t.setBind b z).commitLayer x (s.loadVersion x)

/-- LAYER_COMMIT (R305, R312, R317). -/
def State.layerCommit (s : State) (b l : Nat) : State :=
  let whole := fun (y : Load) =>
    (List.range (s.dirShards y.image y.layer)).all fun i => (y.shard i).phase = 3
  match s.ing.loads.find? fun y =>
    decide (y.bind = b) && decide (y.layer = l) && !y.dead && !y.copying && y.started && whole y with
  | none => s
  | some x => s.layerInPlace x

def execLayerCommit (b : Fin 256) (layer : BitVec 12) (s : State) : Out := .next (s.layerCommit b layer.toNat)

/-- DST1_COPY_COMPLETE (R309). -/
def State.copyDone (s : State) (b l : Nat) : State :=
  match s.ing.loads.find? fun y => decide (y.bind = b) && decide (y.layer = l) && !y.dead && y.copying with
  | none => s
  | some x =>
    let y := s.bind b
    let p := nget y.place (0, 0) l
    let n := s.dirLen x.image l
    if (s.rangeError p.1 n).isSome then (s.logRead p.1 n (some y.part) none).loadFails x 0 0 0x7034 0 p.1
    else if s.destBad p.2 n y.part then s.loadFails x 0 0 0x7034 0 p.2
    else if s.migHolds p.2 n then s.migWait p.2 n
    else ((((s.countCorr p.1 n).writeAt p.2 (s.bytesAt p.1 n)).modLayer b l fun z => { z with c1 := some (s.loadVersion x) }).endLoad
      x).layerDone x

def execDst1CopyComplete (b : Fin 256) (layer : BitVec 12) (s : State) : Out := .next (s.copyDone b layer.toNat)

/-- Whether a load has an attempt in progress on ingest unit 1, or its next one there. -/
def State.onUnit1 (s : State) (y : Load) : Bool :=
  !y.dead && !y.copying &&
    if y.table.phase ≠ 2 then decide (s.ingestUnit (s.dirTable y.image y.layer) = 1)
    else (List.range (s.dirShards y.image y.layer)).any fun i =>
      let h := y.shard i
      decide (h.phase ≠ 3) && s.ingestUnit (attemptAddr (s.shardEntry y i) (h.tries - if h.phase = 0 then 0 else 1)) = 1

/-- INGEST_UNIT_FAULT (R44): the layer loads whose shards unit 1 decodes fail. -/
def State.unitFault (s : State) : State :=
  (s.ing.loads.filter s.onUnit1).foldl (fun t x => if t.ing.loads.contains x then
      t.loadFails x 1 0 0x7032 0 (s.dirTable x.image x.layer) else t)
    { s with ing := { s.ing with failed := true } }

def execIngestUnitFault (s : State) : Out := .next s.unitFault

end Sys2Proof.Machine
end

