-- ==== Sys2Proof/Machine/Request.lean ====
section
/-! DEFINITION. The request engine (chapter 12): queues and admission (R371 to R374), services (R375 to R377), batches and KV
pages (R378 to R391), emits and stop detection (R394 to R397), deadlines and fallback (R399, R400), commands and endings
(R401, R402). -/

namespace Sys2Proof.Machine

/-! ## Services (Tables 95 and 96) -/

/-- The descriptor of a service, empty where none is installed. -/
def State.svc (s : State) (sv : Nat) : List Byte := nget s.req.services [] sv

def svBinding (d : List Byte) : Nat := imgByte d 4
def svPart (d : List Byte) : Nat := imgByte d 5
def svFallback (d : List Byte) : Nat := imgByte d 7
def svFrac (d : List Byte) : Nat := imgByte d 8
def svFlag (d : List Byte) (i : Nat) : Bool := bit (imgByte d 9) i
def svNshard (d : List Byte) : Nat := imgByte d 0xA
def svNgroup (d : List Byte) : Nat := imgByte d 0xB
def svDmax (d : List Byte) : Nat := imgByte d 0xC
def svEmb (d : List Byte) : Nat := byteField d 0x10 2
def svRowBytes (d : List Byte) : Nat := byteField d 0x14 4
def svBound (d : List Byte) : Nat := byteField d 0x18 4
def svPool (d : List Byte) (sh : Nat) : Nat := imgByte d (0x20 + sh) % 32
def svPools (d : List Byte) : List Nat := (List.range (svNshard d)).map (svPool d)

/-- A field of group entry i. -/
def grField (d : List Byte) (i off n : Nat) : Nat := byteField d (0x80 + 48 * i + off) n
def grGroup (d : List Byte) (i : Nat) : Nat := grField d i 0x00 1
def grKind (d : List Byte) (i : Nat) : Nat := grField d i 0x01 1
def grNbuf (d : List Byte) (i : Nat) : Nat := grField d i 0x02 1
def grEmitQ (d : List Byte) (i : Nat) : Nat := grField d i 0x03 1
def grConsumers (d : List Byte) (i : Nat) : Nat := grField d i 0x04 4
def grTmax (d : List Byte) (i : Nat) : Nat := grField d i 0x08 2
def grStride (d : List Byte) (i : Nat) : Nat := grField d i 0x0C 4
def grBase (d : List Byte) (i : Nat) : Nat := grField d i 0x10 8
def grRowsOff (d : List Byte) (i : Nat) : Nat := grField d i 0x18 4
def grEmitOff (d : List Byte) (i : Nat) : Nat := grField d i 0x1C 4
def grPatchDir (d : List Byte) (i : Nat) : Nat := grField d i 0x20 8

/-- Consumers of group entry i. -/
def consumersOf (d : List Byte) (i : Nat) : List Nat := (List.range 32).filter fun q => bit (grConsumers d i) q

/-- Whether a group entry's buffer regions lie within buf_stride (R377, R378). -/
def regionsFit (d : List Byte) (i : Nat) : Bool :=
  let t := grTmax d i
  decide (256 + 64 * t ≤ grStride d i) && decide (grEmitOff d i + 128 * t ≤ grStride d i) &&
    (svEmb d = 0xFFFF || decide (grRowsOff d i + t * svRowBytes d ≤ grStride d i))

/-- Offset of the first malformed field of a service descriptor (Tables 95 and 96). -/
def svcMalformed (d : List Byte) : Option Nat :=
  let zero := fun (off n : Nat) => decide (byteField d off n = 0)
  let base := [
    (0x000, decide (byteField d 0 4 = 0x43565347)), (0x005, decide (svPart d < 16)), (0x006, decide (imgByte d 6 ≤ 1)),
    (0x007, decide (svFallback d < 64) || decide (svFallback d = 0xFF)), (0x009, decide (imgByte d 9 < 8)),
    (0x00A, decide (1 ≤ svNshard d ∧ svNshard d ≤ 16)), (0x00B, decide (1 ≤ svNgroup d ∧ svNgroup d ≤ 32)),
    (0x00C, decide (svDmax d ≤ 7)), (0x00D, zero 0x0D 3), (0x012, zero 0x12 2), (0x014, decide (svRowBytes d % 256 = 0)),
    (0x018, decide (svBound d ≤ 16777216)), (0x020, (List.range (svNshard d)).all fun sh => decide (imgByte d (0x20 + sh) < 32)), (0x030, zero 0x30 0x50),
    (0x680, zero 0x680 0x180)]
  let group := fun (i : Nat) =>
    let o := 0x80 + 48 * i
    [(o, decide ((List.range i).all fun j => decide (grGroup d j ≠ grGroup d i))), (o + 1, decide (grKind d i ≤ 1)),
      (o + 2, decide (2 ≤ grNbuf d i ∧ grNbuf d i ≤ 64)), (o + 8, decide (1 ≤ grTmax d i ∧ grTmax d i ≤ 4096)),
      (o + 0x10, decide (grBase d i % 256 = 0)), (o + 0x28, decide (grField d i 0x28 8 = 0))]
  ((base ++ (List.range (svNgroup d)).flatMap group).find? fun e => !e.2).map (·.1)

/-- Group entries of a service by package group number. -/
def svGroups (d : List Byte) : List (Nat × Nat) := (List.range (svNgroup d)).map fun i => (grGroup d i, i)

/-- The failing field of an install for an originator (R377), none when it passes. -/
def State.svcRefusal (s : State) (sv : Nat) (o : Orig) (d : List Byte) : Option Nat :=
  let p := svPart d
  let b := svBinding d
  let other := fun (g : Nat) => (List.range 64).any fun k => k ≠ sv && (svGroups (s.svc k)).any fun e =>
    e.1 = g && !(s.svc k).isEmpty
  let base := [
    (0x005, s.actsFor o p), (0x004, s.get (F.ingBindStat_state b) = 0 || decide ((s.bind b).part = p)),
    (0x007, svFallback d = 0xFF || (s.svc (svFallback d)).isEmpty || decide (svPart (s.svc (svFallback d)) = p)),
    (0x020, (svPools d).all fun k => s.on (F.reqPoolPage_en k))]
  let group := fun (i : Nat) =>
    let a := 0x80 + 48 * i
    [(a, !other (grGroup d i)), (a + 4, (consumersOf d i).all s.active),
      (a + 3, decide (grEmitQ d i < 32) && bit (grConsumers d i) (grEmitQ d i)), (a + 0xC, regionsFit d i)]
  (svcMalformed d).or (((base ++ (List.range (svNgroup d)).flatMap group).find? fun e => !e.2).map (·.1))

/-- A service operation is refused (R377). -/
def State.svcRefuse (s : State) (sv code field part : Nat) : State :=
  ((s.set (F.reqSvcCtl_status sv) 3).set (F.reqSvcCtl_code sv) code).postReq code clsN field sv part

/-- Patches staged for a group are gone with its batches. -/
def State.dropStaged (s : State) (g : Nat) : State :=
  (List.range 32).foldl (fun t q => t.modQuad q fun x => { x with staged := x.staged.filter fun p => p.group ≠ g }) s

/-- The groups of a service are unused. -/
def State.dropGroups (s : State) (sv : Nat) : State :=
  (svGroups (s.svc sv)).foldl (fun t e =>
    if (s.svc sv).isEmpty then t
    else ((((t.dropStaged e.1).set (F.reqGrpStat_state e.1) 0).set (F.reqGrpStat_service e.1) 0).set (F.reqGrpStat_placed e.1) 0).setGroup
      e.1 Group.init) s

/-- Whether any entry names a service. -/
def State.svcUsed (s : State) (sv : Nat) : Bool := s.req.entries.any fun e => decide (1 ≤ e.2.state) && decide (e.2.service = sv)

/-- Install (R377): the group counters are zeroed. -/
def State.svcInstall (s : State) (sv : Nat) (o : Orig) : State :=
  let addr := s.get (F.reqSvcAddr_addr sv) * 256
  if !(s.svc sv).isEmpty && s.svcUsed sv then s.svcRefuse sv 0x8041 0 (svPart (s.svc sv))
  else
    let d := s.bytesAt addr 2048
    if !s.readable addr 2048 (some (svPart d)) then
      (if s.owned addr 2048 (svPart d) then s.logRead addr 2048 (some (svPart d)) none else s).svcRefuse sv 0x8040 0 (svPart d % 16)
    else match s.svcRefusal sv o d with
      | some f => s.svcRefuse sv 0x8040 f (svPart d % 16)
      | none =>
        let s1 := s.dropGroups sv
        let s2 : State := { s1 with req := { s1.req with services := nset s1.req.services [] sv d } }
        (svGroups d).foldl (fun t e =>
          (((t.set (F.reqGrpStat_state e.1) 1).set (F.reqGrpStat_service e.1) sv).set (F.reqGrpStat_placed e.1) 0).setGroup
            e.1 { Group.init with service := sv, entry := e.2 }) (s2.set (F.reqSvcCtl_status sv) 1)

/-- Remove (R377). -/
def State.svcRemove (s : State) (sv : Nat) : State :=
  if s.svcUsed sv then s.svcRefuse sv 0x8041 0 (svPart (s.svc sv))
  else
    let t := s.dropGroups sv
    ({ t with req := { t.req with services := nset t.req.services [] sv [] } } : State).set (F.reqSvcCtl_status sv) 2

/-- A write to REQ_SVC_CTL (R375). -/
def State.svcCtl (s : State) (sv : Nat) (o : Orig) (v : Lane) : State :=
  let t := s.set (F.reqSvcCtl_op sv) (vbits v 27 24)
  if !vbit v 31 then t
  else match vbits v 27 24 with
    | 1 => t.svcInstall sv o
    | 2 => t.svcRemove sv
    | _ => t.svcRefuse sv 0x8040 0 (svPart (t.svc sv))

/-- Scope of a service's registers (Table 121). -/
def State.svcScope (s : State) (sv : Nat) : Scope := if (s.svc sv).isEmpty then .perOp else .part (some (svPart (s.svc sv)))

def svcOff (sv : Nat) : Nat := 0x302008 + sv * 0x10

/-- SERVICE_INSTALL (R377). -/
def execServiceInstall (sv : Fin 64) (o : Orig) (v : Lane) (s : State) : Out :=
  .next (s.guard o (s.svcScope sv) (svcOff sv) fun s => s.svcCtl sv o v)
/-- SERVICE_REMOVE (R377). -/
def execServiceRemove (sv : Fin 64) (o : Orig) (v : Lane) (s : State) : Out :=
  .next (s.guard o (s.svcScope sv) (svcOff sv) fun s => s.svcCtl sv o v)

/-! ## Completion records that wait (R371, R402) -/

/-- Entries of partition p whose record waits, in the order in which their requests ended. -/
def State.waitingRecords (s : State) (p : Nat) : List Nat :=
  (sortBy (fun e => e.2.freedAt) (s.req.entries.filter fun e => e.2.record.isSome && decide (e.2.part = p))).map (·.1)

/-- Waiting records are written while the ring has room; one whose write fails stops the queue (R402). -/
def State.flushRecords (s : State) (p : Nat) : State :=
  (s.waitingRecords p).foldl (fun t i =>
    let e := t.entryOf i
    match e.record with
    | some r => if t.cqRoom p then (t.record i p e r).retire i else t
    | none => t) s

/-- Host memory as a command of the engine finds it: the pages at which its writes end with an error (log entry 100). -/
def State.hostIs (s : State) (bad : List Nat) : State := { s with req := { s.req with bad := bad } }

def reqQOff (p k : Nat) : Nat := 0x301000 + p * 0x40 + k

/-- A write to REQ_Q_CFG (R371, R402). A queue that an error stopped stays stopped until it is enabled again. -/
def State.reqCfg (s : State) (p : Nat) (v : Lane) : State :=
  let en := s.on (F.reqQCfg_en p)
  let s1 := ((s.set (F.reqQCfg_en p) (vbits v 31 31)).set (F.reqQCfg_irq_en p) (vbits v 30 30)).set (F.reqQCfg_vector p)
    (vbits v 20 16)
  let s2 := if en then s1 else (s1.set (F.reqQCfg_cq_log2n p) (vbits v 12 8)).set (F.reqQCfg_sq_log2n p) (vbits v 4 0)
  if vbit v 31 && !en then
    let t := (((s2.set (F.reqSqTail_tail p) 0).set (F.reqSqHead_head p) 0).set (F.reqCqTail_tail p) 0).set (F.reqCqHead_head p) 0
    (t.set (F.reqQStat_state p) 1).flushRecords p
  else if en && !vbit v 31 && s.get (F.reqQStat_state p) = 1 then s2.set (F.reqQStat_state p) 0
  else s2

/-- REQ_QUEUE_ENABLE (R371). -/
def execReqQueueEnable (p : Fin 16) (o : Orig) (v : Lane) (bad : List Nat) (s : State) : Out :=
  .next ((s.hostIs bad).guard o (.part (some p)) (reqQOff p 0x10) fun s => s.reqCfg p v)
/-- REQ_QUEUE_DISABLE (R371). -/
def execReqQueueDisable (p : Fin 16) (o : Orig) (v : Lane) (s : State) : Out :=
  .next (s.guard o (.part (some p)) (reqQOff p 0x10) fun s => s.reqCfg p v)
/-- REQ_CQ_HEAD_WRITE (R402). -/
def execReqCqHeadWrite (p : Fin 16) (o : Orig) (v : Lane) (bad : List Nat) (s : State) : Out :=
  .next ((s.hostIs bad).guard o (.part (some p)) (reqQOff p 0x20) fun s =>
    (s.set (F.reqCqHead_head p) (vbits v 15 0)).flushRecords p)
/-- REQUEST_DOORBELL (R371, R374): the descriptors up to tail are submitted. -/
def execRequestDoorbell (p : Fin 16) (o : Orig) (v : Lane) (s : State) : Out :=
  .next (s.guard o (.part (some p)) (reqQOff p 0x14) fun s => s.set (F.reqSqTail_tail p) (vbits v 15 0))

/-! ## Reservations and groups (R383, R387) -/

/-- Order of admission, lower indices first on equal times (R382). -/
def admitKey (e : Nat × ReqEntry) : Nat := e.2.tAccept * 65536 + e.1

/-- Pages that a service's shards ask of pool k for `want` pages per shard. -/
def poolDemand (d : List Byte) (want k : Nat) : Nat := ((svPools d).filter fun x => decide (x = k)).length * want

/-- Whether every pool can supply a reservation now. -/
def State.canReserve (s : State) (d : List Byte) (want : Nat) : Bool :=
  (svPools d).all fun k => decide (poolDemand d want k ≤ s.get (F.reqPoolFree_free k))

/-- Take a reservation for an entry. -/
def State.reserve (s : State) (i : Nat) : State :=
  let e := s.entryOf i
  ((svPools (s.svc e.service)).foldl (fun t k => t.dec (F.reqPoolFree_free k) e.want) s).setEntry i { e with reserved := e.want }

/-- Entries that wait for their reservation, in admission order. -/
def State.unreserved (s : State) : List Nat :=
  (sortBy admitKey (s.req.entries.filter fun e => e.2.state = 2 && e.2.reserved = 0 && decide (0 < e.2.want))).map (·.1)

/-- Reservations are served in admission order, the first that cannot be supplied stopping the rest. -/
def reserveAll : List Nat → State → State
  | [], s => s
  | i :: r, s =>
    let e := s.entryOf i
    if s.canReserve (s.svc e.service) e.want then reserveAll r (s.reserve i) else s

/-- Members of a decode group. -/
def State.members (s : State) (g : Nat) : List (Nat × ReqEntry) :=
  s.req.entries.filter fun e => decide (e.2.group = some g) && e.2.state = 4

/-- The decode group that a request joins (R383): active, fewest members, room for 1 + d_max rows, lowest number. -/
def State.joinGroup (s : State) (sv : Nat) : Option Nat :=
  let d := s.svc sv
  let l := (svGroups d).filterMap fun x =>
    let n := (s.members x.1).length
    if grKind d x.2 = 1 ∧ s.get (F.reqGrpStat_state x.1) = 1 ∧ (n + 1) * (1 + svDmax d) ≤ grTmax d x.2 then some (n, x.1) else none
  (sortBy (fun x => x.1 * 256 + x.2) l).head?.map (·.2)

/-- A request whose first token has been emitted joins a decode group, or waits in state 2. -/
def State.join (s : State) (i : Nat) : State :=
  let e := s.entryOf i
  match s.joinGroup e.service with
  | some g => s.setEntry i { e with state := 4, group := some g, joined := s.now }
  | none => s.setEntry i { e with state := 2, group := none }

/-- Whether a placed batch still holds rows that a move ended (R400). -/
def State.carriedDead (s : State) (id : Nat) : Bool :=
  s.req.groups.any fun g => g.2.batches.any fun b => !b.emitted && b.rows.any fun r => r.dead && decide (r.id.toNat = id)

/-- Pages of moved requests are released once the batches that they had rows in have emitted (R400). -/
def State.settleOrphans (s : State) : State :=
  s.req.orphans.foldl (fun t x =>
    if t.carriedDead x.1 then t
    else
      let u := x.2.foldl (fun v p => v.dropPage p.1 p.2) t
      { u with req := { u.req with orphans := u.req.orphans.erase x } }) s

/-- Eviction and reservations, until neither changes a free count: a reservation can take a count below low_water, and an
eviction can supply the next reservation (R387, R393). -/
def State.settlePages : Nat → State → State
  | 0, s => s
  | n + 1, s =>
    let t := s.evictPfx
    let u := reserveAll t.unreserved t
    let v := u.evictPfx
    if v.req.nodes.length < u.req.nodes.length then State.settlePages n v else v

/-- What follows when pages or places come free: eviction, reservations, decode groups. -/
def State.settleReq (s : State) : State :=
  let s1 := s.settleOrphans
  let s2 := State.settlePages (s1.req.nodes.length + 1) s1
  ((sortBy admitKey (s2.req.entries.filter fun e => e.2.state = 2 && e.2.tFirst.isSome)).map (·.1)).foldl
    (fun t i => t.join i) s2

/-! ## Admission (R374) -/

/-- Check 1 of Table 94 for a descriptor and its stop block. -/
def reqDescOk (d : Nat) (stop : Option Nat) : Bool :=
  decide (rdService d < 64) && bits d 79 77 = 0 && decide (bits d 81 80 ≤ 2) && bits d 87 83 = 0 &&
    decide (4 ≤ rdLog2ring d ∧ rdLog2ring d ≤ 16) && decide (1 ≤ rdPromptLen d ∧ rdPromptLen d ≤ 16777215) &&
    decide (1 ≤ rdMaxNew d) && rdRing d % 64 = 0 && bits d 511 480 = 0 && bits d 1023 640 = 0 &&
    match stop with
    | some b => decide (bits b 1543 1536 ≤ 16) &&
        ((List.range 4).all fun i => decide (bits b (1551 + 8 * i) (1544 + 8 * i) ≤ 8)) && bits b 2047 1576 = 0
    | none => true

/-- Key of a request's handle. -/
def handleKey (d : Nat) (sd : List Byte) : Nat := svPart sd * 2 ^ 32 + rdHandle d

/-- Whether a request's handle is usable (R393). -/
def State.byHandle (s : State) (d : Nat) (sd : List Byte) : Bool :=
  let b := svBinding sd
  s.on F.reqPfxCfg_en && svFlag sd 2 && bit (rdFlags d) 1 && match nget s.req.handles none (handleKey d sd) with
    | some h => (match nget s.req.nodes none h.1 with
      | some n => n.binding = b && n.version = s.get (F.ingBindStat_version b)
      | none => false)
    | none => false

/-- The prefix chain that a request reuses (R393). -/
def State.reuse (s : State) (d : Nat) (sd : List Byte) (prompt : List Lane) : List Nat :=
  let b := svBinding sd
  if s.on F.reqPfxCfg_en && svFlag sd 2 && (s.byHandle d sd || bit (rdFlags d) 2) then
    s.pfxChain b (s.get (F.ingBindStat_version b)) (svPart sd) (svPools sd) ((rdPromptLen d - 1) / 256) none prompt
  else []

/-- The use of a handle by an admission (R393). -/
def State.touchHandle (s : State) (d : Nat) (sd : List Byte) : State :=
  if s.byHandle d sd then
    { s with req := { s.req with handles := nmod s.req.handles none (handleKey d sd) fun h => h.map fun x => (x.1, s.now) } }
  else s

/-- Pages per shard that a request needs beyond r reused ones (R387). -/
def pagesWanted (d : Nat) (sd : List Byte) (r : Nat) : Nat := (rdPromptLen d + rdMaxNew d + svDmax sd + 255) / 256 - r

/-- The first failing check of Table 94. -/
def State.admitCode (s : State) (p d : Nat) (stop : Option Nat) (prompt : List Lane) : Option Nat :=
  let sd := s.svc (rdService d)
  let st := s.get (F.ingBindStat_state (svBinding sd))
  if !reqDescOk d (if rdStop d = 0 then none else stop) then some 0x8010
  else if sd.isEmpty || svPart sd ≠ p || (st = 0 && !svFlag sd 1) || st = 7 then some 0x8011
  else if rdStop d ≠ 0 ∧ stop.isNone then some 0x8012
  else if svBound sd < rdPromptLen d + rdMaxNew d + svDmax sd then some 0x8013
  else
    let w := pagesWanted d sd (s.reuse d sd prompt).length
    if (svPools sd).all fun k => decide (w ≤ s.get (F.reqPoolN_npages k) - 1) then none else some 0x8014

/-- The engine issues LOAD for an empty or incomplete binding (R384), as through ING_BIND_CTL; the refusal's code. -/
def State.autoLoad (s : State) (sd : List Byte) : State × Option Nat :=
  let b := svBinding sd
  let st := s.get (F.ingBindStat_state b)
  if svFlag sd 1 ∧ (st = 0 ∨ st = 3) then
    match s.bindLoad b (svPart sd) with
    | .error c => (s.bindRefuse b c, some c)
    | .ok t => (t, none)
  else (s, none)

/-- A passing descriptor takes the lowest free entry (R374, R393, R397, R398). -/
def State.accept (s : State) (i p d : Nat) (stop : Option Nat) (prompt : List Lane) : State :=
  let sd := s.svc (rdService d)
  let chain := s.reuse d sd prompt
  let r := chain.length
  let pages := (List.range (svNshard sd)).foldl (fun (m : NMap (List Nat)) sh =>
    nset m [] sh (chain.map fun i => match nget s.req.nodes none i with
      | some n => (n.pages.getD sh (0, 0)).2
      | none => 0)) []
  let s1 := chain.foldl (fun t i => match nget t.req.nodes none i with
    | some n => (n.pages.foldl (fun u x => u.refPage x.1 x.2) t).touchNode i
    | none => t) (s.touchHandle d sd)
  let g := (s.entryOf i).gen
  let e : ReqEntry := { ReqEntry.init with
    gen := if g = 0 then 1 else g, state := 2, desc := d, stop := if rdStop d = 0 then 0 else stop.getD 0, part := p
    service := rdService d, seq := s.req.admitted, len := 256 * r, nextPos := 256 * r, reused := 256 * r, prompt := prompt
    pages := pages, want := pagesWanted d sd r, tAccept := s.now }
  let s2 := ({ s1 with req := { s1.req with admitted := s1.req.admitted + 1 } } : State).setEntry i e
  let s3 := (s2.inc F.reqLive_live 1).inc F.reqPfxStat_reused (r * svNshard sd)
  let s4 := if s3.hostFails (rdRing d) 64 then (s3.postReq 0x8030 clsR (reqId i e) (rdService d) p).endRequest i 0x8030 0 0 0
    else s3.hostWrite (rdRing d) (leBytes 4 (reqId i e) ++ leBytes 60 0)
  let a := s4.autoLoad sd
  match a.2 with
  | some c => (a.1.endRequest i c 0 0 0).settleReq
  | none => a.1.settleReq

/-- The completion record of a refusal: the null identifier, the cookie and the code (R374). -/
def State.refuseRecord (s : State) (p d code : Nat) : State :=
  s.cqWrite p (completionRecord s 0 { ReqEntry.init with desc := d % 2 ^ 64, service := rdService d } code 0 0 0)

/-- REQUEST_ADMIT (R374): the descriptor at head, with what host memory holds behind it. A refusal waits for room in the completion
ring; one whose record cannot be written stops the queue (R402). -/
def State.takeRequest (s : State) (p d : Nat) (stop : Option Nat) (prompt : List Lane) : State :=
  let size := 2 ^ clampLog (s.get (F.reqQCfg_sq_log2n p))
  let head := s.get (F.reqSqHead_head p)
  let free := (List.range 65536).find? fun i => decide ((s.entryOf i).state = 0)
  if s.get (F.reqQStat_state p) ≠ 1 || !s.on (F.reqQCfg_en p) || head % size = s.get (F.reqSqTail_tail p) % size then s
  else match free with
    | none => s
    | some i =>
      let t := s.set (F.reqSqHead_head p) ((head + 1) % size)
      match s.admitCode p d stop prompt with
      | none => t.accept i p d stop prompt
      | some c =>
        if !s.cqRoom p then s
        else if s.hostFails (s.cqAddr p) 128 then s.cqStop p
        else (t.refuseRecord p d c).postReq c clsN 0 (rdService d) p

def execRequestAdmit (p : Fin 16) (desc : BitVec 1024) (stop : Option (BitVec 2048)) (prompt : Option (List Lane))
    (s : State) : Out :=
  .next (s.takeRequest p desc.toNat (stop.map (·.toNat)) (prompt.getD []))

/-! ## Batches (R378 to R385) -/

/-- Whether the binding lets a request's rows be placed (R384). -/
def State.mayPlace (s : State) (sd : List Byte) (st : Nat) : Bool :=
  match s.get (F.ingBindStat_state (svBinding sd)) with
  | 1 => svFlag sd 0
  | 2 => true
  | 3 => svFlag sd 0
  | 4 => decide (st ≠ 2)
  | 5 => decide (st ≠ 2)
  | 6 => decide (st ≠ 2)
  | _ => false

/-- Requests of a service with unplaced prompt positions, in admission order (R382). -/
def State.prefillOrder (s : State) (sv : Nat) : List (Nat × ReqEntry) :=
  sortBy admitKey (s.req.entries.filter fun e =>
    decide (e.2.service = sv) && ((e.2.state = 2 && e.2.tFirst.isNone) || e.2.state = 3) && decide (0 < e.2.reserved) &&
      decide (e.2.nextPos < rdPromptLen e.2.desc) && s.mayPlace (s.svc sv) e.2.state)

/-- Prompt tokens of a request as host memory holds them now; none on a read error. -/
def promptOf (i : Nat) (e : ReqEntry) (l : List (Lane × Option (List Lane))) : Option (List Lane) :=
  match l.find? fun x => decide (x.1.toNat = reqId i e) with
  | some x => x.2
  | none => some e.prompt

/-- Prefill rows up to `cap` (R382). -/
def prefillRows (l : List (Lane × Option (List Lane))) : Nat → List (Nat × ReqEntry) → List Row
  | _, [] => []
  | cap, (i, e) :: r =>
    let n := min cap (rdPromptLen e.desc - e.nextPos)
    let toks := (promptOf i e l).getD []
    let rows := (List.range n).map fun k =>
      let p := e.nextPos + k
      (⟨BitVec.ofNat 32 (reqId i e), p, toks.getD p 0, decide (p + 1 = rdPromptLen e.desc), false, false⟩ : Row)
    rows ++ prefillRows l (cap - n) r

/-- Free entries of a request's output ring (R397). -/
def ReqEntry.ringFree (e : ReqEntry) : Nat :=
  let size := 2 ^ rdLog2ring e.desc
  size - 1 - (e.tail + size - e.head % size) % size

/-- Rows of a decode batch (R383). -/
def State.decodeRows (s : State) (g : Nat) (sd : List Byte) : List Row :=
  (sortBy (fun e => e.2.joined * 65536 + e.1) (s.members g)).flatMap fun x =>
    let e := x.2
    let id := BitVec.ofNat 32 (reqId x.1 e)
    match e.input with
    | none => []
    | some t =>
      if e.ringFree < 1 + svDmax sd || !s.mayPlace sd e.state then []
      else (⟨id, e.len, t, true, false, false⟩ : Row) :: (List.range (min e.drafts.length (svDmax sd))).map fun k =>
        ⟨id, e.len + 1 + k, e.drafts.getD k 0, false, true, false⟩

/-- Whether a group has a free buffer (R380). -/
def State.bufferFree (s : State) (g : Nat) : Bool :=
  let x := s.group g
  let d := s.svc x.service
  (consumersOf d x.entry).all fun q => decide (x.placed + 2 ≤ nget x.counts 0 q + grNbuf d x.entry)

/-- Whether the batch before the next one of a decode group has emitted (R383). -/
def State.emittedLast (s : State) (g : Nat) : Bool :=
  let x := s.group g
  x.placed = 0 || !(x.batches.any fun b => decide (b.n + 1 = x.placed) && !b.emitted)

/-- What a gather answers: the bytes, or the code of its failure and the address. -/
abbrev Gathered := Except (Nat × Nat) (List Byte)

/-- One attempt of a gathered shard at an address (R303, R385): as memory stands, with the error code given, or timed out. -/
def State.gatherOnce (s : State) (b l tok part : Nat) (fl2 : Bool) (e : ShardEntry) (a : Nat) (o : Option Code) :
    State × Gathered :=
  let u := s.ingestUnit a
  let err := match o with
    | none => if s.get F.ingCfg_shard_tmo_us = 0 then s.readError a e.storedLen part else some 0
    | some c => if c.toNat = 0 then s.readError a e.storedLen part else some c.toNat
  let s1 := s.attemptReads u a e.storedLen part (err.getD 0) err.isNone
  match err with
  | some c => (s1.postIngAt 0x7021 clsN u b l tok c a, .error (0x7032, a))
  | none =>
    let d := s.bytesAt a e.storedLen
    if (crc64 d).toNat ≠ e.digest then (s1.postIngAt 0x7020 clsN u b l tok 0 a, .error (0x7031, a))
    else match shardDeposit fl2 e d with
      | some x => ((s1.inc (F.ingUnitOut_bytes u) x.length).inc (F.ingUnitShard_shards u) 1, .ok x)
      | none => (s1, .error (0x7033, a))

/-- The attempts of a gathered shard, as the outcomes given for them in order say (R303, R385): the answer and the outcomes left. A
failed unit makes none (R44). -/
def State.gatherTries (b l tok part : Nat) (fl2 : Bool) (e : ShardEntry) :
    List Nat → Option (Nat × Nat) → List (Option Code) → State → State × Gathered × List (Option Code)
  | [], last, os, s => (s, .error (last.getD (0x7032, e.primary)), os)
  | a :: r, last, os, s =>
    let u := s.ingestUnit a
    if u = 1 ∧ s.ing.failed then (s, .error (0x7032, a), os)
    else
      let s0 := if last.isSome then s.inc (F.ingUnitShard_retries u) 1 else s
      match s0.gatherOnce b l tok part fl2 e a (os.headD (some 0)) with
      | (t, .ok d) => (t, .ok d, os.tail)
      | (t, .error x) =>
        if x.1 = 0x7033 then (t, .error x, os.tail) else State.gatherTries b l tok part fl2 e r (some x) os.tail t

/-- The gathered row of a token (R385): from dst0 of a resident layer, or as shard `token` of the layer. -/
def State.gatherRow (s : State) (sd : List Byte) (tok : Nat) (os : List (Option Code)) :
    State × Gathered × List (Option Code) :=
  let b := svBinding sd
  let l := svEmb sd
  let n := svRowBytes sd
  let x := s.bind b
  let dst := (nget x.place (0, 0) l).1
  if dst ≠ 0 ∧ (x.layer l).c0.isSome then
    let a := dst + tok * n
    match s.readError a n x.part with
    | none => (s.countCorr a n, .ok (s.bytesAt a n), os)
    | some c => ((s.logRead a n (some x.part) none).postIngAt 0x7021 clsN 0 b l tok c a, .error (0x7032, a), os)
  else if s.dirShards x.image l ≤ tok then (s, .error (0x7032, s.dirTable x.image l), os)
  else
    let e : ShardEntry := s.memNat (s.dirTable x.image l + 48 * tok) 48
    let addrs := [e.primary, e.primary, e.primary] ++ if e.replica = 0 then [] else [e.replica]
    match State.gatherTries b l tok x.part (isFl2 (s.memNat x.image 4)) e addrs none os s with
    | (t, .ok d, r) => if n < d.length then (t, .error (0x7033, e.primary), r) else (t, .ok d, r)
    | y => y

/-- Rows gathered in order: the rows' bytes, or the index and code of the first that fails. -/
def gatherRows (sd : List Byte) :
    List Row → List (Option Code) → State → State × Except (Nat × Nat) (List (List Byte)) × List (Option Code)
  | [], os, s => (s, .ok [], os)
  | w :: r, os, s =>
    match s.gatherRow sd w.token.toNat os with
    | (t, .error x, os1) =>
      (t.postIngAt x.1 clsR 0 (svBinding sd) (svEmb sd) w.token.toNat 0 x.2, .error (w.id.toNat % 65536, x.1), os1)
    | (t, .ok b, os1) => match gatherRows sd r os1 t with
      | (u, .ok l, os2) => (u, .ok (b :: l), os2)
      | y => y

/-- Rows of a batch before the one at position t that belong to the same request, and all of them. -/
def rowSpan (l : List Row) (id : Lane) : Nat × Nat :=
  ((l.findIdx? fun w => decide (w.id = id)).getD 0, (l.filter fun w => decide (w.id = id)).length)

/-- A token record (Table 97). -/
def State.tokenRecord (s : State) (l : List Row) (w : Row) : List Byte :=
  let e := s.entryOf (w.id.toNat % 65536)
  let sp := rowSpan l w.id
  leBytes 4 w.id.toNat ++ leBytes 4 (w.pos % 2 ^ 24 + (if w.sample then 2 ^ 24 else 0) + if w.draft then 2 ^ 25 else 0)
    ++ leBytes 4 w.token.toNat ++ leBytes 4 e.len ++ leBytes 2 sp.1 ++ leBytes 2 sp.2 ++ leBytes 12 0
    ++ leBytes 16 (rdSample e.desc) ++ leBytes 16 0

/-- Page p of a pool is free to take. -/
def State.poolFree (s : State) (k : Nat) : List Nat :=
  ((List.range (s.get (F.reqPoolN_npages k))).drop 1).filter fun p => decide (s.refsOf k p = 0)

/-- Take one page of every shard for an entry (R387); which free page is a free value (log entry 18). -/
def State.takePages (s : State) (i : Nat) : State :=
  let sd := s.svc (s.entryOf i).service
  (List.range (svNshard sd)).foldl (fun t sh =>
    let k := svPool sd sh
    let l := t.poolFree k
    match l[(Config.freeLane t.freeCtr).toNat % l.length]? with
    | none => t
    | some p =>
      let e := t.entryOf i
      (({ t with freeCtr := t.freeCtr + 1 } : State).refPage k p).setEntry i
        { e with pages := nset e.pages [] sh (nget e.pages [] sh ++ [p]) }) s

/-- Take the pages that a position needs. -/
def State.needPos (s : State) (i pos : Nat) : State :=
  let held := (nget (s.entryOf i).pages [] 0).length
  (List.range (pos / 256 + 1 - held)).foldl (fun t _ => t.takePages i) s

/-- Entries of consumer q's patch list (R388). -/
def State.patchList (s : State) (d : List Byte) (i q : Nat) : List Nat :=
  let a := grPatchDir d i + 16 * q
  let list := s.memNat a 8
  (List.range (min 4096 (s.memNat (a + 8) 2))).map fun k => s.memNat (list + 16 * k) 16

/-- The address of a patch entry (R389). -/
def State.patchAddr (s : State) (d : List Byte) (rows : List Row) (p : Nat) : Nat :=
  let rel := bit p 17
  let sh := bits p 31 24
  let row := bits p 47 32
  let w := rows[row]?
  let pos := match w with | some x => x.pos | none => 0
  let j : Int := if rel then (pos / 256 : Nat) + signed 16 (bits p 63 48) else (bits p 63 48 : Nat)
  let list := match w with | some x => nget (s.entryOf (x.id.toNat % 65536)).pages [] sh | none => []
  let page := if 0 ≤ j then list.getD j.toNat 0 else 0
  let off := bits p 127 96 + if rel then pos % 256 * bits p 95 64 else 0
  (s.poolAddr (svPool d sh) page + off) % 2 ^ 64

/-- Whether a patch names a descriptor that the consumer's section lacks, committed or saved (R390, R425). -/
def State.patchBad (s : State) (d : List Byte) (i : Nat) : Bool :=
  (consumersOf d i).any fun q =>
    let n := match (s.quad q).committed.or ((s.quad q).areas.findSome? fun a => a.2.map (·.sectionOf)) with
      | some x => imgNdesc x.bytes
      | none => 0
    (s.patchList d i q).any fun p => decide (n ≤ bits p 15 0)

/-- Stage the patches of batch n for every consumer (R390). -/
def State.stagePatches (s : State) (g n : Nat) (d : List Byte) (i : Nat) (rows : List Row) : State :=
  (consumersOf d i).foldl (fun t q =>
    let l := (s.patchList d i q).map fun p => (⟨g, n, bits p 15 0, bit p 16, s.patchAddr d rows p⟩ : Patch)
    t.modQuad q fun x => { x with staged := x.staged ++ l }) s

/-- Write the buffer of a batch (R378). -/
def State.writeBatch (s : State) (g n : Nat) (d : List Byte) (i : Nat) (rows : List Row) (gathered : List (List Byte)) : State :=
  let a := grBase d i + n % grNbuf d i * grStride d i
  let tm := grTmax d i
  let header := leBytes 4 rows.length ++ leBytes 4 n ++ leBytes 4 g ++ leBytes 4 (grKind d i) ++ leBytes 240 0
  let recs := rows.flatMap (s.tokenRecord rows) ++ leBytes (64 * (tm - rows.length)) 0
  let t := (s.writeAt a header).writeAt (a + 256) recs
  if svEmb d = 0xFFFF then t
  else
    let w := svRowBytes d
    let body := (List.range tm).flatMap fun k =>
      let b := gathered.getD k []
      b ++ List.replicate (w - b.length) 0
    t.writeAt (a + grRowsOff d i) body

/-- The requests of a batch's rows, each once. -/
def rowIds (rows : List Row) : List Nat := dedup (rows.map fun w => w.id.toNat)

/-- A prefill request has had rows placed: state 3 and its next position. -/
def State.notePlaced (s : State) (rows : List Row) (id : Nat) : State :=
  let i := id % 65536
  let e := s.entryOf i
  if e.state = 4 then s
  else
    let n := (rows.filter fun w => decide (w.id.toNat = id)).length
    s.setEntry i { e with state := 3, nextPos := e.nextPos + n }

/-- Batches kept: those not emitted, and those that a consumer may still take or hold. -/
def keepBatches (d : List Byte) (i : Nat) (x : Group) : List Batch :=
  x.batches.filter fun b => !b.emitted || (consumersOf d i).any fun q => decide (nget x.counts 0 q ≤ b.n + 1)

/-- Place a batch of rows (R378, R380, R387 to R390). -/
def State.placeBatch (s : State) (g : Nat) (rows : List Row) (gathered : List (List Byte)) : State :=
  let x := s.group g
  let d := s.svc x.service
  let n := x.placed
  let s1 := rows.foldl (fun t w => t.needPos (w.id.toNat % 65536) w.pos) s
  if s1.patchBad d x.entry then
    (rowIds rows).foldl (fun t id => (t.postReq 0x8042 clsR id g (svPart d)).endRequest (id % 65536) 0x8042 0 0 0) s1
  else
    let s2 := (s1.writeBatch g n d x.entry rows gathered).stagePatches g n d x.entry rows
    let s3 := (rowIds rows).foldl (fun t id => t.notePlaced rows id) s2
    let y := { x with placed := n + 1, batches := keepBatches d x.entry x ++ [⟨n, rows, false⟩] }
    (s3.setGroup g y).set (F.reqGrpStat_placed g) (n + 1)

/-- Rows of the next batch of a group, if one may be placed now (R380, R382, R383). -/
def State.nextRows (s : State) (g : Nat) (prompt : List (Lane × Option (List Lane))) (full : Bool) : List Row :=
  let x := s.group g
  let d := s.svc x.service
  if s.get (F.reqGrpStat_state g) ≠ 1 || d.isEmpty || !s.bufferFree g then []
  else if grKind d x.entry = 1 then
    if full && s.emittedLast g then (s.decodeRows g d).take (grTmax d x.entry) else []
  else
    let lower := (svGroups d).any fun e => decide (e.1 < g) && grKind d e.2 = 0 && s.get (F.reqGrpStat_state e.1) = 1 &&
      s.bufferFree e.1
    let rows := prefillRows prompt (grTmax d x.entry) (s.prefillOrder x.service)
    if lower || (full && decide (rows.length < grTmax d x.entry)) then [] else rows

/-- A row whose prompt could not be read. -/
def State.promptBad (s : State) (prompt : List (Lane × Option (List Lane))) (rows : List Row) : Option Nat :=
  rows.findSome? fun w =>
    let i := w.id.toNat % 65536
    if (s.entryOf i).state ≠ 4 ∧ (promptOf i (s.entryOf i) prompt).isNone then some i else none

/-- Bytes of the batch buffer that the engine writes: address and length of each part (R378). -/
def batchParts (d : List Byte) (i n : Nat) : List (Nat × Nat) :=
  let a := grBase d i + n % grNbuf d i * grStride d i
  let rows := if svEmb d = 0xFFFF then 0 else grTmax d i * svRowBytes d
  [(a, 256 + 64 * grTmax d i), (a + grRowsOff d i, rows)]

/-- Form the next batch of a group until its rows stand, ending the requests whose rows cannot be placed (R385, R404). `os` are the
outcomes of gather attempts still to come. -/
def State.formBatch (g : Nat) (prompt : List (Lane × Option (List Lane))) (full : Bool) :
    Nat → List (Option Code) → State → State
  | 0, _, s => s
  | n + 1, os, s =>
    match s.nextRows g prompt full with
    | [] => s
    | rows =>
      let x := s.group g
      let d := s.svc x.service
      match s.promptBad prompt rows with
      | some i =>
        State.formBatch g prompt full n os ((s.postReq 0x8012 clsR (reqId i (s.entryOf i)) x.service (svPart d)).endRequest i 0x8012
          0 0 0)
      | none =>
        match if svEmb d = 0xFFFF then (s, Except.ok [], os) else gatherRows d rows os s with
        | (t, .error e, r) => State.formBatch g prompt full n r (t.endRequest e.1 e.2 0 0 0)
        | (t, .ok b, _) => t.placeBatch g rows b

/-- The prompts that this command read stand in their entries. -/
def State.notePrompts (s : State) (prompt : List (Lane × Option (List Lane))) : State :=
  prompt.foldl (fun t x => match x.2 with
    | some toks =>
      let i := x.1.toNat % 65536
      let e := t.entryOf i
      if decide (reqId i e = x.1.toNat) && decide (2 ≤ e.state) then t.setEntry i { e with prompt := toks } else t
    | none => t) s

/-- Place the next batch of a group. One whose buffer lies in a page that is being migrated waits at its engine (R248, R380). -/
def State.batch (s : State) (g : Nat) (prompt : List (Lane × Option (List Lane))) (os : List (Option Code)) (full : Bool) : State :=
  let t := s.settleReq.notePrompts prompt
  let x := t.group g
  match (batchParts (t.svc x.service) x.entry x.placed).find? fun e => t.migHolds e.1 e.2 with
  | some e => t.migWait e.1 e.2
  | none => (State.formBatch g prompt full 65537 os t).settleReq

/-- BATCH_PLACE (R380, R382, R383): a prefill batch of t_max rows, or the next decode batch. -/
def execBatchPlace (g : Fin 256) (r : BatchReads) (s : State) : Out := .next (s.batch g r.prompts r.gather true)

/-- PREFILL_WAIT_EXPIRE (R382): a prefill batch of the rows that wait. -/
def execPrefillWaitExpire (g : Fin 256) (r : BatchReads) (s : State) : Out :=
  .next (s.batch g r.prompts r.gather false)

/-! ## Emits (R394 to R398) -/

/-- Fields of an emit record (Table 99). -/
def emId (r : List Byte) : Nat := byteField r 0 4
def emPos (r : List Byte) : Nat := byteField r 4 3
def emN (r : List Byte) : Nat := imgByte r 8
def emNd (r : List Byte) : Nat := imgByte r 9
def emToken (r : List Byte) (k : Nat) : Lane := BitVec.ofNat 32 (byteField r (0x10 + 4 * k) 4)
def emLogprob (r : List Byte) (k : Nat) : Nat := byteField r (0x30 + 4 * k) 4
def emDraft (r : List Byte) (k : Nat) : Lane := BitVec.ofNat 32 (byteField r (0x50 + 4 * k) 4)

/-- Stop token x of a stop block (R373). -/
def stopToken (b : Nat) (x : Lane) : Bool :=
  (List.range (bits b 1543 1536)).any fun k => decide (bits b (32 * k + 31) (32 * k) = x.toNat)

/-- Length of the first stop sequence that a token history completes (R373, R396). -/
def stopSequence (b : Nat) (hist : List Lane) : Option Nat :=
  (List.range 4).findSome? fun j =>
    let n := bits b (1551 + 8 * j) (1544 + 8 * j)
    let sq := (List.range n).map fun t => BitVec.ofNat 32 (bits b (512 + 256 * j + 32 * t + 31) (512 + 256 * j + 32 * t))
    if 0 < n ∧ n ≤ hist.length ∧ hist.drop (hist.length - n) = sq then some n else none

/-- STOP_DETECTION (R396): tokens from position p with `w` written so far: the entries to write, the history, and the stop
cause with stop_pos. -/
def stopScan (e : ReqEntry) : List (Lane × Nat) → Nat → Nat → List Lane →
    List (Lane × Nat × Nat) × List Lane × Option (Nat × Nat)
  | [], _, _, hist => ([], hist, none)
  | (x, lp) :: r, p, w, hist =>
    let h := hist ++ [x]
    let keep := if bit (rdFlags e.desc) 3 then [(x, p, lp)] else []
    if stopToken e.stop x then (keep, h, some (1, 0))
    else match stopSequence e.stop h with
      | some n => (keep, h, some (2, p + 1 - n))
      | none =>
        if rdMaxNew e.desc ≤ w + 1 then ([(x, p, lp)], h, some (3, 0))
        else
          let t := stopScan e r (p + 1) (w + 1) h
          ((x, p, lp) :: t.1, t.2)

/-- Write one entry of an output ring, then the header's tail (R397); none where a write ends with an error. -/
def State.ringWrite (s : State) (i : Nat) (err : Bool) (x : Lane × Nat × Nat) : Option State :=
  let e := s.entryOf i
  let a := rdRing e.desc + 64 + e.tail * 16
  if err || s.hostFails a 16 || s.hostFails (rdRing e.desc + 4) 4 then none
  else
    let t := s.hostWrite a (leBytes 4 x.1.toNat ++ leBytes 4 (x.2.1 % 2 ^ 24) ++ leBytes 4 x.2.2 ++ leBytes 4 (e.written + 1))
    let tail := (e.tail + 1) % 2 ^ rdLog2ring e.desc
    let u := (t.hostWrite (rdRing e.desc + 4) (leBytes 4 tail)).setEntry i { e with tail := tail, written := e.written + 1 }
    some (if bit (rdFlags e.desc) 4 then { u with req := { u.req with tokenDue := nset u.req.tokenDue false e.part true } } else u)

/-- Ring entries in order, until a write ends with an error: whether one has. -/
def ringWrites (i : Nat) (err : Bool) : List (Lane × Nat × Nat) → State → State × Bool
  | [], s => (s, false)
  | x :: r, s => match s.ringWrite i err x with
    | some t => ringWrites i err r t
    | none => (s, true)

/-- The times of an emit that wrote `wrote` entries (R398). -/
def State.emitTimes (s : State) (i : Nat) (wrote : Bool) : State :=
  let e := s.entryOf i
  match e.tFirst with
  | none => s.setEntry i { e with tFirst := some s.now, tLast := if wrote then s.now else e.tLast }
  | some _ =>
    let d := s.now - e.tLast
    s.setEntry i { e with
      tbtSum := e.tbtSum + d, tbtMax := max e.tbtMax d, intervals := e.intervals + 1, tLast := if wrote then s.now else e.tLast }

/-- PREFIX_PUBLISH (R393): at the first token of a request with publish set. -/
def State.publishPrompt (s : State) (i : Nat) : State :=
  let e := s.entryOf i
  let sd := s.svc e.service
  if s.on F.reqPfxCfg_en && svFlag sd 2 && bit (rdFlags e.desc) 0 then
    let slots := fun (j : Nat) => (List.range (svNshard sd)).map fun sh => (svPool sd sh, (nget e.pages [] sh).getD j 0)
    let b := svBinding sd
    let r := State.publish b (s.get (F.ingBindStat_version b)) (svPart sd) (svPools sd) slots (rdPromptLen e.desc / 256) 0 none
      (e.prompt.take (rdPromptLen e.desc)) s
    match r.2 with
    | some n => r.1.setHandle e.part (rdHandle e.desc) n
    | none => r.1
  else s

/-- One emit record of batch b (R395, R396). -/
def State.emitRecord (s : State) (g : Nat) (b : Batch) (dmax : Nat) (ringErr : List Lane) (r : List Byte) : State :=
  let id := emId r
  let i := id % 65536
  let e := s.entryOf i
  let mine := b.rows.filter fun w => decide (w.id.toNat = id)
  let rows := mine.filter fun w => !w.dead
  if e.gen.toNat ≠ id / 65536 ∨ e.state < 2 then s.inc F.reqDrop_stale 1
  else if e.state = 5 || (rows.isEmpty && !mine.isEmpty) then s.inc F.reqDrop_discarded 1
  else
    let ok := match rows.find? (·.sample) with
      | some w => decide (emPos r = w.pos + 1) && decide (1 ≤ emN r ∧ emN r ≤ 8 ∧ emN r ≤ rows.length) && decide (emNd r ≤ dmax)
      | none => false
    if !ok then (s.postReq 0x8043 clsR id g e.part).endRequest i 0x8043 0 0 0
    else
      let toks := (List.range (emN r)).map fun k => (emToken r k, emLogprob r k)
      let sc := stopScan e toks (emPos r) e.written e.tokens
      let w := ringWrites i (ringErr.any fun x => decide (x.toNat = id)) sc.1 s
      let wrote := decide ((w.1.entryOf i).written ≠ e.written)
      if w.2 then
        ((if wrote then w.1.emitTimes i true else w.1).postReq 0x8030 clsR id g e.part).endRequest i 0x8030 0 0 0
      else
        let s1 := w.1.emitTimes i wrote
        let s2 := if e.tFirst.isNone then s1.publishPrompt i else s1
        let y := s2.entryOf i
        let s3 := s2.setEntry i { y with tokens := sc.2.1.drop (sc.2.1.length - 8) }
        let late := decide (rdTime e.desc ≠ 0) && decide (e.tAccept + rdTime e.desc ≤ s.now)
        match sc.2.2 with
        | some c => s3.endRequest i 0 c.1 c.2 0
        | none =>
          if late then s3.endRequest i 0 4 0 0
          else
            let z := s3.entryOf i
            let s4 := s3.setEntry i { z with
              len := emPos r + emN r - 1, input := some (emToken r (emN r - 1)), drafts := (List.range (emNd r)).map (emDraft r) }
            if e.state = 4 then s4 else s4.join i

/-- The emit records of batch n that are not null (R394). -/
def State.emitRecords (s : State) (d : List Byte) (i n : Nat) : List (List Byte) :=
  let a := grBase d i + n % grNbuf d i * grStride d i + grEmitOff d i
  ((List.range (grTmax d i)).map fun k => s.bytesAt (a + 128 * k) 128).filter fun r => decide (emId r ≠ 0)

/-- EMIT (R394): the records of the oldest emit not yet processed. A second one of its batch interval, or one of a batch that counts
as emitted already, is discarded and counted. -/
def State.emit (s : State) (g : Nat) (ringErr : List Lane) : State :=
  let x := s.group g
  let d := s.svc x.service
  let i := x.entry
  match x.emits with
  | [] => s
  | n :: rest =>
    if d.isEmpty then s
    else
      let recs := s.emitRecords d i n
      match x.batches.find? fun b => decide (b.n = n) && !b.emitted with
      | none => (s.setGroup g { x with emits := rest }).inc F.reqDrop_discarded recs.length
      | some b =>
        let bs := x.batches.map fun y => if y.n = n then { y with emitted := true } else y
        let s2 := s.setGroup g { x with emits := rest, batches := bs }
        let s3 := recs.foldl (fun t r => t.emitRecord g b (svDmax d) ringErr r) s2
        ((rowIds b.rows).foldl (fun t id => t.retire (id % 65536)) s3).settleReq

/-- `ringErr` names requests whose ring writes end with an error, besides those at the pages named. -/
def execEmit (g : Fin 256) (ringErr : List (BitVec 32)) (bad : List Nat) (s : State) : Out :=
  .next ((s.hostIs bad).emit g ringErr)

/-- TOKEN_VECTOR_INTERVAL (R397): one message for the tail updates of the interval. -/
def State.tokenVector (s : State) (p : Nat) : State :=
  if nget s.req.tokenDue false p then
    let t : State := { s with req := { s.req with tokenDue := nset s.req.tokenDue false p false } }
    if t.on (F.reqQCfg_irq_en p) then t.sendMsix p ((t.get (F.reqQCfg_vector p) + 1) % 32) else t
  else s

def execTokenVectorInterval (p : Fin 16) (s : State) : Out := .next (s.tokenVector p)

/-! ## Deadlines and fallback (R399, R400) -/

/-- FALLBACK_MOVE (R400), when every condition holds. -/
def State.fallbackMove (s : State) (i : Nat) : State :=
  let e := s.entryOf i
  let sd := s.svc e.service
  let fb := svFallback sd
  let fd := s.svc fb
  let want := pagesWanted e.desc fd 0
  let due := decide (rdTtft e.desc ≠ 0) && decide (svFrac sd * rdTtft e.desc / 256 ≤ s.now - e.tAccept)
  let fits := decide (rdPromptLen e.desc + rdMaxNew e.desc + svDmax fd ≤ svBound fd) && s.canReserve fd want
  if rdPolicy e.desc % 4 = 2 && fb ≠ 0xFF && !fd.isEmpty && !e.fellBack && due && e.tFirst.isNone &&
      (e.state = 2 || (e.state = 3 && decide (0 < e.wgate))) && fits then
    let id := reqId i e
    let kill := fun (b : Batch) => { b with rows := b.rows.map fun w => if w.id.toNat = id then { w with dead := true } else w }
    let held := (List.range (svNshard sd)).flatMap fun sh => (nget e.pages [] sh).map fun p => (svPool sd sh, p)
    let back := (List.range (svNshard sd)).foldl (fun t sh =>
      t.inc (F.reqPoolFree_free (svPool sd sh)) (e.reserved - ((nget e.pages [] sh).length - e.reused / 256))) s
    let t : State := { back with req := { back.req with
      groups := back.req.groups.map fun x => (x.1, { x.2 with batches := x.2.batches.map kill })
      orphans := back.req.orphans ++ [(id, held)] } }
    ((t.setEntry i { e with
      state := 2, service := fb, nextPos := 0, len := 0, reused := 0, pages := [], want := want, reserved := 0, version := 0
      fellBack := true }).settleOrphans).reserve i
  else s

/-- Whether context c serves a request: it has a slot in a consumer quadrant of the request's decode group or, before it has one, of
its service's groups. -/
def State.serves (s : State) (c : Nat) (e : ReqEntry) : Bool :=
  let d := s.svc e.service
  ((svGroups d).filter fun x => e.group.isNone || e.group = some x.1).any fun x =>
    (consumersOf d x.2).any fun q => (List.range 8).any fun n => decide (s.ctxOf q n = some c)

/-- A deadline of a request is missed during the yields in force of the contexts that serve it (R399, R426). -/
def State.noteMiss (s : State) (e : ReqEntry) : State :=
  { s with acct := { s.acct with yields := s.acct.yields.map fun y =>
    (y.1, if s.serves (y.1 / 4) e then y.2.map fun v => (v.1, true) else y.2) } }

/-- The flags and policy of one live request (R399). -/
def State.deadline (s : State) (i : Nat) : State :=
  let e := s.entryOf i
  if e.state < 2 ∨ 5 ≤ e.state then s
  else
    let t1 := decide (rdTtft e.desc ≠ 0) && e.tFirst.isNone && decide (rdTtft e.desc ≤ s.now - e.tAccept) && !e.ttftMiss
    let t2 := decide (rdTbt e.desc ≠ 0) && e.state = 4 && decide (rdTbt e.desc ≤ s.now - e.tLast) && !e.tbtMiss
    let s0 := if t1 || t2 then s.noteMiss e else s
    let s1 := s0.setEntry i { e with ttftMiss := e.ttftMiss || t1, tbtMiss := e.tbtMiss || t2 }
    if t1 && rdPolicy e.desc % 4 = 1 then (s1.postReq 0x80D1 clsR (reqId i e) e.service e.part).endRequest i 0x80D1 0 0 0
    else if t2 && bit (rdPolicy e.desc) 2 then
      (s1.postReq 0x80D2 clsR (reqId i e) e.service e.part).endRequest i 0x80D2 0 0 0
    else s1.fallbackMove i

/-- DEADLINE_SCAN (R399). -/
def State.deadlineScan (s : State) : State := ((nkeys s.req.entries).foldl (fun t i => t.deadline i) s).settleReq

def execDeadlineScan (bad : List Nat) (s : State) : Out := .next (s.hostIs bad).deadlineScan

/-- REQ_QUARANTINE_EXPIRE (R368). -/
def State.quarantineEnd (s : State) (i : Nat) : State :=
  let e := s.entryOf i
  if e.state = 1 then s.setEntry i { ReqEntry.init with gen := if e.gen + 1 = 0 then 1 else e.gen + 1 } else s

def execReqQuarantineExpire (idx : BitVec 16) (s : State) : Out := .next (s.quarantineEnd idx.toNat)

/-! ## Commands (R401) -/

/-- The sixteen words of REQ_PEEK for an entry. -/
def State.peekWords (s : State) (i : Nat) : List Lane :=
  let e := s.entryOf i
  let fl := (if e.ttftMiss then 1 else 0) + (if e.tbtMiss then 2 else 0) + (if e.fellBack then 4 else 0) +
    if 0 < e.reused then 8 else 0
  let inFlight := (s.req.groups.flatMap fun g => g.2.batches.filter fun b =>
    !b.emitted && b.rows.any fun r => decide (r.id.toNat = reqId i e)).length
  let b := leBytes 4 (reqId i e) ++ leBytes 1 e.state ++ leBytes 1 e.service ++ leBytes 1 e.part
    ++ leBytes 1 (e.group.getD 0xFF) ++ leBytes 4 e.len ++ leBytes 4 e.written ++ leBytes 8 e.tAccept
    ++ leBytes 8 (e.tFirst.getD 0) ++ leBytes 8 e.tLast ++ leBytes 8 e.wgate ++ leBytes 4 e.reserved
    ++ leBytes 2 inFlight ++ leBytes 2 fl ++ leBytes 8 (rdCookie e.desc)
  (List.range 16).map fun k => BitVec.ofNat 32 (byteField b (4 * k) 4)

/-- Status of a command (R401). -/
def State.cmdStatus (s : State) (n : Nat) : State := s.set F.reqCmdStat_status n

/-- The entry that a host command names, or the status that refuses it (R369, R401). -/
def State.cmdEntry (s : State) (o : Orig) (id : Nat) : Except State (Nat × ReqEntry) :=
  let i := id % 65536
  let e := s.entryOf i
  if e.gen.toNat ≠ id / 65536 ∨ e.state < 2 then .error ((s.inc F.reqDrop_stale 1).cmdStatus 3)
  else if !s.actsFor o e.part then .error (s.cmdStatus 4)
  else .ok (i, e)

/-- Cancel (R401, R402). -/
def State.cmdCancel (s : State) (o : Orig) (id : Nat) : State :=
  match s.cmdEntry o id with
  | .error t => t
  | .ok (i, e) =>
    if e.state = 5 then s.cmdStatus 5
    else (((s.postReq 0x80C0 clsR id e.service e.part).endRequest i 0x80C0 0 0 0).settleReq).cmdStatus 1

/-- Ring head (R397, R401). -/
def State.cmdRingHead (s : State) (o : Orig) (id arg : Nat) : State :=
  match s.cmdEntry o id with
  | .error t => t
  | .ok (i, e) =>
    let size := 2 ^ rdLog2ring e.desc
    if size ≤ arg ∨ (e.tail + size - e.head) % size < (arg + size - e.head) % size then s.cmdStatus 5
    else (s.setEntry i { e with head := arg }).cmdStatus 1

/-- Peek (R401): it ignores the generation, and a message that names an entry in state 0 or 1 is dropped (R369). -/
def State.cmdPeek (s : State) (o : Orig) (id : Nat) : State :=
  let i := id % 65536
  let e := s.entryOf i
  if e.state < 2 then (s.inc F.reqDrop_stale 1).cmdStatus 3
  else if !s.actsFor o e.part then s.cmdStatus 4
  else ({ s with req := { s.req with peek := s.peekWords i } } : State).cmdStatus 1

/-- Release of a prefix handle (R401). -/
def State.cmdRelease (s : State) (o : Orig) (h : Nat) : State :=
  let l := s.req.handles.filter fun e => decide (e.1 % 2 ^ 32 = h)
  let mine := l.filter fun e => s.actsFor o (e.1 / 2 ^ 32)
  if l.isEmpty then s.cmdStatus 3
  else if mine.isEmpty then s.cmdStatus 4
  else (({ s with req := { s.req with
    handles := mine.foldl (fun m e => nerase m e.1) s.req.handles } } : State).settleReq).cmdStatus 1

/-- The command of a write to REQ_CMD's high word. -/
def State.reqCmd (s : State) (o : Orig) (v : Lane) : State :=
  let low := s.req.cmdLow.toNat
  match bits low 31 28 with
  | 1 => s.cmdCancel o v.toNat
  | 2 => s.cmdRingHead o v.toNat (bits low 15 0)
  | 3 => s.cmdPeek o v.toNat
  | 4 => s.cmdRelease o v.toNat
  | _ => s.cmdStatus 2

def reqCmdOff : Nat := 0x30001C

/-- REQUEST_CANCEL (R401). -/
def execRequestCancel (o : Orig) (v : Lane) (bad : List Nat) (s : State) : Out :=
  .next ((s.hostIs bad).guard o .perOp reqCmdOff fun s => s.reqCmd o v)
/-- RING_HEAD (R401). -/
def execRingHead (o : Orig) (v : Lane) (s : State) : Out := .next (s.guard o .perOp reqCmdOff fun s => s.reqCmd o v)
/-- PEEK (R401). -/
def execPeek (o : Orig) (v : Lane) (s : State) : Out := .next (s.guard o .perOp reqCmdOff fun s => s.reqCmd o v)
/-- RELEASE_HANDLE (R401). -/
def execReleaseHandle (o : Orig) (v : Lane) (s : State) : Out := .next (s.guard o .perOp reqCmdOff fun s => s.reqCmd o v)

/-! ## Groups, pools and the prefix area -/

/-- GROUP_RESET (R381). -/
def State.groupReset (s : State) (g : Nat) (v : Lane) : State :=
  let x := s.group g
  if !vbit v 0 || x.batches.any fun b => !b.emitted then s
  else
    let t := ((s.setGroup g { x with placed := 0, counts := [], batches := [], emits := [] }).dropStaged g).set
      (F.reqGrpStat_placed g) 0
    if t.get (F.reqGrpStat_state g) = 2 then t.set (F.reqGrpStat_state g) 1 else t

def execGroupReset (g : Fin 256) (o : Orig) (v : Lane) (s : State) : Out :=
  .next (s.guard o .pfOnly (0x304004 + g * 8) fun s => s.groupReset g v)

/-- Pages of pool k in the list of a request, or of one that has moved (R386, R400). -/
def State.poolInUse (s : State) (k : Nat) : Bool :=
  (s.req.entries.any fun e => (List.range (svNshard (s.svc e.2.service))).any fun sh =>
    decide (svPool (s.svc e.2.service) sh = k) && !(nget e.2.pages [] sh).isEmpty) ||
  s.req.orphans.any fun x => x.2.any fun p => decide (p.1 = k)

/-- Pages of pool k that are not free when it is enabled: held by the tree, or reserved (R386). -/
def State.poolHeld (s : State) (k : Nat) : Nat :=
  ((List.range (s.get (F.reqPoolN_npages k))).drop 1 |>.filter fun p => decide (s.refsOf k p ≠ 0)).length +
    s.req.entries.foldl (fun a e => a + (((List.range (svNshard (s.svc e.2.service))).filter fun sh =>
      decide (svPool (s.svc e.2.service) sh = k)).map fun sh =>
        e.2.reserved - ((nget e.2.pages [] sh).length - e.2.reused / 256)).sum) 0

/-- POOL_ENABLE (R386): a write to REQ_POOL_PAGE. -/
def State.poolPage (s : State) (k : Nat) (v : Lane) : State :=
  if s.on (F.reqPoolPage_en k) then
    if vbit v 31 || s.poolInUse k then s else s.set (F.reqPoolPage_en k) 0
  else
    let t := s.set (F.reqPoolPage_page_units k) (vbits v 23 0)
    if vbit v 31 then
      let u := (t.set (F.reqPoolPage_en k) 1).set (F.reqPoolFree_free k) (t.get (F.reqPoolN_npages k) - 1 - t.poolHeld k)
      u.writeAt (u.poolAddr k 0) (List.replicate (256 * vbits v 23 0) 0)
    else t

def execPoolEnable (k : Fin 32) (o : Orig) (v : Lane) (s : State) : Out :=
  .next (s.guard o .pfOnly (0x303008 + k * 0x20) fun s => s.poolPage k v)

/-- PREFIX_ENABLE_WRITE (R392): a write of 0 releases every node and handle. -/
def State.pfxCfg (s : State) (v : Lane) : State :=
  let t := if s.on F.reqPfxCfg_en then s else s.set F.reqPfxCfg_log2nodes (vbits v 4 0)
  if vbit v 31 then t.set F.reqPfxCfg_en 1
  else
    let u := t.releaseNodes fun _ => true
    (({ u with req := { u.req with handles := [] } } : State).set F.reqPfxCfg_en 0).settleReq

def execPrefixEnableWrite (o : Orig) (v : Lane) (s : State) : Out :=
  .next (s.guard o .pfOnly 0x305008 fun s => s.pfxCfg v)

end Sys2Proof.Machine
end

