-- ==== Sys2Proof/Machine/Share.lean ====
section
/-! DEFINITION. Contexts, slots and pre-emption (chapter 13): configuration and binding (R406, R407), command queues (R409), the
wheel registers (R414), save areas (R418 to R425) and the accounting snapshot (R427, R428). -/

namespace Sys2Proof.Machine

/-! ## Contexts (R406) -/

/-- The live counters and the snapshot copies of a context return to zero; its energy stays in the package's sum (R406, R428,
R429). -/
def State.zeroCtx (s : State) (c : Nat) : State :=
  let a := s.acct
  let e := nget a.live 0 (c * 16 + 6)
  let copy := s.get (F.mgtCtxEnergy_uj c)
  let t := { s with acct := { a with
    live := a.live.filter (fun x => x.1 / 16 ≠ c), ovh := a.ovh + e } }
  let u := ((t.set (F.mgtCtxWaitq_ticks c) 0).set (F.mgtCtxWaitw_ticks c) 0).set (F.mgtCtxRun_fc c) 0
  let v := ((u.set (F.mgtCtxHold_fc c) 0).set (F.mgtCtxPre_count c) 0).set (F.mgtCtxPretime_ticks c) 0
  let w := (v.set (F.mgtCtxEnergy_uj c) 0).set F.mgtEnergyOvh_uj (v.get F.mgtEnergyOvh_uj + copy)
  (List.range 6).foldl (fun x k => (x.set (F.mgtCtxYield_count c k) 0).set (F.mgtCtxYield_ticks c k) 0) w

/-- Whether any slot is bound to a context. -/
def State.ctxBound (s : State) (c : Nat) : Bool :=
  (List.range 32).any fun q => (List.range 8).any fun n => decide (s.ctxOf q n = some c)

/-- A write that R406 drops whole. -/
def State.ctxRefuse (s : State) (o : Orig) (c : Nat) : State :=
  s.postRim 0xC0B0 clsN c (some (s.get (F.mgtCtxCfg_part c))) o.code.toNat

/-- CTX_CFG_WRITE (R406). -/
def State.ctxCfg (s : State) (c : Nat) (o : Orig) (v : Lane) : State :=
  let en := s.on (F.mgtCtxCfg_en c)
  if !s.mayWrite o (.part (some (s.get (F.mgtCtxCfg_part c)))) then s.ctxRefuse o c
  else if en && !vbit v 31 && s.ctxBound c then s.ctxRefuse o c
  else
    let s1 := if en then s else s.set (F.mgtCtxCfg_part c) (vbits v 19 16)
    let s2 := s1.set (F.mgtCtxCfg_en c) (vbits v 31 31)
    if vbit v 31 && !en then ((s2.set (F.mgtCtxCfg_ended c) 0).set (F.mgtCtxCfg_code c) 0).zeroCtx c else s2

def execCtxCfgWrite (c : Fin 64) (o : Orig) (v : Lane) (s : State) : Out := .next (s.ctxCfg c o v)

/-! ## Slots (R407, R409, R414) -/

/-- Partitions of the contexts bound to other slots of a quadrant or to slots of its locked-pair partner (R407). -/
def State.otherParts (s : State) (q n : Nat) : List Nat :=
  (s.together q).flatMap fun k => (List.range 8).filterMap fun m => if k = q ∧ m = n then none else s.slotPart k m

/-- Whether a binding write is refused (R407, R493). -/
def State.bindRefused (s : State) (q n : Nat) (o : Orig) (bound : Bool) (c : Nat) : Bool :=
  let sl := (s.quad q).slot n
  let p := s.get (F.mgtCtxCfg_part c)
  sl.cmd.isSome || !sl.queue.isEmpty || (s.quad q).pre.isSome ||
    (bound && (!s.on (F.mgtCtxCfg_en c) || s.on (F.mgtCtxCfg_ended c) ||
      ((List.range 8).any fun m => m ≠ n && s.ctxOf q m = some c) || ((s.otherParts q n).any fun x => x ≠ p) ||
      !s.actsFor o p || s.owner q ≠ some p))

/-- SLOT_BIND (R407). A binding resets SEQ_NFLAG of the slot (R127). -/
def State.slotBind (s : State) (q n : Nat) (o : Orig) (v : Lane) : State :=
  let changed := vbits v 31 31 ≠ s.get (F.seqSlotCtx_bound q n) ∨ vbits v 5 0 ≠ s.get (F.seqSlotCtx_ctx q n)
  if changed ∧ s.bindRefused q n o (vbit v 31) (vbits v 5 0) then
    s.post (s.evQuad 0x20A1 clsN q (some n) none o.code.toNat (vbits v 5 0))
  else
    let t := (((s.set (F.seqSlotCtx_bound q n) (vbits v 31 31)).set (F.seqSlotCtx_irq_en q n) (vbits v 30 30)).set
      (F.seqSlotCtx_vector q n) (vbits v 20 16)).set (F.seqSlotCtx_ctx q n) (vbits v 5 0)
    if changed ∧ vbit v 31 then
      ((t.clearFld (F.seqNflag_first_site q n)).clearFld (F.seqNflag_stop q n)).clearFld (F.seqNflag_flags q n)
    else t

/-- SLOT_BIND (R407). A binding waits for a scrub to end (R494). -/
def execSlotBind (q : Fin 32) (n : Fin 8) (o : Orig) (v : Lane) (s : State) : Out :=
  .next (s.guardQuad o q (quadBlock q + 0x300 + n * 4) fun s =>
    if (s.quad q).scrub.isSome then s.defer q (.slotBind q n o v) else s.slotBind q n o v)

/-- CQ_PUSH (R409): a write of SEQ_CQ_PUSH's high word. -/
def State.cqPush (s : State) (q n : Nat) (o : Orig) (v : Lane) : State :=
  let sl := (s.quad q).slot n
  let e := v.toNat % 65536 * 2 ^ 32 + sl.low.toNat
  match s.ctxOf q n with
  | none => (s.set (F.seqCqStat_overflow q n) 1).post (s.evQuad 0x20A0 clsN q (some n) none o.code.toNat (v.toNat % 65536))
  | some c =>
    if s.on (F.mgtCtxCfg_ended c) then s.complete q n (bits e 47 32) (s.get (F.mgtCtxCfg_code c)) (bit e 31)
    else if 16 ≤ sl.queue.length then
      (s.set (F.seqCqStat_overflow q n) 1).post (s.evQuad 0x20A0 clsN q (some n) none o.code.toNat (v.toNat % 65536))
    else (s.modQuad q fun x => x.setSlot n { sl with queue := sl.queue ++ [e] }).set (F.seqCqStat_queued q n)
        (sl.queue.length + 1)

def execCqPush (q : Fin 32) (n : Fin 8) (o : Orig) (v : Lane) (s : State) : Out :=
  .next (s.guardQuad o q (quadBlock q + 0x344 + n * 8) fun s => s.cqPush q n o v)

/-- WHEEL_WRITE (R414). -/
def State.wheelWrite (s : State) (q w : Nat) (o : Orig) (v : Lane) : State :=
  let t := if w = 0 then s.set (F.seqWheel0_pos0_7 q) v.toNat else s.set (F.seqWheel1_pos8_15 q) v.toNat
  let all := t.get (F.seqWheel0_pos0_7 q) + t.get (F.seqWheel1_pos8_15 q) * 2 ^ 32
  if (List.range 16).any fun p => bit all (4 * p + 3) then t else t.post (t.evQuad 0x20A6 clsN q none none o.code.toNat 0)

def execWheelWrite (q : Fin 32) (w : Fin 2) (o : Orig) (v : Lane) (s : State) : Out :=
  .next (s.guardQuad o q (quadBlock q + 0xD00 + w * 4) fun s => s.wheelWrite q w o v)

/-! ## Pre-emption (R418 to R425) -/

/-- Register fields of a quadrant's slots that a save set holds (R418, R422). -/
def savedFields (q : Nat) : List Fld :=
  (List.range 8).flatMap fun n =>
    [F.seqSlotCtx_bound q n, F.seqSlotCtx_irq_en q n, F.seqSlotCtx_vector q n, F.seqSlotCtx_ctx q n, F.seqCqStat_queued q n,
      F.seqNflag_first_site q n, F.seqNflag_stop q n, F.seqNflag_flags q n, F.seqPc_held q n, F.seqPc_kind q n,
      F.seqPc_active q n, F.seqPc_step q n] ++ ((List.range 8).map fun i => F.seqShape_value q n i) ++
      (List.range 8).flatMap fun w => [F.ingWinPos_active (winEntry q n w), F.ingWinPos_pos (winEntry q n w)]

def wheelFields (q : Nat) : List Fld := [F.seqWheel0_pos0_7 q, F.seqWheel1_pos8_15 q]

/-- The other quadrant that an operation acts on with quadrant q: the partner of a paired section, committed or saved. -/
def mateOf (q : Nat) (x : Section) : Option Nat :=
  if imgPaired x.bytes then some (q / 4 * 4 + imgPairPos x.bytes % 4) else none

/-- The occupant saved in an area. -/
def State.area (s : State) (q a : Nat) : Option Saved := nget (s.quad q).areas none a

/-- Set the registers of an area. -/
def State.showArea (s : State) (q a st : Nat) (paired : Bool) (part id : Nat) : State :=
  (((s.set (F.seqPreArea_state q a) st).set (F.seqPreArea_paired q a) (if paired then 1 else 0)).set
    (F.seqPreArea_part q a) part).set (F.seqPreAreaId_section_id q a) id

/-- The area is free (R422). -/
def State.freeUp (s : State) (q a : Nat) : State :=
  (s.modQuad q fun x => { x with areas := nset x.areas none a none }).showArea q a 0 false 0 0

/-- Reason for which an operation is refused, numbered in the order of R421; 0 when it is accepted. -/
def State.preRefusal (s : State) (o : Orig) (op sa ra : Nat) (qs : List Nat) : Nat :=
  let areas := s.mgmt.areas
  let saves := op = 1 || op = 3
  let restores := op = 2 || op = 3
  let named := (if op ≠ 2 then [sa] else []) ++ if restores then [ra] else []
  let ssw := qs.any fun k => (List.range 8).any fun n => (s.cmdOf k n).isSome && Step.op (s.stepOf k n) = 0x0B
  let busy := qs.any fun k => s.on (F.seqFnCtl_busy k) || !(s.quad k).deferred.isEmpty
  let paired := decide (1 < qs.length)
  let areaPart := fun (k a : Nat) => (s.area k a).map (·.part)
  if op = 0 ∨ 4 < op ∨ named.any (fun a => decide (areas ≤ a)) then 1
  else if saves && (qs.any (fun k => s.get (F.seqPreArea_state k sa) ≠ 0 || (s.quad k).committed.isNone) || ssw || busy) then 2
  else if op = 2 && qs.any fun k => (s.quad k).committed.isSome then 3
  else if restores && qs.any (fun k => s.get (F.seqPreArea_state k ra) ≠ 2 || s.on (F.seqPreArea_paired k ra) ≠ paired) then 4
  else if op = 4 && qs.any fun k => s.get (F.seqPreArea_state k sa) ≠ 2 then 5
  else
    let occ := if saves then qs.map fun k => s.owner k else []
    let held := qs.flatMap fun k => (named.filterMap (areaPart k)).map some
    if (occ ++ held).all fun p => match p with | some x => s.actsFor o x | none => isPf o then 0 else 6

/-- The quadrants of an operation: with the locked-pair partner of the occupant, or of the occupant saved in an area. -/
def State.preQuads (s : State) (q op sa ra : Nat) : List Nat :=
  let m := if op = 1 ∨ op = 3 then s.partner q else (s.area q (if op = 4 then sa else ra)).bind fun x => mateOf q x.sectionOf
  match m with
  | some p => [q, p]
  | none => [q]

/-- A phase of an operation begins. -/
def State.setPhase (s : State) (qs : List Nat) (ph : Nat) : State := qs.foldl (fun t k => t.set (F.seqPreStat_phase k) ph) s

/-- An operation ends with a status and a code. -/
def State.preEnd (s : State) (qs : List Nat) (st code : Nat) : State :=
  qs.foldl (fun t k =>
    ((((t.modQuad k fun x => { x with pre := none }).set (F.seqPreStat_busy k) 0).set (F.seqPreStat_phase k) 0).set
      (F.seqPreStat_status k) st).set (F.seqPreStat_code k) code) s

/-- Descriptors that wait for a section which left for good are cancelled (R424). -/
def State.cancelFor (s : State) (q id : Nat) : State :=
  let waits := fun (d : Option Desc) => match d with
    | some x => !x.remote && x.quad = q && x.waitFor = some id && decide (s.get (F.seqSecId_active_id q) ≠ id)
    | none => false
  (List.range 32).foldl (fun (t : State) k =>
    ((t.quad k).descs.filter fun e => waits e.2).foldl (fun (u : State) e =>
      match e.2 with
      | some d => ((u.postQuad 0x20A5 clsR k (some d.slot) none q).modQuad k fun y => y.setDesc e.1 none).finish k d.slot
          0x20A5 0
      | none => u) t) s

/-- FREE (R421, R424): the area's pins are released. -/
def State.preFree (s : State) (qs : List Nat) (a : Nat) : State :=
  (qs.foldl (fun t k => match t.area k a with
    | some x => ((t.dropSection (some x.sectionOf)).freeUp k a).cancelFor k (imgSectionId x.sectionOf.bytes)
    | none => t) s).preEnd qs 1 0

/-- Step 5 begins: the owner follows the area's partition (R422, R493). -/
def State.beginReload (s : State) (qs : List Nat) (ra : Nat) : State :=
  (qs.foldl (fun t k => match t.area k ra with
    | some x =>
      let u := if t.owner k = some x.part then t else (t.set (F.secQuadOwn_en k) 1).set (F.secQuadOwn_part k) x.part
      u.set (F.seqPreArea_state k ra) 3
    | none => t) s).setPhase qs 4

/-- A write to SEQ_PRE_CTL (R420, R421). -/
def State.preCtl (s : State) (q : Nat) (o : Orig) (v : Lane) : State :=
  let s1 := ((s.set (F.seqPreCtl_op q) (vbits v 11 8)).set (F.seqPreCtl_save_area q) (vbits v 6 4)).set
    (F.seqPreCtl_restore_area q) (vbits v 2 0)
  if !vbit v 31 || s1.on (F.seqPreStat_busy q) then s1
  else
    let op := vbits v 11 8
    let sa := vbits v 6 4
    let ra := vbits v 2 0
    let qs := s1.preQuads q op sa ra
    match s1.preRefusal o op sa ra qs with
    | 0 =>
      if op = 4 then s1.preFree qs sa
      else
        let t := qs.foldl (fun t k =>
          ((t.modQuad k fun x => { x with pre := some ⟨op, sa, ra, (qs.filter (· ≠ k)).head?, 0⟩ }).set (F.seqPreStat_busy k) 1).set
            (F.seqPreStat_status k) 0) s1
        if op = 2 then t.beginReload qs ra else t.setPhase qs 1
    | r => ((s1.set (F.seqPreStat_status q) 2).set (F.seqPreStat_code q) 0x20A2).post
        (s1.evQuad 0x20A2 clsN q none none o.code.toNat r)

/-- A write to SEQ_PRE_CTL by an originator that may make it; it waits for a scrub to end (R494). -/
def State.preWrite (s : State) (q : Nat) (o : Orig) (v : Lane) (i : Instr) : State :=
  s.guardQuad o q (quadBlock q + 0xD10) fun s => if (s.quad q).scrub.isSome then s.defer q i else s.preCtl q o v

/-- SAVE (R421). -/
def execSaveOcc (q : Fin 32) (o : Orig) (v : Lane) (s : State) : Out := .next (s.preWrite q o v (.saveOcc q o v))
/-- RESTORE (R421). -/
def execRestoreOcc (q : Fin 32) (o : Orig) (v : Lane) (s : State) : Out := .next (s.preWrite q o v (.restoreOcc q o v))
/-- SWAP (R421). -/
def execSwapOcc (q : Fin 32) (o : Orig) (v : Lane) (s : State) : Out := .next (s.preWrite q o v (.swapOcc q o v))
/-- FREE (R421). -/
def execFreeArea (q : Fin 32) (o : Orig) (v : Lane) (s : State) : Out := .next (s.preWrite q o v (.freeArea q o v))

/-- The operation in progress of a quadrant in a phase, and the quadrants that it acts on. -/
def State.preIn (s : State) (q ph : Nat) : Option (PreOp × List Nat) :=
  match (s.quad q).pre with
  | some p => if s.get (F.seqPreStat_phase q) = ph then some (p, match p.mate with | some k => [q, k] | none => [q]) else none
  | none => none

/-- Add to a live counter of a context (R428). -/
def State.acctCtx (s : State) (c k v : Nat) : State :=
  { s with acct := { s.acct with live := nmod s.acct.live 0 (c * 16 + k) fun x => (x + v) % 2 ^ 64 } }

/-- Contexts bound to slots of a quadrant. -/
def State.boundCtxs (s : State) (q : Nat) : List Nat := (List.range 8).filterMap (s.ctxOf q)

/-- PRE_SWITCH_POINT (R418, R422 steps 1 and 2): nothing runs and the post queue is empty; words received are committed, held
slots leave their holds, the occupant's descriptors are suspended, and each context bound has suffered a pre-emption. The phase
is 2 while words that it sent are in flight, then 3 (R420). A transaction refused as busy has no word in flight and is given back. -/
def State.preStop (s : State) (q : Nat) : State :=
  match s.preIn q 1 with
  | none => s
  | some (p, qs) =>
    let free := qs.all fun k =>
      let x := s.quad k
      !x.working && x.digQueue.isEmpty && match x.cur with | none => true | some n => x.due || s.isHeld k n
    if !free then s
    else
      let stop := fun (t : State) (k : Nat) =>
        let u := (List.range 8).foldl (fun w n => w.closeHold k n) (t.landAll k)
        let v := u.modQuad k fun x => { x with
          cur := none, due := false, pre := x.pre.map fun y => { y with since := s.ticks }
          descs := x.descs.map fun e => (e.1, e.2.map fun d => { d with suspended := true }) }
        let b := v.chord.trans.foldl (fun z e => match e.2 with
          | some y => if y.q = k ∧ y.busy then z.giveBack e.1 y else z
          | none => z) v
        let w := b.set (F.seqPreArea_state k p.saveArea) 1
        (w.boundCtxs k).foldl (fun z c => z.acctCtx c 4 1) w
      let t := qs.foldl stop s
      t.setPhase qs (if qs.any t.flying then 2 else 3)

def execPreSwitchPoint (q : Fin 32) (s : State) : Out := .next (s.preStop q)

/-- What a save area takes of an occupant (Table 103). -/
def State.capture (s : State) (q : Nat) (sec : Section) : Saved :=
  let x := s.quad q
  { sectionOf := sec, paired := imgPaired sec.bytes, part := (s.owner q).getD 0, lat := x.lat, slots := x.slots, timed := x.timed
    descs := x.descs.foldl (fun m e => match e.2 with | some d => nset m Desc.init e.1 d | none => m) []
    chanArr := x.chanArr, chanRcp := x.chanRcp
    regs := (savedFields q ++ wheelFields q).foldl (fun m f => nset m 0 f.key (s.get f)) []
    patched := x.patched, staged := x.staged, since := match x.pre with | some y => y.since | none => s.ticks }

/-- The section leaves a quadrant, which is then in the state of R217. -/
def State.leave (s : State) (q : Nat) : State :=
  let t := (s.endTrans fun y => decide (y.q = q)).setShadow q 0 none
  let u := t.modQuad q fun x =>
    { x with
      committed := none, slots := [], cur := none, due := false, descs := [], chanArr := [], chanRcp := [], digQueue := []
      timed := [], inbox := [], patched := [], staged := []
      lat := { x.lat with
        route := none, flight := [], edgeQ := [], edgeOver := [], overflowed := [], drains := []
        prisms := nmapv x.lat.prisms Prism.init fun p => { Prism.init with bcast := p.bcast, bcastPoison := p.bcastPoison }
        sectors := nmapv x.lat.sectors Sector.init fun y => { Sector.init with
          sram := y.sram, bad := y.bad, spare := y.spare, corrections := y.corrections } } }
  (((u.set (F.seqSecId_active_id q) 0).set (F.seqSecStat_committed q) 0).set (F.seqSecStat_paired q) 0).set
    (F.seqDigStat_queued q) 0

/-- The section leaves a quadrant and its slots read unbound (R422). -/
def State.vacate (s : State) (q : Nat) : State := (savedFields q).foldl State.clearFld (s.leave q)

/-- The contexts of an occupant end with a code: the commands and queued entries that its save set holds, then the rest of
each context (R405, R425). -/
def State.endSaved (s : State) (q : Nat) (x : Saved) (code : Nat) : State :=
  let bound := fun (n : Nat) => nget x.regs 0 (F.seqSlotCtx_bound q n).key = 1
  let ctxs := (List.range 8).filterMap fun n =>
    if bound n then some (nget x.regs 0 (F.seqSlotCtx_ctx q n).key) else none
  let t := x.slots.foldl (fun (t : State) e =>
    let t1 := match e.2.cmd with
      | some c => (t.complete q e.1 c.tag code false).breakGroups q x.sectionOf.bytes c code 0
      | none => t
    e.2.queue.foldl (fun u w => u.complete q e.1 (bits w 47 32) code false) t1) s
  ctxs.foldl (fun u c => u.endContext c code 0) t

/-- An operation fails after the occupant was captured: its contexts end, its pins are released, the area is free (R425). -/
def State.preFail (s : State) (qs : List Nat) (a st code ev : Nat) (q : Nat) : State :=
  let t := qs.foldl (fun t k => match t.area k a with
    | some x => ((t.dropSection (some x.sectionOf)).freeUp k a).endSaved k x code
    | none => t) s
  let ids := qs.filterMap fun k => (s.area k a).map fun x => (k, imgSectionId x.sectionOf.bytes)
  let u := ids.foldl (fun u e => u.cancelFor e.1 e.2) t
  (u.postQuad ev clsR q none none code).preEnd qs st ev

/-- PRE_SAVE_COMPLETE (R422 steps 2 and 3, R425): words in flight are committed first; `code` is the tier error that the save
met, 0 for none. -/
def State.preSaved (s : State) (q code : Nat) : State :=
  match (s.preIn q 3).or (s.preIn q 2) with
  | none => s
  | some (p, qs) =>
    if qs.any s.flying then s else
    let take := fun (t : State) (k : Nat) => match (t.quad k).committed with
      | none => t
      | some sec =>
        let x := t.capture k sec
        let u := (t.vacate k).modQuad k fun y => { y with areas := nset y.areas none p.saveArea (some x) }
        u.showArea k p.saveArea 2 x.paired x.part (imgSectionId sec.bytes)
    let t := qs.foldl take s
    if code ≠ 0 then t.preFail qs p.saveArea 3 code 0x20A3 q
    else if p.op = 3 then t.beginReload qs p.restoreArea
    else t.preEnd qs 1 0

def execPreSaveComplete (q : Fin 32) (code : Code) (s : State) : Out := .next (s.preSaved q code.toNat)

/-- Code of a restore from stack devices of which one is retired (R419, R474). -/
def State.areaLost (s : State) (q : Nat) : Option Nat :=
  let devs := if q < 24 then [q / 4] else if q < 28 then [6, 7, 8] else [9, 10, 11]
  devs.findSome? fun d => if s.on (F.ecuStk_dev_retired d) then some 0xA022
    else if s.on (F.ecuStk_ch_retired d) then some 0xA021 else none

/-- The image of a saved occupant, read again and checked (R422 step 5), or the code of the failure. -/
def State.reload (s : State) (q : Nat) (x : Saved) : Except Nat Section :=
  match s.areaLost q with
  | some c => .error c
  | none =>
  match s.loadCheck q x.sectionOf.addr (s.loadHeader q x.sectionOf.addr) with
  | .error e => .error e.code
  | .ok y => if imgDigest y.bytes = imgDigest x.sectionOf.bytes then .ok y else .error 0x20A4

/-- The image of the area in the shadow, as its commit finds it. -/
def State.stageArea (s : State) (a k : Nat) : State :=
  match s.area k a with
  | some x => (s.setShadow k 2 none).modQuad k fun y => { y with shadow := some { x.sectionOf with held := true } }
  | none => s

/-- PRE_RELOAD_COMPLETE (R422 step 5, R425): the image is committed with the area's pins, unless a check of Table 56 that the other
commits of the facet or the function store can fail refuses it (R146, R213, R336, log entry 97). The commit waits for a function
install (R145). -/
def State.preReloaded (s : State) (q : Nat) : State :=
  match s.preIn q 4 with
  | none => s
  | some (p, qs) =>
    if qs.any fun k => s.on (F.seqFnCtl_busy k) then s
    else
      let bad := qs.findSome? fun k => match s.area k p.restoreArea with
        | some x => (match s.reload k x with | .error c => some c | .ok _ => none)
        | none => none
      let t := qs.foldl (fun t k => t.stageArea p.restoreArea k) s
      match bad.or ((qs.findSome? fun k => t.commitCheck k fun _ => true).map (·.1)) with
      | some c => s.preFail qs p.restoreArea 4 c c q
      | none => (qs.foldl (fun u k => if (s.area k p.restoreArea).isSome then u.commitOne k else u) t).setPhase qs 5

def execPreReloadComplete (q : Fin 32) (s : State) : Out := .next (s.preReloaded q)

/-- The save set is written back (R422 step 6): descriptors resume, and slots whose context ended meanwhile end with its code. -/
def State.writeBack (s : State) (q a : Nat) (x : Saved) : State :=
  let descs := x.descs.map fun e => (e.1, some { e.2 with suspended := false })
  let now := (s.quad q).lat
  let lat := (sectorSites q).foldl (fun (l : Lattice) st => l.setSector st { l.sector st with
    spare := (now.sector st).spare, corrections := (now.sector st).corrections }) { x.lat with route := none }
  let t := s.modQuad q fun y => { y with
    lat := lat, slots := x.slots, descs := descs, timed := x.timed, chanArr := x.chanArr, chanRcp := x.chanRcp
    patched := x.patched, staged := x.staged ++ y.staged, cur := none, due := true }
  let u := (savedFields q ++ wheelFields q).foldl (fun (w : State) f => w.set f (nget x.regs 0 f.key)) t
  let v := (u.boundCtxs q).foldl (fun z c => z.acctCtx c 5 (s.ticks - x.since)) (u.freeUp q a)
  (List.range 8).foldl (fun z n => match z.ctxOf q n with
    | some c => if z.on (F.mgtCtxCfg_ended c) then z.endSlot q n (z.get (F.mgtCtxCfg_code c)) 0 else z
    | none => z) v

/-- PRE_RESTORE_COMPLETE (R422 step 6, R425): `code` is the error that a word of the area met, 0 for none. -/
def State.preRestored (s : State) (q code : Nat) : State :=
  match s.preIn q 5 with
  | none => s
  | some (p, qs) =>
    if code ≠ 0 then
      let t := qs.foldl (fun t k => match t.area k p.restoreArea with
        | some _ => (t.modQuad k fun y => { y with committed := none }).vacate k
        | none => t) s
      t.preFail qs p.restoreArea 4 code code q
    else (qs.foldl (fun t k => match t.area k p.restoreArea with
      | some x => t.writeBack k p.restoreArea x
      | none => t) s).preEnd qs 1 0

def execPreRestoreComplete (q : Fin 32) (code : Code) (s : State) : Out := .next (s.preRestored q code.toNat)

/-! ## Accounting (R426 to R428) -/

/-- ACCT_SNAP (R427). -/
def State.acctSnap (s : State) (v : Lane) : State :=
  if vbit v 0 then
    ({ s with acct := { s.acct with clear := s.acct.clear || vbit v 1 } } : State).set F.mgtAcctCtl_busy 1
  else s

def execAcctSnap (o : Orig) (v : Lane) (s : State) : Out := .next (s.guard o .pfOnly 0x3F00 fun s => s.acctSnap v)

end Sys2Proof.Machine
end

