-- ==== Sys2Proof/Machine/Contain.lean ====
section
/-! DEFINITION. Error containment (chapter 15): fences and self-tests (R470, R471), element faults (R469, R473, R474), row
repairs (R472), package-ending faults (R477), the persistent log (R482), the consistent cut (R486 to R490) and the mailboxes
that end it (R180). -/

namespace Sys2Proof.Machine

/-! ## Fencing a quadrant (R470) -/

/-- The command of a slot ends with a code, and with it the context bound to the slot, where one is bound (R405). -/
def State.endSlotWork (s : State) (q n code : Nat) : State :=
  match s.ctxOf q n with
  | some c => s.endContext c code 0
  | none => s.endSlot q n code 0

/-- A pre-emption operation of a fenced quadrant stops: an occupant being reloaded ends with the code (R425, R470). -/
def State.fencePre (s : State) (q code : Nat) : State :=
  match (s.quad q).pre with
  | none => s
  | some p =>
    let qs := match p.mate with | some k => [q, k] | none => [q]
    if 4 ≤ s.get (F.seqPreStat_phase q) then
      (qs.foldl (fun t k => match t.area k p.restoreArea with
        | some x => ((t.dropSection (some x.sectionOf)).freeUp k p.restoreArea).endSaved k x code
        | none => t) s).preEnd qs 4 code
    else
      (qs.foldl (fun t k => if t.get (F.seqPreArea_state k p.saveArea) = 1 then t.freeUp k p.saveArea else t) s).preEnd qs 3
        code

/-- Descriptors of other quadrants whose destination is the quadrant are cancelled; their commands end with a code. -/
def State.cancelTo (s : State) (q code : Nat) : State :=
  let into := fun (d : Desc) => !d.remote && d.chan.isSome && decide (d.quad = q)
  (List.range 32).foldl (fun t k =>
    ((t.quad k).descs.filter fun e => match e.2 with | some d => into d | none => false).foldl (fun u e =>
      match e.2 with
      | some d => (u.freeDesc k e.1).finish k d.slot code 0
      | none => u) t) s

/-- Commands held at a GATE EDGE on a boundary with the quadrant end with ECU:0x010. -/
def State.failEdges (s : State) (q : Nat) : State :=
  (List.range 32).foldl (fun t k => (List.range 8).foldl (fun u n =>
    let w := u.stepOf k n
    if u.isHeld k n && decide (Step.op w = 0x08) && decide (Step.kind w = 3) &&
        decide (neighbour k (Step.boundary w) = some q) then u.finish k n 0xA010 0 else u) t) s

/-- Fence a quadrant, its work ending with a code (R470 steps 1 to 6). -/
def State.fenceQuad (s : State) (q code : Nat) : State :=
  if s.fenced q then s
  else
    let qs := s.together q
    let s1 := qs.foldl (fun t k => (List.range 8).foldl (fun u n => u.endSlotWork k n code) t) (s.fencePre q code)
    let s2 := ((s1.cancelTo q code).failEdges q).cutFence q
    let s3 := (s2.dropSection (s2.quad q).committed).discard q
    (s3.leave q).set F.ecuFence_fenced (s3.get F.ecuFence_fenced + 2 ^ q)

/-- Fence a quadrant and log ECU:0x010. -/
def State.fenceLog (s : State) (q : Nat) (orig : Nat) : State :=
  if s.fenced q then s
  else (s.fenceQuad q 0xA010).post (evElement 0xA010 clsE q none orig 0)

/-- A write of ECU_FENCE_CTL (R479): FENCE acts at once, READMIT starts the self-test of R471. -/
def State.fenceCtl (s : State) (o : Orig) (v : Lane) : State :=
  s.guard o .pfOnly 0x20000C fun s =>
    let t := (s.set F.ecuFenceCtl_op (vbits v 30 28)).set F.ecuFenceCtl_quadrant (vbits v 4 0)
    let q := vbits v 4 0
    if !vbit v 31 || s.on F.ecuFenceCtl_busy then t
    else match vbits v 30 28 with
      | 1 =>
        if !s.active q || s.fenced q then t.set F.ecuFenceCtl_status 2
        else (t.fenceLog q o.code.toNat).set F.ecuFenceCtl_status 1
      | 2 =>
        if !s.fenced q then t.set F.ecuFenceCtl_status 2
        else ({ t with ecu := { t.ecu with readmit := some q } }.set F.ecuFenceCtl_status 0).set F.ecuFenceCtl_busy 1
      | _ => t.set F.ecuFenceCtl_status 2

/-- FENCE (R470). -/
def execFence (o : Orig) (v : Lane) (s : State) : Out := .next (s.fenceCtl o v)
/-- READMIT (R471). -/
def execReadmit (o : Orig) (v : Lane) (s : State) : Out := .next (s.fenceCtl o v)

/-- The reset of a quadrant (R532): no section, shadow empty, SRAM zero, counters, flags and function store reset, every register of
its block at its reset value but for those of its save areas, which lie outside the quadrant. -/
def State.resetQuad (s : State) (q : Nat) : State :=
  let t := (s.dropSection (s.quad q).committed).dropSection (s.quad q).shadow
  let x := t.quad q
  let sectors := nmapv x.lat.sectors Sector.init fun y => { Sector.init with spare := y.spare }
  let areaKey := fun (k : Nat) => decide ((quadBlock q + 0xD20) * 64 ≤ k) && decide (k < (quadBlock q + 0xD60) * 64)
  let inBlock := fun (k : Nat) => decide (quadBlock q * 64 ≤ k) && decide (k < quadBlock (q + 1) * 64)
  let u := t.setQuad q { Quad.init with areas := x.areas, lat := { Lattice.init with sectors := sectors } }
  { u with regs := u.regs.filter fun e => !inBlock e.1 || areaKey e.1 }

/-- READMIT_SELFTEST_COMPLETE (R471). -/
def State.selftest (s : State) (q : Nat) (pass : Bool) : State :=
  if s.ecu.readmit ≠ some q then s
  else
    let t := { s with ecu := { s.ecu with readmit := none } }.set F.ecuFenceCtl_busy 0
    if pass then
      ((((t.resetQuad q).set F.ecuFence_fenced (t.get F.ecuFence_fenced - 2 ^ q)).post (evElement 0xA011 clsN q none 0 0)).set
        F.ecuFenceCtl_status 1)
    else (t.post (evElement 0xA012 clsN q none 0 0)).set F.ecuFenceCtl_status 4

def execReadmitSelftestComplete (q : Fin 32) (pass : Bool) (s : State) : Out := .next (s.selftest q pass)

/-- QUADRANT_FAULT (R469). -/
def execQuadrantFault (q : Fin 32) (s : State) : Out := .next (if s.active q then s.fenceLog q 0 else s)

/-! ## Package-ending faults (R476, R477) -/

/-- A class P fault: halted, ECU:0x0F0 with the cause, every command ends, every live request has its record with ECU:0x0F0 while the
request engine is intact, every chord is dark. -/
def State.packageFault (s : State) (cause : Nat) (intact : Bool) : State :=
  if s.on F.ecuStat_halted then s
  else
    let t := ((s.set F.ecuStat_halted 1).set F.mgtAlert_cause (Nat.lor (s.get F.mgtAlert_cause) 1)).post (evRim 0xA0F0 clsP cause none 0)
    let u := t.endCommands 0xA0F0 fun _ _ => true
    let v := if intact then u.endRequests 0xA0F0 fun _ => true else u
    v.darken ((List.range 64).filter fun k => s.get (F.chdLinkStat_state k) ≠ 0) 0

/-- A read of the page table that failed in every copy ends the package with STK:0x011 (R235, R476). -/
def State.tableCheck (s : State) : State :=
  if s.ecu.tableFail then ({ s with ecu := { s.ecu with tableFail := false } } : State).packageFault 0x4011 true else s

/-- PACKAGE_FAULT (R477): a cause of the request engine's block says that it is not intact. -/
def execPackageFault (cause : Code) (s : State) : Out :=
  .next (s.packageFault cause.toNat (cause.toNat / 4096 ≠ 8))

/-! ## Seams, stacks, facets and rim S (R469, R473, R474) -/

/-- Commands whose sections cross a seam end with a code. -/
def State.endCrossing (s : State) (code : Nat) (sel : Nat → Bool) : State :=
  let hit := (List.range 32).filter fun q => s.sectionCrosses q sel
  s.endCommands code fun q _ => hit.contains q

/-- A die without a route to rim N ends the package (R42, R476). -/
def State.checkRoutes (s : State) (cause : Nat) : State := if s.allRouted then s else s.packageFault cause true

/-- Retire a seam. -/
def State.retireSeam (s : State) (n : Nat) : State :=
  if bit (s.get F.ecuSeam_retired) n then s else s.set F.ecuSeam_retired (s.get F.ecuSeam_retired + 2 ^ n)

/-- Die whose containment agent detects a seam's fault: its lower-numbered end (R556). -/
def seamDie (n : Nat) : Nat := let e := seamEnds.getD n (0, 0); min e.1 e.2

/-- SEAM_FAULT (R42, R473). -/
def State.seamFault (s : State) (n : Nat) : State :=
  if bit (s.get F.ecuSeam_retired) n then s
  else
    let t := (s.endCrossing 0xA020 fun k => decide (k = n)).retireSeam n
    (t.post ⟨0xA020, clsE, seamDie n, none, none, none, some n, 0, n⟩).checkRoutes 0xA020

def execSeamFault (seam : Fin 14) (s : State) : Out := .next (s.seamFault seam)

/-- A stack device stops giving frames; its migrations are abandoned, and where it holds a copy of the page table that copy is
abandoned, or, with the other already abandoned, the package ends (R235, R474). -/
def State.loseStack (s : State) (dev code : Nat) : State :=
  let u := 8 + dev
  let t := ((s.set (F.strFrameFree_total u) 0).set (F.strFrameFree_free u) 0).evictTrack
  let v := (t.migrations.filter fun m => decide (m.unit = u) || decide ((t.page m.page).unit = u)).foldl
    (fun w m => if w.migrations.contains m then w.migAbandon m else w) t
  (if dev ≠ 6 ∧ dev ≠ 9 then v
  else match v.tableLost with
    | none => { v with tableLost := some dev }
    | some d => if d = dev then v else v.packageFault code true).tableCheck

/-- Retire a stack device and end what uses it with a code. -/
def State.retireStack (s : State) (dev code : Nat) : State :=
  ((s.set (F.ecuStk_dev_retired dev) 1).endUsers code fun u _ => decide (u = 8 + dev)).loseStack dev code

/-- STACK_DEVICE_FAULT (R474). -/
def State.stackFault (s : State) (dev : Nat) : State :=
  if s.on (F.ecuStk_dev_retired dev) then s
  else (s.retireStack dev 0xA022).post ⟨0xA022, clsE, unitDie (8 + dev), none, none, none, some (8 + dev), 0, dev⟩

def execStackDeviceFault (dev : Fin 12) (s : State) : Out := .next (s.stackFault dev)

/-- STACK_CHANNEL_FAULT (R474): a second channel retires the device (Table 116). -/
def State.channelFault (s : State) (dev ch : Nat) : State :=
  if s.on (F.ecuStk_dev_retired dev) || (s.on (F.ecuStk_ch_retired dev) && decide (s.get (F.ecuStk_channel dev) = ch)) then s
  else if s.on (F.ecuStk_ch_retired dev) then s.stackFault dev
  else
    let t := (s.set (F.ecuStk_ch_retired dev) 1).set (F.ecuStk_channel dev) ch
    ((t.endUsers 0xA021 fun u _ => decide (u = 8 + dev)).loseStack dev 0xA021).post
      ⟨0xA021, clsE, unitDie (8 + dev), none, none, none, some (8 + dev), 0, ch⟩

def execStackChannelFault (dev : Fin 12) (ch : Fin 32) (s : State) : Out := .next (s.channelFault dev ch)

/-- FACET_FAULT (R469): its quadrants are fenced, its base die, stack devices and seams retired, and the work that uses them ends
with ECU:0x018. -/
def State.facetFault (s : State) (f : Nat) : State :=
  if bit (s.get F.ecuFacet_retired) f then s
  else
    let ends := fun (n : Nat) => let e := seamEnds.getD n (0, 0); decide (e.1 = f) || decide (e.2 = f)
    let seams := (List.range 14).filter ends
    let devs := (List.range 12).filter fun d => decide (unitDie (8 + d) = f)
    let t := ([0, 1, 2, 3].foldl (fun u i => u.fenceQuad (4 * f + i) 0xA018) s).endCrossing 0xA018 ends
    let u := (t.set F.ecuFacet_retired (t.get F.ecuFacet_retired + 2 ^ f)).endUsers 0xA018 fun x _ => decide (x = f)
    let v := ((u.set (F.strFrameFree_total f) 0).set (F.strFrameFree_free f) 0)
    let w := devs.foldl (fun x d => if x.on (F.ecuStk_dev_retired d) then x else x.retireStack d 0xA018) v
    let z := seams.foldl State.retireSeam w
    (z.post ⟨0xA018, clsE, f, none, none, none, some f, 0, f⟩).checkRoutes 0xA018

def execFacetFault (f : Fin 8) (s : State) : Out := .next (s.facetFault f)

/-- RIM_S_FAULT (R44, R469): chords 32 to 63 leave service, far ports 4 to 7 and ingest unit 1 fail. -/
def State.rimSFault (s : State) : State :=
  if s.ecu.rimS then s
  else
    let t := { s with ecu := { s.ecu with rimS := true } }
    let u := t.darken ((List.range 32).map (· + 32)) 0
    ([4, 5, 6, 7].foldl State.portFail u).unitFault

def execRimSFault (s : State) : Out := .next s.rimSFault

/-! ## Row repairs (R472) -/

/-- SECTOR_ROW_REPAIR (R472): at an idle interval the row moves to a spare one; without a spare the quadrant is fenced. A word that is
uncorrectable stays poisoned. -/
def State.sectorRepair (s : State) (q site row : Nat) : State :=
  if !s.active q || s.fenced q || !s.idle q || !isSector q site || decide (64 ≤ row) then s
  else
    let x := s.quad q
    let y := x.lat.sector site
    if y.spare = 0 then s.fenceLog q 0
    else
      let z := { y with
        spare := y.spare - 1, corrections := nset y.corrections 0 row 0
        bad := y.bad.filter fun e => decide (e.1 / 4096 ≠ row) || decide (e.2 = some true) }
      (s.setQuad q { x with lat := x.lat.setSector site z }).post (evElement 0xA024 clsE q (some site) 0 row)

def execSectorRowRepair (q : Fin 32) (site : BitVec 8) (row : BitVec 6) (s : State) : Out :=
  .next (s.sectorRepair q site.toNat row.toNat)

/-- BASE_ROW_REPAIR (R227, R472): rows of 8 KiB, 256 to a frame; without a spare the frame leaves service when it is unmapped. -/
def State.baseRepair (s : State) (f frame row : Nat) : State :=
  if bit (s.get F.ecuFacet_retired) f || decide (s.unitFrames f ≤ frame) then s
  else if s.get (F.ecuSpare_base_rows f) = 0 then
    if nget s.ecu.badFrames false (frameKey f frame) then s
    else
      let t := { s with ecu := { s.ecu with badFrames := nset s.ecu.badFrames false (frameKey f frame) true } }
      if s.useOf f frame = .free then
        (((t.setUse f frame .reserved).dec (F.strFrameFree_total f) 1).dec (F.strFrameFree_free f) 1).evictTrack
      else t
  else
    let lo := memKey f frame (row * 8192)
    let t := { s with memBad := s.memBad.filter fun e =>
      !(decide (lo ≤ e.1) && decide (e.1 < lo + 8192)) || decide (e.2 = some true) }
    (t.dec (F.ecuSpare_base_rows f) 1).post ⟨0x3020, clsE, f, none, none, none, some f, 0, frame * 2 ^ 21 + row * 8192⟩

def execBaseRowRepair (f : Fin 8) (frame : BitVec 12) (row : BitVec 8) (s : State) : Out :=
  .next (s.baseRepair f frame.toNat row.toNat)

/-! ## The persistent log (R482) -/

def State.logCopy (s : State) (b : Bool) : LogCopy := if b then s.ecu.copyB else s.ecu.copyA
def State.setLogCopy (s : State) (b : Bool) (c : LogCopy) : State :=
  { s with ecu := if b then { s.ecu with copyB := c } else { s.ecu with copyA := c } }

/-- A commit of a copy starts: it will append every entry posted so far. -/
def State.logStart (s : State) (b : Bool) : State :=
  let c := s.logCopy b
  if c.busy.isSome then s else s.setLogCopy b { c with busy := some (s.get F.ecuLogTail_seq) }

/-- LOG_COMMIT_B (R482): 2 ms after a boundary at which copy A commits. -/
def execLogCommitB (s : State) : Out := .next (if s.ticks / 25000 % 4 = 2 then s.logStart true else s)

/-- Entries of a commit from seq a up to b: those that the ring still holds. -/
def State.logRange (s : State) (a b : Nat) : List (List Byte) :=
  let lo := max a (s.get F.ecuLogTail_seq - 4096)
  (List.range (b - lo)).map fun i => nget s.log [] ((lo + i) % 4096)

/-- The commit in progress of a copy is written: entries, then the record; the copy keeps its last 131,072 entries. -/
def State.logWrite (s : State) (b : Bool) : State :=
  let c := s.logCopy b
  match c.busy with
  | none => s
  | some e =>
    let new := s.logRange c.next e
    let all := c.entries ++ new
    s.setLogCopy b
      { entries := all.drop (all.length - 131072), next := e, commits := c.commits + 1
        last := some (c.commits + 1, e - 1, crc64 new.flatten), busy := none }

/-- The first seq not yet in both copies. -/
def State.logDur (s : State) : State := s.set F.ecuLogDur_seq (min s.ecu.copyA.next s.ecu.copyB.next)

/-- LOG_COMMIT_COMPLETE (R482). -/
def State.logDone (s : State) (b ok : Bool) : State :=
  let c := s.logCopy b
  if c.busy.isNone then s
  else if ok then (s.logWrite b).logDur
  else (s.setLogCopy b { c with busy := none }).postRim 0xA0E0 clsN (if b then 1 else 0) none 0

def execLogCommitComplete (copyB ok : Bool) (s : State) : Out := .next (s.logDone copyB ok)

/-! ## The consistent cut (R486 to R490) -/

/-- Whether a CUT is refused (R487). -/
def State.cutRefused (s : State) (o : Orig) : Bool :=
  let l := s.cutParts
  let bad := fun (q : Nat) => (s.quad q).committed.isNone || s.fenced q || (s.quad q).pre.isSome
  match l.head?.bind fun e => s.owner e.1 with
  | none => true
  | some p =>
    !s.actsFor o p || s.get F.ecuCutCtl_state ≠ 0 ||
      l.any fun e => bad e.1 || decide (s.owner e.1 ≠ some p) ||
        (List.range (if isW e.1 then 31 else 45)).any fun i =>
          let g := s.page (e.2 + i)
          !g.valid || decide (Pte.part g ≠ p) || decide (20 ≤ g.unit)

/-- A cut operation is refused. -/
def State.cutRefuse (s : State) (o : Orig) : State :=
  ((s.set F.ecuCutCtl_status 2).set F.ecuCutCtl_code 0xA041).postRim 0xA041 clsN (s.get F.ecuCutAddr_addr * 2 ^ 21) none
    o.code.toNat

/-- Whether a slot of a quadrant holds its command at the cut gate (R488). -/
def State.atCut (s : State) (q : Nat) : Bool :=
  (List.range 8).any fun n =>
    let w := s.stepOf q n
    s.isHeld q n && decide (Step.op w = 0x08) && decide (Step.kind w = 5) &&
      decide (Step.mailbox w = s.get F.ecuCutCtl_mailbox)

/-- The part of a cut region that a quadrant writes (R487, R488). -/
def State.cutPart (s : State) (q : Nat) : Option CutPart :=
  (s.quad q).committed.map fun sec =>
    { sectionId := imgSectionId sec.bytes, addr := sec.addr, digest := imgDigest sec.bytes, part := (s.owner q).getD 0
      quad := q, pkgId := s.get F.chdPkgId_gen * 65536 + s.get F.chdPkgId_pkg, now := s.now
      geom := s.get F.mgtGeom_geom + s.get F.mgtGeom_locked * 2 ^ 31, saved := s.capture q sec }

/-- The header of a part (R487). -/
def CutPart.header (x : CutPart) : List Byte :=
  (List.range 256).map (Config.cutHeader [x.sectionId, x.addr, x.digest, x.part, x.quad, x.pkgId, x.now, x.geom])

/-- Write the header of a part to its first page. -/
def State.cutStore (s : State) (page : Nat) (x : CutPart) : State :=
  s.rawWrite (s.page page).unit (s.page page).frame 0 x.header

/-- Whether a page is mapped and begins with the header of a part. -/
def State.cutHolds (s : State) (page : Nat) (x : CutPart) : Bool :=
  let g := s.page page
  g.valid && decide ((List.range 256).map (fun i => nget s.mem 0 (memKey g.unit g.frame i)) = x.header)

/-- The part that a cut region holds at a page, as its header says (R489). -/
def State.cutAt (s : State) (page : Nat) : Option CutPart := (nget s.ecu.cuts none page).filter (s.cutHolds page)

/-- Slots of a save set whose command stands at a GATE HOST on a mailbox. -/
def gateSlots (q : Nat) (x : Saved) (m : Nat) : List Nat :=
  (List.range 8).filter fun n =>
    let w := secStep x.sectionOf.bytes (nget x.regs 0 (F.seqPc_step q n).key)
    ((nget x.slots Slot.init n).cmd).isSome && decide (Step.op w = 0x08) && decide (Step.kind w = 5) &&
      decide (Step.mailbox w = m)

/-- Whether a part can be written back (R489): the same section, no command in progress, and each slot that holds a command
at the cut gate bound to a context of the part's partition. -/
def State.cutFits (s : State) (o : Orig) (x : CutPart) : Bool :=
  let q := x.quad
  s.actsFor o x.part && !(s.quad q).inProgress && (s.quad q).pre.isNone &&
    (match (s.quad q).committed with
      | some y => decide (imgSectionId y.bytes = x.sectionId) && decide (imgDigest y.bytes = x.digest)
      | none => false) &&
    !(gateSlots q x.saved (s.get F.ecuCutCtl_mailbox)).isEmpty &&
    (gateSlots q x.saved (s.get F.ecuCutCtl_mailbox)).all fun n => decide (s.slotPart q n = some x.part)

/-- A part is written back: the commands at the cut gate are held there again; bindings and the wheel stay as they are. -/
def State.cutBack (s : State) (x : CutPart) : State :=
  let q := x.quad
  let m := s.get F.ecuCutCtl_mailbox
  let held := gateSlots q x.saved m
  let now := (s.quad q).lat
  let lat := (sectorSites q).foldl (fun (l : Lattice) st => l.setSector st { l.sector st with
    spare := (now.sector st).spare, corrections := (now.sector st).corrections })
    { x.saved.lat with fc := now.fc, route := none }
  let limit := fun (n : Nat) =>
    s.gateLimit q (secStep x.saved.sectionOf.bytes (nget x.saved.regs 0 (F.seqPc_step q n).key))
  let slots := held.foldl (fun (l : NMap Slot) n =>
    let sl := nget x.saved.slots Slot.init n
    nset l Slot.init n { sl with cmd := sl.cmd.map fun c => { c with hold := some ⟨5, 0, s.now, limit n⟩, passed := none } })
    (s.quad q).slots
  let fields := held.flatMap fun n =>
    [F.seqCqStat_queued q n, F.seqNflag_first_site q n, F.seqNflag_stop q n, F.seqNflag_flags q n, F.seqPc_held q n,
      F.seqPc_kind q n, F.seqPc_active q n, F.seqPc_step q n] ++ ((List.range 8).map fun i => F.seqShape_value q n i) ++
      (List.range 8).flatMap fun w => [F.ingWinPos_active (winEntry q n w), F.ingWinPos_pos (winEntry q n w)]
  let t := s.modQuad q fun y => { y with
    lat := lat, slots := slots, chanArr := x.saved.chanArr, chanRcp := x.saved.chanRcp, patched := x.saved.patched
    staged := x.saved.staged, cur := held.head?, due := false }
  fields.foldl (fun w f => w.set f (nget x.saved.regs 0 f.key)) t

/-- RESTORE (R489). -/
def State.cutRestore (s : State) (o : Orig) : State :=
  let parts := s.cutParts.map fun e => s.cutAt e.2
  if s.get F.ecuCutCtl_state ≠ 0 || parts.isEmpty ||
      parts.any (fun p => match p with | some x => !s.cutFits o x | none => true) then s.cutRefuse o
  else (parts.foldl (fun t p => match p with | some x => t.cutBack x | none => t) s).set F.ecuCutCtl_status 1

/-- A write of ECU_CUT_CTL (R486), checked per operation. -/
def State.cutCtl (s : State) (o : Orig) (v : Lane) : State :=
  s.guard o .perOp 0x200210 fun s =>
    let t := (s.set F.ecuCutCtl_op (vbits v 30 28)).set F.ecuCutCtl_mailbox (vbits v 27 24)
    if !vbit v 31 then t
    else match vbits v 30 28 with
      | 1 => if t.cutRefused o then t.cutRefuse o
          else ((t.set F.ecuCutCtl_state 1).set F.ecuCutCtl_status 0).set F.ecuCutCtl_code 0
      | 2 => t.cutRestore o
      | 3 =>
        let mine := t.cutParts.all fun e => match t.owner e.1 with | some p => t.actsFor o p | none => isPf o
        if decide (1 ≤ t.get F.ecuCutCtl_state) && mine then t.failCut 0xA041 else t.cutRefuse o
      | _ => t

/-- CUT (R487). -/
def execCut (o : Orig) (v : Lane) (s : State) : Out := .next (s.cutCtl o v)
/-- RESTORE (R489). -/
def execCutRestore (o : Orig) (v : Lane) (s : State) : Out := .next (s.cutCtl o v)
/-- ABANDON (R490). -/
def execCutAbandon (o : Orig) (v : Lane) (s : State) : Out := .next (s.cutCtl o v)

/-- CUT_ALL_AT_GATE (R488 step 1). -/
def execCutAllAtGate (s : State) : Out :=
  .next (if s.get F.ecuCutCtl_state = 1 && s.cutParts.all fun e => s.atCut e.1 then s.set F.ecuCutCtl_state 2 else s)

/-- CUT_QUIESCED (R488 step 2): every descriptor that the set's commands started is complete, timed ones and
chord transactions included. -/
def execCutQuiesced (s : State) : Out :=
  .next (if s.get F.ecuCutCtl_state = 2 && s.cutParts.all fun e =>
      (s.quad e.1).descs.isEmpty && (s.quad e.1).timed.isEmpty && !s.flying e.1 then
      s.set F.ecuCutCtl_state 3 else s)

/-- CUT_WRITTEN (R488 steps 3 and 4, R490): the parts are written, or a tier error fails the cut. -/
def State.cutWritten (s : State) (err : Bool) : State :=
  if s.get F.ecuCutCtl_state ≠ 3 then s
  else if err then s.failCut 0xA041
  else
    let cuts := s.cutParts.foldl (fun m e => nset m none e.2 (s.cutPart e.1)) s.ecu.cuts
    let t := s.cutParts.foldl (fun t e => match s.cutPart e.1 with
      | some x => t.cutStore e.2 x
      | none => t) s
    (((({ t with ecu := { t.ecu with cuts := cuts } } : State).set F.ecuCutCtl_state 4).set F.ecuCutCtl_status 1).postRim
      0xA040 clsN (s.get F.ecuCutAddr_addr * 2 ^ 21) none 0)

def execCutWritten (err : Bool) (s : State) : Out := .next (s.cutWritten err)

/-- SEQ_MBOX_WRITE (R180, R488): a write of the cut's mailbox in a quadrant of the set ends a held cut. -/
def State.mboxWrite (s : State) (q m : Nat) (v : Lane) : State :=
  let t := s.set (F.seqMbox_value q m) v.toNat
  if s.get F.ecuCutCtl_state = 4 && bit (s.get F.ecuCutSet_quadrants) q && s.get F.ecuCutCtl_mailbox = m then
    t.set F.ecuCutCtl_state 0 else t

def execSeqMboxWrite (q : Fin 32) (m : Fin 16) (o : Orig) (v : Lane) (s : State) : Out :=
  .next (s.guardQuad o q (quadBlock q + 0xB00 + m * 4) fun s => s.mboxWrite q m v)

end Sys2Proof.Machine
end

