-- ==== Sys2Proof/Machine/Control.lean ====
section
/-! DEFINITION. Register writes with an effect of their own outside any engine: MGT_GEOM (R332, R333), lattice snapshots (R87 to
R90) and the sticky flags of a slot (R124 to R127). -/

namespace Sys2Proof.Machine

/-! ## Reduction geometry -/

/-- Set bits of MGT_QUAD_EN (R6, R13). -/
def State.activeCount (s : State) : Nat := ((List.range 32).filter s.active).length

/-- MGT_GEOM_WRITE (R332, R333). -/
def State.geomWrite (s : State) (o : Orig) (v : Lane) : State :=
  let g := vbits v 7 0
  if s.on F.mgtGeom_locked then s.violation o 0x1000
  else if !(g = 0 || g = 0x18 || g = 0x1C || g = 0x20) || decide (s.activeCount < g) || (vbit v 31 && decide (g = 0)) then
    s.postRim 0xC0A0 clsN 0 none o.code.toNat
  else (s.set F.mgtGeom_geom g).set F.mgtGeom_locked (if vbit v 31 then 1 else 0)

def execMgtGeomWrite (o : Orig) (v : Lane) (s : State) : Out :=
  .next (s.guard o .pfOnly 0x1000 fun s => s.geomWrite o v)

/-! ## Snapshots -/

/-- SNAP (R89, R90): a request, merged with a pending one. -/
def execSnap (q : Fin 32) (o : Orig) (v : Lane) (s : State) : Out :=
  .next (s.guardQuad o q (quadBlock q + 0x20004) fun s =>
    if !vbit v 0 then s
    else ((s.modQuad q fun x => { x with snapClear := x.snapClear || vbit v 1 }).set (F.latSnapCtl_busy q) 1).set
      (F.latSnapCtl_snap q) 1)

/-- SNAPSHOT_LATCH (R87, R89): every counter of the quadrant is copied at the end of one fc, and zeroed in the next when
clear was set. -/
def State.snapLatch (s : State) (q : Nat) : State :=
  if !s.on (F.latSnapCtl_busy q) then s
  else
    let t := s.modQuad q fun x => { x with snap := x.ctr, ctr := if x.snapClear then [] else x.ctr, snapClear := false }
    ((t.set (F.latSnapCtl_busy q) 0).set (F.latSnapCtl_snap q) 0).inc (F.latSnapCtl_snap_seq q) 1

def execSnapshotLatch (q : Fin 32) (s : State) : Out := .next (s.snapLatch q)

/-! ## Flags -/

/-- SEQ_NFLAG_WRITE (R124, R125, R127): a stop enabled for a flag that is set ends a command held or not in force at once
(R560), and one in force at its next step boundary; `startCmd` raises it for a slot without a command. -/
def State.nflagWrite (s : State) (q n : Nat) (v : Lane) : State :=
  let flags := Nat.land (s.get (F.seqNflag_flags q n)) (0x1F - vbits v 4 0)
  let newly := Nat.land (Nat.land (vbits v 20 16) (0x1F - s.get (F.seqNflag_stop q n))) flags
  let s1 := (s.set (F.seqNflag_flags q n) flags).set (F.seqNflag_stop q n) (vbits v 20 16)
  let s2 := if flags = 0 then s1.set (F.seqNflag_first_site q n) 0xFF else s1
  if newly ≠ 0 ∧ (s2.cmdOf q n).isSome ∧ (s2.quad q).endsWith n 0x20E0 = false then
    let s3 := s2.postQuad 0x20E0 clsR q (some n) (some (s2.get (F.seqNflag_first_site q n)))
      (seqArg (s2.get (F.seqPc_step q n)) 0)
    s3.causeEnd q n 0x20E0 true
  else s2

def execSeqNflagWrite (q : Fin 32) (n : Fin 8) (o : Orig) (v : Lane) (s : State) : Out :=
  .next (s.guardQuad o q (quadBlock q + 0x400 + n * 4) fun s => s.nflagWrite q n v)

end Sys2Proof.Machine
end

