-- ==== Sys2Proof/Machine/Function.lean ====
section
/-! DEFINITION. Installing a function-store slot (R134 to R138, R141 to R145). -/

namespace Sys2Proof.Machine

/-! ## The checks of R144 step 3 -/

/-- Operands that a function opcode uses: sa, sb, sc (Table 37); none for a reserved opcode. -/
def fnOperands (op : Nat) : Option (Bool × Bool × Bool) :=
  if op = 0x01 ∨ op = 0x08 then some (true, true, true)
  else if op = 0x00 ∨ op = 0x09 ∨ op = 0x12 ∨ op = 0x13 ∨ op = 0x14 ∨ (0x18 ≤ op ∧ op ≤ 0x1B) ∨ op = 0x20 then
    some (true, false, false)
  else if (0x02 ≤ op ∧ op ≤ 0x07) ∨ op = 0x10 ∨ op = 0x11 ∨ (0x15 ≤ op ∧ op ≤ 0x17) then some (true, true, false)
  else none

/-- An operand selector: one of Table 36, or zero where the opcode does not use it (R138). -/
def fnSelOk (used : Bool) (x : Nat) : Bool :=
  if used then decide (x ≤ 0x06) || decide (0x10 ≤ x ∧ x ≤ 0x1F) else decide (x = 0)

/-- Opcode, selectors, formats and aux of an entry (Tables 35 to 37, R138). Aux bits that the opcode does not use may hold
anything (DESIGN CHOICE, log entry 94: R138 asks zero of unused selectors only). -/
def fnEntryOk (e : FnEntry) : Bool :=
  let op := FnEntry.op e
  match fnOperands op with
  | none => false
  | some (a, b, c) =>
    fnSelOk a (FnEntry.sa e) && fnSelOk b (FnEntry.sb e) && fnSelOk c (FnEntry.sc e) &&
      fmtValid (FnEntry.sfmt e) && fmtValid (FnEntry.dfmt e) &&
      (!(decide (0x10 ≤ op ∧ op ≤ 0x17)) || (FnEntry.sfmt e = 8 && FnEntry.dfmt e = 8)) &&
      (op ≠ 0x07 || decide (bits (FnEntry.aux e) 2 0 ≤ 5)) &&
      (!(decide (0x18 ≤ op ∧ op ≤ 0x1A)) || decide (bits (FnEntry.aux e) 2 0 ≤ 5))

/-- Position of the first failing check of a slot image in the order of R144 step 3. -/
def fnImageBad (b : List Byte) : Option Nat :=
  let n := imgByte b 0xB
  let zero := fun (i : Nat) => decide (fnEntry b i = 0)
  let checks := [
    decide (imgByte b 0xA ≤ 0x30),
    decide (1 ≤ n ∧ n ≤ 24),
    decide (byteField b 0xC 4 < 2) && decide (byteField b 0x18 40 = 0) &&
      (List.range 24).all fun i => decide (bits (fnEntry b i) 22 0 = 0),
    (List.range 24).all fun i => decide (i < n) || zero i,
    (List.range 24).all fun i => fnEntryOk (fnEntry b i),
    bit (byteField b 0xC 4) 0 == (zero 0 && zero 22 && zero 23),
    decide ((crc64 (b.drop 0x40)).toNat = byteField b 0x10 8)]
  (checks.findIdx? (!·)).map (· + 1)

/-! ## The install -/

/-- FN_INSTALL (R141, R144 step 1). The entry of an install refused because the quadrant is not idle carries arg 0 and the
originator of the write (DESIGN CHOICE, log entry 95: R144 gives neither). -/
def State.fnInstall (s : State) (q : Nat) (o : Orig) (v : Lane) : State :=
  let busy := s.on (F.seqFnCtl_busy q)
  let s1 := s.set (F.seqFnCtl_slot q) (vbits v 12 8)
  if !vbit v 31 || busy then s1
  else if !s1.idle q then
    (s1.set (F.seqFnCtl_status q) 2).post (s.evQuad 0x20F2 clsN q none none o.code.toNat 0)
  else (s1.modQuad q fun x => { x with fnAddr := some (s1.get (F.seqFnAddr_addr q) * 512, vbits v 12 8) }).set
    (F.seqFnCtl_busy q) 1

def execFnInstall (q : Fin 32) (o : Orig) (v : Lane) (s : State) : Out :=
  .next (s.guardQuad o q (quadBlock q + 0x800) fun s => s.fnInstall q o v)

/-- Arg of an install refusal (R559). -/
def fnArg (check addr slot : Nat) : Nat := check + addr % 2 ^ 45 / 256 * 256 + slot * 2 ^ 48

/-- The install of an image into a slot, or its refusal (R144 steps 2 to 4). -/
def State.fnFinish (s : State) (q addr slot : Nat) : State :=
  let s1 := (s.modQuad q fun x => { x with fnAddr := none }).set (F.seqFnCtl_busy q) 0
  if !s.readable addr 512 (s.owner q) then
    let s2 := if s.owned addr 512 ((s.owner q).getD 0) then s1.logRead addr 512 (s.owner q) (some q) else s1
    (s2.set (F.seqFnCtl_status q) 4).postQuad 0x20F3 clsN q none none (fnArg 0 addr slot)
  else
    let b := s.bytesAt addr 512
    let s1 := s1.countCorr addr 512
    match fnImageBad b with
    | some k => (s1.set (F.seqFnCtl_status q) 3).postQuad 0x20F0 clsN q none none (fnArg k addr slot)
    | none => (s1.modQuad q fun x => { x with fnStore := nset x.fnStore .initial slot (.image b) }).set
        (F.seqFnCtl_status q) 1

/-- Host commits of quadrant k that waited for an install go on, unless its partner installs still (R145). -/
def State.releaseCommits (s : State) (k : Nat) : State :=
  if s.commitHeld k then s
  else
    let commits := (s.quad k).deferred.filter fun i => match i with | .hostCommit _ _ _ => true | _ => false
    let rest := (s.quad k).deferred.filter fun i => match i with | .hostCommit _ _ _ => false | _ => true
    if commits = [] then s
    else commits.foldl (fun t _ => t.hostCommit k) (s.modQuad k fun x => { x with deferred := rest })

/-- FN_INSTALL_COMPLETE (R144, R145). -/
def execFnInstallComplete (q : Fin 32) (s : State) : Out :=
  .next (match (s.quad q).fnAddr with
    | none => s
    | some (addr, slot) => [0, 1, 2, 3].foldl (fun t i => t.releaseCommits (q / 4 * 4 + i)) (s.fnFinish q addr slot))

end Sys2Proof.Machine
end

