-- ==== Sys2Proof/Machine/Security.lean ====
section
/-! DEFINITION. The security block (chapter 16): owners and scrubs (R493, R494), rollback counter (R498), measurements (R499,
R500), attestation (R501 to R503), key slots (R504 to R506), test access and debug (R509). -/

namespace Sys2Proof.Machine

/-- Whether any slot of a quadrant is bound. -/
def State.anyBound (s : State) (q : Nat) : Bool := (List.range 8).any fun n => (s.ctxOf q n).isSome

/-! ## Quadrant owners (R493, R494) -/

/-- The owner of a quadrant takes the value written. -/
def State.setOwner (s : State) (q v : Nat) : State :=
  (s.set (F.secQuadOwn_en q) (bits v 31 31)).set (F.secQuadOwn_part q) (bits v 3 0)

/-- A write of SEC_QUAD_OWN is handled (R493, R494): dropped with SEC:0x0B1, scrubbed first, or in force at once. -/
def State.ownerWrite (s : State) (q : Nat) (o : Orig) (v : Nat) : State :=
  let en := s.get (F.secQuadOwn_en q)
  let moved := decide (bits v 3 0 ≠ s.get (F.secQuadOwn_part q))
  let changed := moved || decide (bits v 31 31 ≠ en)
  let held := s.anyBound q || (s.quad q).committed.isSome || decide (s.get (F.seqSecStat_shadow q) ≠ 0) || (s.quad q).pre.isSome
  if changed && held then s.post (s.evAbout 0xB0B1 clsN q o.code.toNat 0)
  else if en = 1 && (moved || bits v 31 31 = 0) then s.modQuad q fun x => { x with scrub := some v }
  else s.setOwner q v

/-- QUAD_OWNER_WRITE (R493): locked with part_map (R507); a write during a scrub waits (R494). -/
def State.quadOwn (s : State) (q : Nat) (o : Orig) (v : Lane) (i : Instr) : State :=
  s.guard o .pfOnly (0x1000C0 + q * 4) fun s =>
    if s.on F.secLock_part_map then s.violation o (0x1000C0 + q * 4)
    else if (s.quad q).scrub.isSome then s.defer q i
    else s.ownerWrite q o v.toNat

def execQuadOwnerWrite (q : Fin 32) (o : Orig) (v : Lane) (s : State) : Out := .next (s.quadOwn q o v (.quadOwnerWrite q o v))

/-- A sector after a scrub: SRAM, scalar and base registers zero. -/
def Sector.scrub (x : Sector) : Sector := { Sector.init with spare := x.spare, corrections := x.corrections }

/-- A prism after a scrub: register file and accumulator banks zero. -/
def Prism.scrub (p : Prism) : Prism := { p with acc := [], accPoison := [], rf := [], rfPoison := [], parity := [] }

/-- What a scrub sets to zero (R494). -/
def State.scrubbed (s : State) (q : Nat) : State :=
  let t := s.modQuad q fun x => { x with
    slots := nmapv x.slots Slot.init fun y => { y with digD := 0, digN := 0, digPoison := false }
    chanArr := [], chanRcp := []
    lat := { x.lat with
      edgeQ := [], edgeOver := [], sectors := nmapv x.lat.sectors Sector.init Sector.scrub
      prisms := nmapv x.lat.prisms Prism.init Prism.scrub } }
  let u := (List.range 8).foldl (fun w n =>
    let z := (List.range 8).foldl (fun y i => y.set (F.seqShape_value q n i) 0) w
    ((z.clearFld (F.seqNflag_first_site q n)).clearFld (F.seqNflag_stop q n)).clearFld (F.seqNflag_flags q n)) t
  (prismSites q).foldl (fun w i => w.set (F.latNflag_flags q i) 0) u

/-- An operation that waited for the scrub is taken up (R494). -/
def State.takeUp (s : State) (q : Nat) (i : Instr) : State :=
  match i with
  | .sectionLoad _ _ _ => s.sectionLoad q
  | .slotBind _ n o v => s.slotBind q n o v
  | .saveOcc _ o v => s.preCtl q o v
  | .restoreOcc _ o v => s.preCtl q o v
  | .swapOcc _ o v => s.preCtl q o v
  | .freeArea _ o v => s.preCtl q o v
  | .quadOwnerWrite _ o v => s.quadOwn q o v i
  | _ => s.defer q i

/-- The waiting operations in arrival order, until one of them scrubs again. -/
def State.takeAll (q : Nat) : List Instr → State → State
  | [], s => s
  | i :: r, s =>
    if (s.quad q).scrub.isSome then s.modQuad q fun x => { x with deferred := x.deferred ++ i :: r }
    else State.takeAll q r (s.takeUp q i)

/-- SCRUB_COMPLETE (R494). -/
def State.scrubDone (s : State) (q : Nat) : State :=
  match (s.quad q).scrub with
  | none => s
  | some v =>
    let l := (s.quad q).deferred
    let t := (s.scrubbed q).modQuad q fun x => { x with scrub := none, deferred := [] }
    State.takeAll q l (t.setOwner q v)

def execScrubComplete (q : Fin 32) (s : State) : Out := .next (s.scrubDone q)

/-! ## The rollback counter (R495, R498) -/

/-- Whether bit i of the rollback counter reads programmed. -/
def Fuses.svnBit (f : Fuses) (i : Nat) : Bool := f.svnData.getLsbD i && f.svnMark.getLsbD i

/-- The rollback counter: its programmed bits. -/
def Fuses.svn (f : Fuses) : Nat := ((List.range 64).filter f.svnBit).length

/-- Torn pairs of the rollback counter. -/
def Fuses.torn (f : Fuses) : List Nat := (List.range 64).filter fun i => f.svnData.getLsbD i != f.svnMark.getLsbD i

/-- Program the pair of bit i. -/
def Fuses.program (f : Fuses) (i : Nat) : Fuses :=
  { f with svnData := f.svnData ||| BitVec.ofNat 64 (2 ^ i), svnMark := f.svnMark ||| BitVec.ofNat 64 (2 ^ i) }

/-- Program the lowest unprogrammed bits until the counter is n, or all are. -/
def Fuses.advance (f : Fuses) (n : Nat) : Fuses :=
  (List.range 64).foldl (fun g i => if g.svn < n ∧ g.svnBit i = false then g.program i else g) f

/-- SVN_COMMIT (R498). -/
def State.svnCommit (s : State) (v : Lane) : State :=
  if vbit v 31 then
    let f := s.fuses.advance (s.get F.secSvn_running)
    ({ s with fuses := f } : State).set F.secSvn_fused f.svn
  else s

def execSvnCommit (o : Orig) (v : Lane) (s : State) : Out := .next (s.guard o .pfOnly 0x100020 fun s => s.svnCommit v)

/-! ## Measurements (R499, R500) -/

/-- Measurement register i as bytes. -/
def State.measBytes (s : State) (i : Nat) : List Byte := leBytes 48 (nget s.sec.meas 0 i).toNat

/-- Extend a measurement register with a 48-byte digest (R499). -/
def State.extend (s : State) (i : Nat) (d : List Byte) : State :=
  { s with sec := { s.sec with meas := nset s.sec.meas 0 i (Config.sha384 (s.measBytes i ++ d)) } }

/-- Extend a measurement register with a digest that a constant of the part gives. -/
def State.extendWith (s : State) (i : Nat) (d : BitVec 384) : State := s.extend i (leBytes 48 d.toNat)

/-- Extend measurement 3 with an item of security state and its value (Table 122). -/
def State.extendItem (s : State) (item v : Nat) : State :=
  s.extendWith 3 (Config.sha384 (leBytes 1 item ++ leBytes 8 v))

/-- Whether SEC_OWNER_ID has been written since the reset of the package. -/
def F.ownerWritten : Fld := ⟨0x10001C, 32, 1, 0⟩

/-- SEC_LOCK as it reads. -/
def State.lockBits (s : State) : Nat :=
  s.get F.secLock_part_map + 2 * s.get F.secLock_far_crypt + 4 * s.get F.secLock_peer + 8 * s.get F.secLock_kek +
    16 * s.get F.secLock_debug

/-- SEC_EXT_DATA as written. -/
def State.extBytes (s : State) : List Byte := (List.range 12).flatMap fun i => leBytes 4 (nget s.sec.extData 0 i).toNat

/-- MEAS_EXTEND (R500). -/
def State.measExt (s : State) (o : Orig) (v : Lane) : State :=
  let i := vbits v 3 0
  let t := s.set F.secExtCtl_index i
  if !vbit v 31 then t
  else if 8 ≤ i then t.extend i t.extBytes
  else t.postRim 0xB0B2 clsN i none o.code.toNat

def execMeasExtend (o : Orig) (v : Lane) (s : State) : Out := .next (s.guard o .pfOnly 0x100630 fun s => s.measExt o v)

/-! ## The responder (R501, Table 123) -/

/-- Path number of a management message. -/
def pathCode : MsgPath → Nat
  | .pcie => 0
  | .i3c => 1
  | .chord => 2

/-- Messages are answered once start-up is complete and no management reset is in progress (R517, R545, Table 136). -/
def State.answering (s : State) : Bool := s.on F.mgtStartStat_ready && !s.mgmt.resetting

/-- An SPDM response: version, code, two parameters, body; the codes are those of the SPDM standard (log entry 13). -/
def State.respond (s : State) (p : MsgPath) (code p1 p2 : Nat) (body : List Byte) : State :=
  s.send (pathCode p) 0 (leBytes 1 0x13 ++ leBytes 1 code ++ leBytes 1 p1 ++ leBytes 1 p2 ++ body)

/-- An SPDM error response. -/
def State.spdmError (s : State) (p : MsgPath) (e : Nat) : State := s.respond p 0x7F e 0 []

/-- Answer a request that needs the algorithms negotiated; a request out of order is unexpected. -/
def State.spdm (s : State) (p : MsgPath) (ok : Bool) (go : State → State) : State :=
  if !s.answering then s else if ok then go s else s.spdmError p 4

/-- Version state of the responder. -/
def State.setSpdm (s : State) (v a : Bool) : State := { s with sec := { s.sec with spdmVersion := v, spdmAlgs := a } }

/-- GET_VERSION (R501): version 1.3 only. -/
def execGetVersion (p : MsgPath) (s : State) : Out :=
  .next (s.spdm p true fun s => (s.respond p 0x04 0 0 [0, 1, 0x00, 0x13]).setSpdm true false)

/-- GET_CAPABILITIES (R501): certificates, challenge and signed measurements. -/
def execGetCapabilities (p : MsgPath) (s : State) : Out :=
  .next (s.spdm p s.sec.spdmVersion fun s => s.respond p 0x61 0 0 (leBytes 4 0x16))

/-- NEGOTIATE_ALGORITHMS (R501): ECDSA P-384 and SHA-384, bits 0x80 and 0x02 of the standard. -/
def execNegotiateAlgorithms (p : MsgPath) (asym hash : BitVec 32) (s : State) : Out :=
  .next (s.spdm p s.sec.spdmVersion fun s =>
    if bit asym.toNat 7 && bit hash.toNat 1 then
      (s.respond p 0x63 0 0 (leBytes 4 0x80 ++ leBytes 4 0x02)).setSpdm true true
    else s.spdmError p 1)

/-- Measurements 0 and 1, from which the boot ROM derives the keys (R496). -/
def State.bootMeas (s : State) : List Byte := s.measBytes 0 ++ s.measBytes 1

/-- The certificate chain of slot 0. -/
def State.chain (s : State) : List Byte := Config.certChain s.bootMeas

/-- GET_DIGESTS (R501): slot 0 only. -/
def execGetDigests (p : MsgPath) (s : State) : Out :=
  .next (s.spdm p s.sec.spdmAlgs fun s => s.respond p 0x01 0 1 (leBytes 48 (Config.sha384 s.chain).toNat))

/-- GET_CERTIFICATE (R501): a portion of the chain of slot 0, with its length and what remains. -/
def execGetCertificate (p : MsgPath) (slot : Byte) (offset length : BitVec 16) (s : State) : Out :=
  .next (s.spdm p s.sec.spdmAlgs fun s =>
    if slot.toNat = 0 ∧ offset.toNat < s.chain.length then
      let b := (s.chain.drop offset.toNat).take length.toNat
      s.respond p 0x02 0 0 (leBytes 2 b.length ++ leBytes 2 (s.chain.length - offset.toNat - b.length) ++ b)
    else s.spdmError p 1)

/-- CHALLENGE (R501): signed by the identity key over the nonce, the chain's digest and every measurement. -/
def execChallenge (p : MsgPath) (slot : Byte) (nonce : BitVec 256) (s : State) : Out :=
  .next (s.spdm p s.sec.spdmAlgs fun s =>
    if slot.toNat = 0 then
      let b := leBytes 48 (Config.sha384 s.chain).toNat ++ leBytes 32 nonce.toNat ++
        leBytes 48 (Config.sha384 ((List.range 16).flatMap s.measBytes)).toNat
      s.respond p 0x03 0 1 (b ++ leBytes 96 (Config.identitySign s.bootMeas b).toNat)
    else s.spdmError p 1)

/-- Measurement registers that have a block: i for block i + 1. -/
def measBlocks : List Nat := [0, 1, 2, 3, 8, 9, 10, 11, 12, 13, 14, 15]

/-- A measurement block in the DMTF format: index, specification 1, size, kind, value size, value. -/
def State.measBlock (s : State) (i : Nat) : List Byte :=
  leBytes 1 (i + 1) ++ leBytes 1 1 ++ leBytes 2 51 ++ leBytes 1 1 ++ leBytes 2 48 ++ s.measBytes i

/-- GET_MEASUREMENTS (R501): index 0 asks for the number of blocks, 0xFF for all, i + 1 for SEC_MEAS i; signed as it stands. -/
def execGetMeasurements (p : MsgPath) (index : Byte) (nonce : BitVec 256) (s : State) : Out :=
  .next (s.spdm p s.sec.spdmAlgs fun s =>
    let l := if index.toNat = 0 then [] else if index.toNat = 0xFF then measBlocks
      else measBlocks.filter fun i => decide (i + 1 = index.toNat)
    if l.isEmpty && decide (index.toNat ≠ 0) then s.spdmError p 1
    else
      let r := l.flatMap s.measBlock
      let b := leBytes 1 l.length ++ leBytes 3 r.length ++ r ++ leBytes 32 nonce.toNat
      s.respond p 0x60 (if index.toNat = 0 then measBlocks.length else 0) 0
        (b ++ leBytes 96 (Config.identitySign s.bootMeas b).toNat))

/-! ## Attesting a peer (R502, R503) -/

/-- PEER_ATTEST (R502). -/
def State.attest (s : State) (v : Lane) : State :=
  if s.on F.secAttCtl_busy then s
  else
    let t := s.set F.secAttCtl_pkg (vbits v 11 0)
    if vbit v 31 then
      ({ t with sec := { t.sec with att := some (vbits v 11 0, t.now) } } : State).set F.secAttCtl_busy 1
    else t

def execPeerAttest (o : Orig) (v : Lane) (s : State) : Out := .next (s.guard o .pfOnly 0x100190 fun s => s.attest v)

/-- The result of an attestation is written; a failure is logged. -/
def State.attestEnd (s : State) (p : Nat) (pass : Bool) : State :=
  let t := ({ s with sec := { s.sec with att := none } } : State).set F.secAttCtl_busy 0
  let u := (t.set (F.secPeerAtt_result p) (if pass then 1 else 2)).set (F.secPeerAtt_age_ms p) 0
  if pass then u else u.postRim 0xB0F0 clsN p none 0

/-- PEER_ATTEST_COMPLETE (R502): chain, signature over a fresh nonce, debug locked, security version. -/
def State.attested (s : State) (chainOk sigOk locked : Bool) (svn : Nat) : State :=
  match s.sec.att with
  | none => s
  | some (p, _) =>
    (s.set (F.secPeerAtt_svn p) svn).attestEnd p
      (chainOk && sigOk && locked && decide (s.get F.secPeerMinsvn_min ≤ svn))

def execPeerAttestComplete (chainOk sigOk locked : Bool) (svn : Byte) (s : State) : Out :=
  .next (s.attested chainOk sigOk locked svn.toNat)

/-- PEER_ATTEST_TIMEOUT (R502). -/
def execPeerAttestTimeout (s : State) : Out :=
  .next (match s.sec.att with
    | none => s
    | some (p, _) => s.attestEnd p false)

/-! ## Key slots (R504, R505) -/

/-- Whether a partition has a far page mapped. -/
def State.farMapped (s : State) (p : Nat) : Bool :=
  s.pages.any fun e => Pte.valid e.2 && decide (Pte.part e.2 = p) && decide (20 ≤ Pte.unit e.2)

/-- Whether a slot may not be changed for partition p (R505). -/
def State.keyBusy (s : State) (n p : Nat) : Bool :=
  (decide (s.get (F.secKeyAttr_kind n) ≠ 0) && decide (s.get (F.secKeyAttr_part n) ≠ p)) ||
    (List.range 16).any fun k =>
      (decide (s.get (F.secFarCrypt_slot k) = n) && s.farMapped k) || decide ((s.sendKey k).2 = n)

/-- SEC_KEY_BLOB as written: `n` bytes from offset `off`. -/
def State.blob (s : State) (off n : Nat) : List Byte :=
  (((List.range 36).flatMap fun i => leBytes 4 (nget s.sec.keyBlob 0 i).toNat).drop off).take n

/-- A key slot takes a key; its GCM counters are zeroed. -/
def State.putKey (s : State) (n kind p : Nat) (k : BitVec 512) : State :=
  ((({ s with
      sec := { s.sec with keys := nset s.sec.keys 0 n k }
      chord := { s.chord with counters := s.chord.counters.filter fun e => decide (e.1 % 64 ≠ n) } } : State).set
    (F.secKeyAttr_kind n) kind).set (F.secKeyAttr_part n) p)

/-- Unwrap `n` bytes of key under the KEK of a partition. -/
def State.unwrap (s : State) (p n : Nat) : Option Nat :=
  match nget s.sec.keks none p with
  | none => none
  | some kek => match Config.keyUnwrap kek (s.blob 0 (n + 8)) with
    | some b => if b.length = n then some (leNat b) else none
    | none => none

/-- Status of a key operation and the state that it leaves. -/
def State.keyOp (s : State) (o : Orig) (op p n : Nat) : Nat × State :=
  if op = 4 then
    if !isPf o then (4, s)
    else if s.on F.secLock_kek then (5, s)
    else match Config.keyUnwrap (Config.ecdhDerive s.bootMeas (s.blob 0 96)) (s.blob 96 40) with
      | some b =>
        if b.length = 32 then
          let t : State := { s with sec := { s.sec with keks := nset s.sec.keks none p (some (BitVec.ofNat 256 (leNat b))) } }
          (1, (List.range 64).foldl (fun u k =>
            if u.get (F.secKeyAttr_kind k) ≠ 0 ∧ u.get (F.secKeyAttr_part k) = p then u.putKey k 0 0 0 else u) t)
        else (2, s)
      | none => (2, s)
  else if op = 0 ∨ 4 < op ∨ n = 0 ∨ s.actsFor o p = false then (4, s)
  else if s.keyBusy n p then (3, s)
  else if op = 3 then (1, s.putKey n 0 0 0)
  else match s.unwrap p (if op = 1 then 32 else 64) with
    | some k => (1, s.putKey n op p (BitVec.ofNat 512 k))
    | none => (2, s)

/-- A write of SEC_KEY_CTL (R504). -/
def State.keyCtl (s : State) (o : Orig) (v : Lane) : State :=
  s.guard o .perOp 0x100790 fun s =>
    let t := ((s.set F.secKeyCtl_op (vbits v 30 28)).set F.secKeyCtl_part (vbits v 11 8)).set F.secKeyCtl_slot (vbits v 5 0)
    if !vbit v 31 then t
    else
      let r := t.keyOp o (vbits v 30 28) (vbits v 11 8) (vbits v 5 0)
      let u := r.2.set F.secKeyCtl_status r.1
      if r.1 = 1 then u else u.postRim 0xB0E0 clsN (vbits v 5 0) (some (vbits v 11 8)) o.code.toNat

/-- INSTALL_GCM_KEY (R504). -/
def execInstallGcmKey (o : Orig) (v : Lane) (s : State) : Out := .next (s.keyCtl o v)
/-- INSTALL_XTS_KEY (R504). -/
def execInstallXtsKey (o : Orig) (v : Lane) (s : State) : Out := .next (s.keyCtl o v)
/-- ERASE_SLOT (R504). -/
def execEraseSlot (o : Orig) (v : Lane) (s : State) : Out := .next (s.keyCtl o v)
/-- INSTALL_KEK (R504). -/
def execInstallKek (o : Orig) (v : Lane) (s : State) : Out := .next (s.keyCtl o v)

/-- FAR_CRYPT_WRITE (R506). -/
def State.farCrypt (s : State) (p : Nat) (o : Orig) (v : Lane) : State :=
  let n := vbits v 5 0
  let off := 0x100140 + p * 4
  s.guard o (.part (some p)) off fun s =>
    if s.on F.secLock_far_crypt then s.violation o off
    else if s.farMapped p || decide (s.get (F.secKeyAttr_kind n) ≠ 2) || decide (s.get (F.secKeyAttr_part n) ≠ p) then
      s.postRim 0xB0E1 clsN p (some p) o.code.toNat
    else (s.set (F.secFarCrypt_en p) (vbits v 31 31)).set (F.secFarCrypt_slot p) n

def execFarCryptWrite (p : Fin 16) (o : Orig) (v : Lane) (s : State) : Out := .next (s.farCrypt p o v)

/-! ## Test access and debug (R509) -/

/-- Instruction numbers of the port as the model keeps them. -/
def tapBypass : Nat := 0
def tapIdcode : Nat := 1
def tapSample : Nat := 2
def tapExtest : Nat := 3
def tapClamp : Nat := 4
def tapHighz : Nat := 5

def State.setTap (s : State) (i : Nat) (cells : List Bool) : State := { s with mgmt := { s.mgmt with tap := ⟨i, cells⟩ } }

/-- IDCODE: stepping, device_id, 0xB9B. -/
def State.idcode (s : State) : Nat :=
  Config.tapStepping.toNat * 2 ^ 28 + s.fuses.deviceId.toNat * 2 ^ 12 + 0xB9B

def execIdcode (s : State) : Out := .next ((s.setTap tapIdcode s.mgmt.tap.cells).answer s.idcode)
/-- BYPASS. -/
def execBypass (s : State) : Out := .next (s.setTap tapBypass s.mgmt.tap.cells)
/-- SAMPLE/PRELOAD. -/
def execSamplePreload (cells : List Bool) (s : State) : Out := .next (s.setTap tapSample cells)
/-- EXTEST, accepted while PERST_N is asserted. -/
def execExtest (cells : List Bool) (s : State) : Out :=
  .next (if s.mgmt.perst then s.setTap tapExtest cells else s.setTap tapBypass s.mgmt.tap.cells)
/-- CLAMP, accepted while PERST_N is asserted. -/
def execClamp (s : State) : Out := .next (s.setTap (if s.mgmt.perst then tapClamp else tapBypass) s.mgmt.tap.cells)
/-- HIGHZ, accepted while PERST_N is asserted. -/
def execHighz (s : State) : Out := .next (s.setTap (if s.mgmt.perst then tapHighz else tapBypass) s.mgmt.tap.cells)

/-- DEBUG_UNLOCK_TOKEN. -/
def State.unlock (s : State) (sig : BitVec 768) (nonce : BitVec 256) : State :=
  if s.get F.secStat_debug = 0 && !s.on F.secLock_debug && Config.tokenValid s.fuses.serial nonce sig then
    (({ s with sec := { s.sec with debugPending := true } } : State).set F.secStat_debug 1).postRim 0xB0D0 clsN 0 none
      Orig.tap.code.toNat
  else s.postRim 0xB0D1 clsN 0 none Orig.tap.code.toNat

def execDebugUnlockToken (sig : BitVec 768) (nonce : BitVec 256) (s : State) : Out := .next (s.unlock sig nonce)

end Sys2Proof.Machine
end

