-- ==== Sys2Proof/Machine/Time.lean ====
section
/-! DEFINITION. The passage of reference time (R92, R93, R157, R428, R510): idle and held fc of the quadrants and the waiting
times of contexts, for whole µs in which no command arrives (log entry 2). -/

namespace Sys2Proof.Machine

/-- Ticks of the reference clock in a µs and in an epoch (R510). -/
def usTicks : Nat := 25
def epochTicks : Nat := 25000

/-- Duty of a facet in force. -/
def State.dutyOn (s : State) (f : Nat) : Nat := nget s.mgmt.duty 16 f

/-- µs of n in which the clock of a facet runs: all of them, or under duty what is left of the period's running part (R520). -/
def State.clockUs (s : State) (f n : Nat) : Nat := if s.dutyOn f = 16 then n else min n (nget s.mgmt.budget 0 f)

/-- fc that pass in a facet in n µs: 400 + 25 · step per µs (R524). -/
def State.clockFc (s : State) (f n : Nat) : Nat := s.fcPerUs f * s.clockUs f n

/-- The command of slot n of quadrant q is held for v more fc. -/
def State.holdMore (s : State) (q n v : Nat) : State :=
  match (s.cmdOf q n).bind (·.hold) with
  | some h => s.holdTo n (h.fc + v) q
  | none => s

/-- v fc pass in the quadrants that step together, where no step is due: held at a gate, or between commands, where what still
runs goes on (R83, R158, R218). The fc of a command in progress that is not held are those of its steps, which RUN passes (R155). -/
def State.passFc (s : State) (qs : List Nat) (v : Nat) : State :=
  let x := s.quad (qs.headD 0)
  match x.cur with
  | some n => if s.isHeld (qs.headD 0) n then qs.foldl (fun t q => t.holdMore q n v) s
    else if x.due && (s.cmdOf (qs.headD 0) n).isNone then State.restFc qs v s else s
  | none => State.restFc qs v s

/-- Slots of a quadrant that are ready, with a command in progress or an entry that may start, while the wheel runs another slot (R428). -/
def State.waitsWheel (s : State) (q n : Nat) : Bool :=
  match (s.quad q).cur with
  | some m => m ≠ n && s.slotReady (s.together q) n
  | none => false

/-- Waiting times of the contexts bound to a quadrant's slots, for `t` ticks: with an entry queued and not started, and ready
while the wheel runs another slot (R428). -/
def State.passWait (s : State) (q t : Nat) : State :=
  (List.range 8).foldl (fun u n =>
    let w := if ((s.quad q).slot n).queue.isEmpty then u else u.acctAdd q n 0 t
    if s.waitsWheel q n then w.acctAdd q n 1 t else w) s

/-- The words that a suspended occupant sent have been committed: the suspension is over (R420, R422). -/
def State.passPhase (s : State) (q : Nat) : State :=
  if s.get (F.seqPreStat_phase q) = 2 && !s.flying q then s.set (F.seqPreStat_phase q) 3 else s

/-- n µs pass in a quadrant; a locked pair passes them together, with its lower quadrant. A fenced quadrant, or one of a halted
package, runs nothing and counts its fc as idle (R93, R470). -/
def State.passQuad (n : Nat) (s : State) (q : Nat) : State :=
  if !s.active q then s
  else
    let v := s.clockFc (q / 4) n
    if s.fenced q || s.on F.ecuStat_halted then s.skipFc q v
    else
      let qs := s.together q
      ((if v = 0 || qs.headD q ≠ q then s else s.passFc qs v).passWait q (n * usTicks)).passPhase q

/-! ## Yields (R426, R428) -/

/-- Whether a power, thermal or pin action slows a facet. -/
def Mgmt.slowed (m : Mgmt) (f : Nat) : Bool := let l := nget m.limiter 0 f; decide (1 ≤ l) && decide (l ≤ 4)

/-- Whether a fenced quadrant's logical position has no spare active quadrant of its kind under the locked geometry, so that
commands wait for it (R329, R335). -/
def State.noSpare (s : State) (q : Nat) : Bool :=
  s.on F.mgtGeom_locked && (isW q ||
    decide (((List.range 24).filter fun k => s.active k && !s.fenced k).length + 8 < s.get F.mgtGeom_geom))

/-- Quadrants whose fence is a cause of class 2, or of class 3 where determinism makes its commands wait (R335, R426). -/
def State.fencesOf (s : State) (cls : Nat) : List Nat :=
  (List.range 32).filter fun q => s.active q && s.fenced q && s.noSpare q == decide (cls = 3)

/-- Packages in quarantine (R453). -/
def State.quarantined (s : State) : List Nat :=
  (s.regs.map fun e => (e.1 / 64 - (F.chdPeer_state 0).off) / 4).filter fun p =>
    decide (p < 4096) && decide (s.get (F.chdPeer_state p) = 2)

/-- Whether a cause of a class is in force (R426). -/
def State.causeOn (s : State) (cls : Nat) : Bool :=
  if cls = 1 then (List.range 8).any s.mgmt.slowed
  else !(s.fencesOf cls).isEmpty || (cls = 2 && !s.quarantined.isEmpty)

/-- Whether context c has a command in progress in a quadrant that `sel` picks. -/
def State.runsIn (s : State) (c : Nat) (sel : Nat → Bool) : Bool :=
  (List.range 32).any fun q => sel q && (List.range 8).any fun n => (s.cmdOf q n).isSome && decide (s.ctxOf q n = some c)

/-- Whether a context yields to a cause of a class (R426): it has a command in progress in a quadrant that is slowed; or one that
waits for a fenced quadrant in which the context is bound too, or whose section's peer table names a quarantined package (DEDUCED,
log entry 101). -/
def State.yielding (s : State) (c cls : Nat) : Bool :=
  if cls = 1 then s.runsIn c fun q => s.mgmt.slowed (q / 4)
  else ((s.fencesOf cls).any (fun q => (s.boundCtxs q).contains c) && s.runsIn c fun _ => true) ||
    (cls = 2 && s.runsIn c fun q => match (s.quad q).committed with
      | some x => x.peers.any fun e => s.quarantined.contains e.1
      | none => false)

/-- A yield of a context to a class begins or ends: its count and duration by kind and class (R426, R428). -/
def State.yieldOne (c : Nat) (s : State) (cls : Nat) : State :=
  let k := c * 4 + cls
  match nget s.acct.yields none k, s.yielding c cls with
  | none, true => { s with acct := { s.acct with yields := nset s.acct.yields none k (some (s.ticks, false)) } }
  | some (b, miss), false =>
    let more := fun (x : Nat) => (x / 2 ^ 40 + 1) % 2 ^ 24 * 2 ^ 40 + (x + (s.ticks - b)) % 2 ^ 40
    { s with acct := { s.acct with
      yields := nset s.acct.yields none k none
      live := nmod s.acct.live 0 (c * 16 + (if miss then 10 else 7) + (cls - 1)) more } }
  | _, _ => s

/-- The causes as they stand: MGT:0x0B8 when one begins and when it ends, and the yields of the contexts. -/
def State.yieldSync (s : State) : State :=
  let now := ([1, 2, 3].filter s.causeOn).foldl (fun a k => a + 2 ^ k) 0
  if now = 0 ∧ s.acct.causes = 0 then s
  else
    let t := [1, 2, 3].foldl (fun (u : State) k =>
      if bit now k = bit s.acct.causes k then u else u.postRim 0xC0B8 clsN (if bit now k then 1 else 0) none 0) s
    let u : State := { t with acct := { t.acct with causes := now } }
    (List.range 64).foldl (fun v c => [1, 2, 3].foldl (State.yieldOne c) v) u

/-- n µs of the reference clock pass. -/
def State.passUs (s0 : State) (n : Nat) : State :=
  let s := if s0.on F.mgtStartStat_ready then s0.yieldSync else s0
  let t := if !s.on F.mgtStartStat_ready then s else (List.range 32).foldl (State.passQuad n) s
  let m := t.mgmt
  let spend := fun (l : NMap Nat) (f : Nat) => nset l 0 f (nget l 0 f - t.clockUs f n)
  { t with
    ticks := t.ticks + n * usTicks
    mgmt := { m with
      budget := (List.range 8).foldl spend m.budget
      paused := m.paused + if s.shedding then n * usTicks else 0 } }

/-- An idle µs of the block. Time stops short of an epoch boundary, which EPOCH_BOUNDARY brings. -/
def State.idleTick (s : State) : State := if s.ticks % epochTicks + usTicks < epochTicks then s.passUs 1 else s

/-- The rest of the epoch passes. -/
def State.toBoundary (s : State) : State :=
  let t := s.passUs ((epochTicks - s.ticks % epochTicks) / usTicks)
  let e := (s.ticks / epochTicks + 1) * epochTicks
  { t with ticks := e, mgmt := { t.mgmt with paused := t.mgmt.paused + if s.shedding then e - t.ticks else 0 } }

end Sys2Proof.Machine
end

