-- ==== Sys2Proof/Machine/Power.lean ====
section
/-! DEFINITION. The epoch boundary (R510 to R512), power following (R518 to R523), clocks and voltages (R524, R525),
temperature (R526 to R530), recalibration (R531), accounting (R426 to R429) and the events of an epoch (R562). -/

namespace Sys2Proof.Machine

def State.modM (s : State) (f : Mgmt → Mgmt) : State := { s with mgmt := f s.mgmt }

/-- Epoch number (R510). -/
def State.epochNo (s : State) : Nat := s.ticks / epochTicks

/-! ## Clocks and voltages (R524, R525) -/

/-- Set point of a facet's rail at a clock step, in mV: it does not decrease as the step rises and lies within 600 to 950. -/
def voltPoint (f step : Nat) : Nat :=
  600 + min 350 ((List.range (step + 1)).foldl (fun m i => max m (Config.curveRaw f i)) 0)

/-- The clock of a facet is set, its voltage following where `v`. -/
def Mgmt.clock (m : Mgmt) (f step duty limiter : Nat) (v : Bool) : Mgmt :=
  { m with
    step := nset m.step 0x30 f step, duty := nset m.duty 16 f duty, limiter := nset m.limiter 0 f limiter
    volt := if v then nset m.volt 0x30 f step else m.volt
    budget := if duty = 16 then nset m.budget 0 f 0 else m.budget }

/-- Every facet at step 0 with duty 1, voltages following (R522). -/
def Mgmt.shedClocks (m : Mgmt) : Mgmt := (List.range 8).foldl (fun a f => a.clock f 0 1 1 true) m

/-- Change the clocks, with what R426 records of it. -/
def State.reclock (s : State) (f : Mgmt → Mgmt) : State :=
  (s.modM f).yieldSync

/-! ## The shed and throttle inputs (R522, R523, R530, R545) -/

/-- The shed state begins. -/
def State.shedBegin (s : State) : State :=
  (s.modM fun m => { m with shed := true, wasShed := true }).reclock Mgmt.shedClocks

/-- MGT:0x020. -/
def State.shedLog (s : State) (on : Bool) : State := s.postRim 0xC020 clsN (if on then 1 else 0) none 0

/-- SHED_ASSERT (R522): before ready it is latched. -/
def State.shedAssert (s : State) : State :=
  if s.mgmt.off || s.mgmt.shedPin then s
  else
    let t := ((s.modM fun m => { m with shedPin := true }).set F.mgtSideband_shed 1).incSat F.mgtSideband_sheds 1
    if t.on F.mgtStartStat_ready then (t.shedLog true).shedBegin else t.modM fun m => { m with latchShed := true }

def execShedAssert (s : State) : Out := .next s.shedAssert

/-- SHED_RELEASE (R522): the shed state holds until the next boundary. -/
def State.shedRelease (s : State) : State :=
  if !s.mgmt.shedPin then s
  else
    let t := (s.modM fun m => { m with shedPin := false }).set F.mgtSideband_shed 0
    if t.on F.mgtStartStat_ready then t.shedLog false else t

def execShedRelease (s : State) : Out := .next s.shedRelease

/-- The limit of R523 begins: the lower of the present step and throt_step, duty and voltage unchanged. -/
def Mgmt.throtClocks (m : Mgmt) : Mgmt :=
  (List.range 8).foldl (fun a f =>
    let st := nget a.step 0x30 f
    let l := nget a.limiter 0 f
    if a.throtStep < st then a.clock f a.throtStep (nget a.duty 16 f) (if 1 ≤ l ∧ l ≤ 2 then l else 3) false else a) m

def State.throtBegin (s : State) : State :=
  (s.modM fun m => { m with throt := true, wasThrot := true }).reclock Mgmt.throtClocks

/-- MGT:0x021. -/
def State.throtLog (s : State) (on : Bool) : State := s.postRim 0xC021 clsN (if on then 1 else 0) none 0

/-- THROT_ASSERT (R523). -/
def State.throtAssert (s : State) : State :=
  if s.mgmt.off || s.mgmt.throtPin then s
  else
    let t := (s.modM fun m => { m with throtPin := true }).set F.mgtSideband_throt 1
    if t.on F.mgtStartStat_ready then (t.throtLog true).throtBegin else t.modM fun m => { m with latchThrot := true }

def execThrotAssert (s : State) : Out := .next s.throtAssert

/-- THROT_RELEASE (R523): the limit is removed at the next boundary. -/
def State.throtRelease (s : State) : State :=
  if !s.mgmt.throtPin then s
  else
    let t := (s.modM fun m => { m with throtPin := false }).set F.mgtSideband_throt 0
    if t.on F.mgtStartStat_ready then t.throtLog false else t

def execThrotRelease (s : State) : Out := .next s.throtRelease

/-! ## Samples (R520, R521, R526, R528, R529, R540) -/

/-- POWER_SAMPLE (R521). -/
def execPowerSample (watts : BitVec 16) (s : State) : Out :=
  .next (s.modM fun m => { m with
    powerSum := m.powerSum + watts.toNat, powerN := m.powerN + 1, powerPeak := max m.powerPeak watts.toNat })

/-- DUTY_PERIOD (R520): the facet clock may run d µs of the period. -/
def execDutyPeriod (f : Fin 8) (s : State) : Out :=
  .next (s.modM fun m => let d := nget m.duty 16 f; { m with budget := nset m.budget 0 f (if d = 16 then 0 else d) })

/-- No reading (R526). -/
def noReading : Nat := 0x8000

/-- A trip (R529). -/
def State.trip (s : State) (arg : Nat) : State :=
  if s.on F.ecuStat_halted then s else (s.postRim 0xC032 clsN arg none 0).packageFault 0xC032 true

/-- The hot action begins (R528). -/
def State.hotBegin (s : State) (die : Nat) : State :=
  if s.mgmt.hot then s
  else
    let t := (s.set F.mgtAlert_cause (Nat.lor (s.get F.mgtAlert_cause) 2)).postRim 0xC031 clsN die none 0
    (t.modM fun m => { m with hot := true, wasHot := true, wasShed := true, cool := 0 }).reclock Mgmt.shedClocks

/-- A die's reading is taken. -/
def Mgmt.reading (m : Mgmt) (d v : Nat) : Mgmt :=
  let old := nget m.tjMax noReading d
  { m with
    tj := nset m.tj noReading d v
    tjMax := nset m.tjMax noReading d (if old = noReading ∨ signed 16 old < signed 16 v then v else old)
    warm := m.warm || decide (1000 ≤ signed 16 v) }

/-- THERMAL_SAMPLE (R526, R528, R529). -/
def State.thermal (s : State) (temps : List Nat) : State :=
  let l := (temps.zipIdx.filter fun e => decide (e.2 < 22) && decide (e.1 ≠ noReading))
  let t := s.modM fun m => l.foldl (fun a e => a.reading e.2 e.1) m
  let u := match l.find? fun e => decide (1050 ≤ signed 16 e.1) with
    | some e => t.hotBegin e.2
    | none => t
  match l.find? fun e => decide (1120 ≤ signed 16 e.1) with
  | some e => u.trip e.2
  | none => u

def execThermalSample (temps : List (BitVec 16)) (s : State) : Out := .next (s.thermal (temps.map BitVec.toNat))

/-- REGULATOR_FAULT (R540), from start-up step 2: bits 5 and 4 of a PMBus status word are output over-voltage and over-current. -/
def execRegulatorFault (rail : Byte) (status : BitVec 16) (s : State) : Out :=
  .next (if decide (2 ≤ s.get F.mgtStartStat_step) && (bit status.toNat 5 || bit status.toNat 4) then s.trip (256 + rail.toNat)
    else s)

/-- RAIL_OUT_OF_WINDOW (R540). -/
def execRailOutOfWindow (rail : Byte) (s : State) : Out := .next (s.trip (512 + rail.toNat))

/-! ## Counts of the epoch that ended (R86, R227, R229, R562) -/

/-- The events that report an epoch's counts, and counts of zero for the next epoch. -/
def State.postCounts (s : State) : State :=
  let t1 := s.quads.foldl (fun t e => if e.2.epochCorr = 0 then t
    else (t.post (evElement 0x1010 clsC e.1 none 0 e.2.epochCorr)).modQuad e.1 fun x => { x with epochCorr := 0 }) s
  let t2 := s.tierCorr.foldl (fun t e =>
    if 20 ≤ e.1 then t
    else t.post ⟨if e.1 < 8 then 0x3010 else 0x4010, clsC, unitDie e.1, none, none, none, some e.1, 0, e.2⟩) t1
  let t3 := s.chord.links.foldl (fun t e => if e.2.fec = 0 then t else t.postChord 0x9010 clsC e.1 e.2.fec) t2
  let t4 := if s.chord.stale = 0 then t3 else t3.postRim 0x9040 clsC s.chord.stale none 0
  let lost := s.get F.ecuLogDrop_lost
  let t5 := if s.ecu.dropSeen = lost then t4
    else t4.postRim 0xA0E1 clsN ((lost + 2 ^ 32 - s.ecu.dropSeen) % 2 ^ 32) none 0
  { t5 with
    tierCorr := [], ecu := { t5.ecu with dropSeen := lost }
    chord := { t5.chord with
      stale := 0, links := nmapv t5.chord.links ChordLink.init fun x => { x with fec := 0, logged := false }
      peers := nmapv t5.chord.peers Peer.init fun x => { x with logged := false } } }

/-! ## Optical readings (R433, R460) and device-reported errors (R228) -/

/-- A laser input reading: CHD:0x070 below +15.0 dBm and on recovery, and below +13.0 dBm the connector's chords fail. -/
def State.laser (s : State) (i v : Nat) : State :=
  let was := s.get (F.chdLaser_in_pow i)
  let t := s.set (F.chdLaser_in_pow i) v
  let low := decide (signed 16 v < 1500)
  let u := if low = nget s.chord.laserLow false i then t
    else ({ t with chord := { t.chord with laserLow := nset t.chord.laserLow false i low } } : State).postRim 0x9070 clsN i none 0
  if signed 16 v < 1300 ∧ 1300 ≤ signed 16 was then
    u.darken (((List.range 16).map (i / 8 * 16 + ·)).filter fun k => decide (u.get (F.chdLinkStat_state k) ≠ 6)) 6
  else u

/-- A return-loss reading in 0.1 dB: CHD:0x071 once while it stays below 26.0 dB. -/
def State.returnLoss (s : State) (k v : Nat) : State :=
  let t := (s.set (F.chdRefl_orl k) v).setLink k { s.link k with orlLow := decide (v < 260) }
  if v < 260 ∧ (s.link k).orlLow = false then t.postChord 0x9071 clsN k v else t

/-- A stack device's error counts are read out: STK:0x012 when they have changed. -/
def State.stkReadout (s : State) (d n : Nat) : State :=
  if nget s.mgmt.stkErr 0 d = n then s
  else (s.modM fun m => { m with stkErr := nset m.stkErr 0 d n }).post
    ⟨0x4012, clsC, unitDie (8 + d), none, none, none, some (8 + d), 0, n⟩

/-- The readings of an epoch that have registers of their own. -/
def State.sensors (s : State) (r : EpochReadings) : State :=
  let t1 := (r.laser.take 32).zipIdx.foldl (fun t e => t.laser e.2 e.1.toNat) s
  let t2 := (r.optics.take 512).zipIdx.foldl (fun t e =>
    (t.set (F.chdOpt_rx_pow e.2) e.1.1.toNat).set (F.chdOpt_tx_pow e.2) e.1.2.toNat) t1
  let t3 := (r.orl.take 64).zipIdx.foldl (fun t e => t.returnLoss e.2 e.1.toNat) t2
  (r.stkErr.take 12).zipIdx.foldl (fun t e => t.stkReadout e.2 e.1.toNat) t3

/-- Attestation results grow older (R503). -/
def State.ageAtt (s : State) : State :=
  let lo := (F.secPeerAtt_age_ms 0).key
  (s.regs.filter fun e => decide (lo ≤ e.1 ∧ e.1 < (F.secPeerAtt_age_ms 4096).key ∧ e.1 % 256 = lo % 256)).foldl
    (fun t e => t.incSat (F.secPeerAtt_age_ms ((e.1 - lo) / 256)) 1) s

/-! ## Energy (R429, R518) and the snapshot (R427, R428) -/

/-- The sum of the values of a list. -/
def total (l : List (Nat × Nat)) : Nat := l.foldl (fun n e => n + e.2) 0

/-- Shares of an energy in proportion to weights, each rounded down. -/
def shares (e : Nat) (l : List (Nat × Nat)) : List (Nat × Nat) := l.map fun x => (x.1, e * x.2 / total l)

/-- Energy of the epoch's work by context (64 none): of facet f by its quadrants' fc, of the rest by bytes through the rims. -/
def State.energyParts (s : State) (f e : Nat) : List (Nat × Nat) :=
  if f = 8 then if total s.acct.bytes = 0 then [] else shares e s.acct.bytes
  else
    let quads := (List.range 4).map fun i =>
      (4 * f + i, total (s.acct.fc.filter fun x => decide (x.1 / 128 = 4 * f + i)))
    if total quads = 0 then []
    else (shares e quads).flatMap fun x =>
      let own := (s.acct.fc.filter fun y => decide (y.1 / 128 = x.1)).map fun y => (y.1 % 128, y.2)
      if total own = 0 then [] else shares x.2 own

/-- Attribute an energy: what no context takes is overhead. -/
def State.attribute (s : State) (f e : Nat) : State :=
  let parts := (s.energyParts f e).filter fun x => decide (x.1 < 64)
  let t := parts.foldl (fun t x => t.acctCtx x.1 6 x.2) s
  { t with acct := { t.acct with ovh := (t.acct.ovh + (e - total parts)) % 2 ^ 64 } }

/-- Attribute the energies held for facets and rims, and count them as the package's (R429, R518). -/
def State.attributeAll (s : State) : State :=
  let l := s.mgmt.missed
  let t := l.foldl (fun t e => t.attribute e.1 e.2) s
  let u : State := { t with acct := { t.acct with fc := [], bytes := [] } }
  (u.modM fun m => { m with missed := [], energy := (m.energy + total l) % 2 ^ 64 }).inc F.mgtEnergy_uj (total l)

/-- The readings of an epoch's energy are held until they are attributed. -/
def State.holdEnergy (s : State) (r : EpochReadings) : State :=
  let add := fun (l : NMap Nat) => nmod ((r.facetUj.take 8).zipIdx.foldl (fun a e => nmod a 0 e.2 (· + e.1.toNat)) l) 0 8
    (· + r.rimUj.toNat)
  s.modM fun m => { m with missed := add m.missed }

/-- Copy the live counters of a context. -/
def State.copyCtx (s : State) (c : Nat) : State :=
  let v := fun (k : Nat) => nget s.acct.live 0 (c * 16 + k)
  let t := ((((((s.set (F.mgtCtxWaitq_ticks c) (v 0)).set (F.mgtCtxWaitw_ticks c) (v 1)).set (F.mgtCtxRun_fc c) (v 2)).set
    (F.mgtCtxHold_fc c) (v 3)).set (F.mgtCtxPre_count c) (v 4)).set (F.mgtCtxPretime_ticks c) (v 5)).set
    (F.mgtCtxEnergy_uj c) (v 6)
  (List.range 6).foldl (fun u k =>
    (u.set (F.mgtCtxYield_count c k) (v (7 + k) / 2 ^ 40)).set (F.mgtCtxYield_ticks c k) (v (7 + k) % 2 ^ 40)) t

/-- The accounting snapshot asked for is latched at a boundary (R427). -/
def State.acctLatch (s : State) : State :=
  if !s.on F.mgtAcctCtl_busy then s
  else
    let t := (List.range 64).foldl State.copyCtx s
    let u := (((t.set F.mgtEnergyOvh_uj t.acct.ovh).set F.mgtEnergySnap_uj t.mgmt.energy).inc F.mgtAcctCtl_snap_seq 1).set
      F.mgtAcctCtl_busy 0
    if s.acct.clear then
      ({ u with acct := { u.acct with live := [], ovh := 0, clear := false } } : State).modM fun m => { m with energy := 0 }
    else u

/-! ## The boundary -/

/-- Mean power of the epoch in W. -/
def Mgmt.mean (m : Mgmt) : Nat := if m.powerN = 0 then 0 else m.powerSum / m.powerN

/-- Whether every facet runs at step 0 with duty 1. -/
def Mgmt.lowest (m : Mgmt) : Bool := (List.range 8).all fun f => decide (nget m.step 0x30 f = 0) && decide (nget m.duty 16 f = 1)

/-- Telemetry of the epoch that ended (R512, R518, R525, R526). -/
def State.latchTelemetry (s : State) : State :=
  let m := s.mgmt
  let b := fun (x : Bool) => if x then 1 else 0
  let tooHigh := decide (m.cmd * 102 < m.mean * 100)
  let t1 := (((s.set F.mgtPwrStat_cmd m.cmd).set F.mgtPwrStat_target m.target).set F.mgtPwrAch_peak m.powerPeak).set
    F.mgtPwrAch_mean m.mean
  let t2 := (((((((t1.set F.mgtPwrFlags_shed (b m.wasShed)).set F.mgtPwrFlags_throt (b m.wasThrot)).set F.mgtPwrFlags_hot
    (b m.wasHot)).set F.mgtPwrFlags_floor_limited (b (m.lowest && decide (m.cmd < m.mean)))).set F.mgtPwrFlags_clamped
    (b m.clamped)).set F.mgtPwrFlags_over (b tooHigh)).set F.mgtPwrFlags_source m.source)
  let t3 := (List.range 8).foldl (fun t f =>
    ((t.set (F.mgtClkStat_step f) (t.stepOn f)).set (F.mgtClkStat_duty f) (nget m.duty 16 f)).set (F.mgtClkStat_limiter f)
      (nget m.limiter 0 f)) t2
  let t4 := (List.range 22).foldl (fun t d =>
    (t.set (F.mgtTj_max d) (nget m.tjMax noReading d)).set (F.mgtTj_now d) (nget m.tj noReading d)) t3
  let n := if tooHigh then m.overs + 1 else 0
  let t5 := t4.modM fun m => { m with
    mv := (List.range 8).foldl (fun l f => nset l 0x30 f (nget m.volt 0x30 f)) []
    overs := if n = 3 then 0 else n, excess := if tooHigh then m.mean - m.cmd else 0
    powerSum := 0, powerN := 0, powerPeak := 0 }
  if n = 3 then t5.postRim 0xC011 clsN m.mean none 0 else t5

/-- Epoch-applied settings come into force (R511, R519). -/
def State.applySettings (s : State) : State :=
  let c := max 700 (min 2800 s.mgmt.pending)
  let t := s.modM fun m => { m with
    pending := c, target := c.toNat, clamped := decide (c ≠ m.pending)
    follow := s.on F.mgtPwrCfg_follow, ramp := max 50 (min 1000 (s.get F.mgtPwrCfg_ramp))
    caps := (List.range 8).foldl (fun l f => nset l 0x30 f (min 56 (s.get (F.mgtClkCap_cap f)))) []
    throtStep := s.get F.mgtThrotCfg_throt_step, therm := max 70 (min 100 (s.get F.mgtThermCfg_target))
    auto := s.on F.mgtRecalCtl_auto }
  if s.mgmt.pending = c then t else t.postRim 0xC010 clsN c.toNat none 0

/-- The commanded level (R520, R522): from its previous value, or after a shed from the last mean rounded down to 10 W. -/
def Mgmt.command (m : Mgmt) (shedEnd : Bool) (mean : Nat) : Mgmt :=
  let p := if shedEnd then mean / 10 * 10 else m.cmd
  { m with cmd := if !m.follow then 2800 else if p < m.target then min m.target (p + m.ramp) else max m.target (p - m.ramp) }

/-- The package's step and duty: the highest step within every cap, then the highest duty at step 0, whose predicted power is
within the level lowered by the measured excess (R520, R521). -/
def Mgmt.choose (m : Mgmt) (epoch : Nat) : Nat × Nat :=
  let level := m.cmd - m.excess
  let top := (List.range 8).foldl (fun n f => min n (nget m.caps 0x30 f)) 56
  match ((List.range (top + 1)).reverse).find? fun st => decide (Config.predictedPower epoch st 16 ≤ level) with
  | some st => (st, 16)
  | none => (0, ((((List.range 15).map (· + 2)).reverse).find? fun d => decide (Config.predictedPower epoch 0 d ≤ level)).getD 1)

/-- Thermal cap of a facet: 2 steps down from the lower of it and MGT_CLK_CAP, on below step 0 in duty, or 1 step up to
MGT_CLK_CAP (R527). -/
def Mgmt.thermalCap (m : Mgmt) (f : Nat) : Mgmt :=
  let dies := f :: ((List.range 12).filter fun d => decide (unitDie (8 + d) = f)).map (· + 10)
  let r := (dies.map fun d => nget m.tjMax noReading d).filter fun v => decide (v ≠ noReading)
  let c := nget m.tcap 56 f
  let d := nget m.tduty 16 f
  let put := fun (c d : Nat) => { m with tcap := nset m.tcap 56 f c, tduty := nset m.tduty 16 f d }
  if r.any fun v => decide ((m.therm * 10 : Nat) < signed 16 v) then
    let b := min c (nget m.caps 0x30 f)
    if 2 ≤ b then put (b - 2) d else put 0 (max 1 (d - (2 - b)))
  else if r.all fun v => decide (signed 16 v < (m.therm * 10 : Nat) - 20) then
    if d < 16 then put c (d + 1) else if c < nget m.caps 0x30 f then put (c + 1) d else m
  else m

/-- The clock of a facet for package step s and duty d, with the first limiter that binds (R520, R525). -/
def Mgmt.facetClock (m : Mgmt) (f st d : Nat) (top : Nat) : Mgmt :=
  let c := nget m.tcap 56 f
  let td := nget m.tduty 16 f
  let warm := decide (c < st) || decide (td < d)
  let st1 := min st c
  let st2 := if m.throt then min st1 m.throtStep else st1
  if m.shed || m.hot then m.clock f 0 1 1 true
  else
    let l := if warm then 2 else if st2 < st1 then 3 else if st < top ∨ d < 16 then 4 else if top < 56 then 5 else 0
    m.clock f st2 (min d td) l true

/-- MGT:0x030 when a facet's thermal cap first binds, and when it no longer binds (R527). -/
def State.thermalLog (s : State) (f st d : Nat) : State :=
  let binds := decide (nget s.mgmt.tcap 56 f < st) || decide (nget s.mgmt.tduty 16 f < d)
  if binds = nget s.mgmt.tbind false f then s
  else (s.modM fun m => { m with tbind := nset m.tbind false f binds }).post
    ⟨0xC030, clsN, f, none, none, none, some f, 0, if binds then 1 else 0⟩

/-- Clocks for the next epoch (R520 to R523, R527, R528). -/
def State.setClocks (s : State) (mean : Nat) : State :=
  let m := s.mgmt
  let cool := if m.warm then 0 else m.cool + 1
  let hot := m.hot && decide (cool < 10)
  let shed := m.shed && m.shedPin
  let ended := (m.shed || m.hot) && !(shed || hot)
  let m1 := { m with
    cool := cool, warm := false, hot := hot, shed := shed, throt := m.throt && m.throtPin }
  let m2 := m1.command ended mean
  let p := m2.choose s.epochNo
  let top := (List.range 8).foldl (fun n f => min n (nget m2.caps 0x30 f)) 56
  let t := (List.range 8).foldl (fun t f => t.thermalLog f p.1 p.2) ({ s with mgmt := m2 })
  let u := t.reclock fun m => (List.range 8).foldl (fun a f => a.facetClock f p.1 p.2 top) m
  let w := u.modM fun m => { m with wasShed := m.shed || m.hot, wasThrot := m.throt || m.throtPin, wasHot := m.hot }
  let x := if w.mgmt.latchShed then ((w.modM fun m => { m with latchShed := false }).shedLog true).shedBegin else w
  if x.mgmt.latchThrot then ((x.modM fun m => { m with latchThrot := false }).throtLog true).throtBegin else x

/-! ## Recalibration (R531) -/

/-- Whether a channel's automatic trigger holds: 5 °C or 1,024 epochs since its last calibration. -/
def State.recalDue (s : State) (d ch : Nat) : Bool :=
  let c := nget s.mgmt.calibrated (0, nget s.mgmt.calTj noReading d) (d * 32 + ch)
  let now := nget s.mgmt.tj noReading (10 + d)
  decide (c.1 + 1024 ≤ s.epochNo) || (decide (c.2 ≠ noReading ∧ now ≠ noReading) &&
    decide (50 ≤ (signed 16 now - signed 16 c.2).natAbs))

/-- Whether a channel or its device is retired. -/
def State.chanGone (s : State) (d ch : Nat) : Bool :=
  s.on (F.ecuStk_dev_retired d) || (s.on (F.ecuStk_ch_retired d) && decide (s.get (F.ecuStk_channel d) = ch))

/-- A recalibration of a channel starts. -/
def State.recalStart (s : State) (d ch : Nat) (asked : Bool) : State :=
  s.modM fun m => { m with recal := nset m.recal none d (some (ch, asked)) }

/-- Automatic recalibrations of a boundary: at most one channel of each device. -/
def State.autoRecal (s : State) : State :=
  if !s.mgmt.auto then s
  else (List.range 12).foldl (fun t d =>
    if (nget t.mgmt.recal none d).isSome then t
    else match (List.range 32).find? fun ch => !t.chanGone d ch && t.recalDue d ch with
      | some ch => t.recalStart d ch false
      | none => t) s

/-- RECALIBRATE (R531): a write of MGT_RECAL_CTL. -/
def State.recalCtl (s : State) (v : Lane) : State :=
  let d := vbits v 8 5
  let ch := vbits v 4 0
  let t := ((s.set F.mgtRecalCtl_auto (vbits v 30 30)).set F.mgtRecalCtl_device d).set F.mgtRecalCtl_channel ch
  if !vbit v 31 || s.on F.mgtRecalCtl_busy then t
  else if decide (12 ≤ d) || t.chanGone d ch || (nget t.mgmt.recal none d).isSome then t.set F.mgtRecalCtl_status 2
  else ((t.recalStart d ch true).set F.mgtRecalCtl_status 0).set F.mgtRecalCtl_busy 1

def execRecalibrate (o : Orig) (v : Lane) (s : State) : Out := .next (s.guard o .pfOnly 0x2500 fun s => s.recalCtl v)

/-- RECAL_COMPLETE (R531): a failure retires the channel (R474). -/
def State.recalDone (s : State) (d : Nat) (ok : Bool) : State :=
  match nget s.mgmt.recal none d with
  | none => s
  | some (ch, asked) =>
    let t := (s.modM fun m => { m with
      recal := nset m.recal none d none
      calibrated := nset m.calibrated (0, noReading) (d * 32 + ch) (s.epochNo, nget m.tj noReading (10 + d)) }).inc
      F.mgtRecalStat_count 1
    let u := if asked then (t.set F.mgtRecalCtl_busy 0).set F.mgtRecalCtl_status (if ok then 1 else 3) else t
    if ok then u else u.channelFault d ch

def execRecalComplete (dev : Fin 12) (ok : Bool) (s : State) : Out := .next (s.recalDone dev ok)

/-- What the controller does at a boundary (R510 to R531). -/
def State.control (s : State) : State :=
  let mean := s.mgmt.mean
  let caps := fun (m : Mgmt) => { (List.range 8).foldl Mgmt.thermalCap m with tjMax := [] }
  let t := s.latchTelemetry.attributeAll.acctLatch.applySettings.modM caps
  if t.on F.mgtStartStat_ready then (t.setClocks mean).autoRecal else t

/-- EPOCH_BOUNDARY (R510): the rest of the epoch passes, then the boundary. In a management reset only the hardware acts (R532). -/
def State.boundary (s : State) (r : EpochReadings) : State :=
  let t0 := s.toBoundary
  let t1 := t0.set F.mgtEpoch_epoch t0.epochNo
  let t2 := ((t1.postCounts).sensors r).ageAtt.holdEnergy r
  let t3 := if t2.mgmt.resetting then t2 else t2.control
  if t3.epochNo % 4 = 0 then t3.logStart false else t3

def execEpochBoundary (r : EpochReadings) (s : State) : Out := .next (s.boundary r)

/-! ## Power target (R518, R519) -/

/-- Last target writer as MGT_PWR_FLAGS source names it. -/
def targetSource (o : Orig) : Nat := if o = .mc then 2 else 1

/-- A write of MGT_PWR_SET: it reads back what was written. -/
def State.pwrSet (s : State) (o : Orig) (v : Lane) : State :=
  let t := (s.set F.mgtPwrSet_op (vbits v 31 30)).set F.mgtPwrSet_value (vbits v 15 0)
  match vbits v 31 30 with
  | 1 => t.modM fun m => { m with pending := (vbits v 15 0 : Nat), source := targetSource o }
  | 2 => t.modM fun m => { m with pending := m.pending + signed 16 (vbits v 15 0), source := targetSource o }
  | _ => t

/-- PWR_SET_ABSOLUTE (R519). -/
def execPwrSetAbsolute (o : Orig) (v : Lane) (s : State) : Out := .next (s.guard o .pfOnly 0x2010 fun s => s.pwrSet o v)
/-- PWR_SET_RELATIVE (R519). -/
def execPwrSetRelative (o : Orig) (v : Lane) (s : State) : Out := .next (s.guard o .pfOnly 0x2010 fun s => s.pwrSet o v)

end Sys2Proof.Machine
end

