-- ==== Sys2Proof/Machine/Reset.lean ====
section
/-! DEFINITION. Firmware slots (R513 to R516), the boot ROM (R495 to R499), resets (R532, R533), start-up (R534, R535, R541),
power (R484, R485), the loss of a reference clock (R543), and what the host port does on its own (R258, R517). -/

namespace Sys2Proof.Machine

/-! ## The flash (R513 to R515) -/

def Flash.slot (f : Flash) (b : Bool) : FwSlot := if b then f.slotB else f.slotA
def Flash.setSlot (f : Flash) (b : Bool) (x : FwSlot) : Flash := if b then { f with slotB := x } else { f with slotA := x }

/-- Signature of a slot's image (R497 step 3); the shipped images carry a valid one. -/
def FwSlot.signed : FwSlot → Bool
  | .shipped => true
  | .erased => false
  | .image b => Config.imageSigned b

/-- Security version of a slot's image (R497 step 4); the shipped images state 0. -/
def FwSlot.svn : FwSlot → Nat
  | .image b => Config.imageSvn b
  | _ => 0

/-- Digest of a slot's image (R497 step 5). -/
def FwSlot.digest (b : Bool) : FwSlot → BitVec 384
  | .image l => Config.sha384 l
  | _ => Config.shippedImage b

/-- The selector in force: the valid copy with the higher sequence number, and which copy it is (R514). -/
def Flash.selector (f : Flash) : Option (Selector × Bool) :=
  match f.sel0, f.sel1 with
  | some a, some b => if a.seq < b.seq then some (b, true) else some (a, false)
  | some a, none => some (a, false)
  | none, some b => some (b, true)
  | none, none => none

/-- The selector's content, slot A where both copies are invalid. -/
def Flash.current (f : Flash) : Selector := match f.selector with | some x => x.1 | none => ⟨0, false, false, 0⟩

/-- A selector write: to the copy with the lower sequence number, with the number increased by one (R515). -/
def Flash.select (f : Flash) (b trial : Bool) : Flash :=
  let r : Selector := ⟨f.current.seq + 1, b, trial, 0⟩
  match f.selector with
  | some (_, false) => { f with sel1 := some r }
  | _ => { f with sel0 := some r }

/-- The trial count of the copy in force goes up by one (R514). -/
def Flash.countTrial (f : Flash) : Flash :=
  let up := fun (x : Selector) => { x with count := x.count + 1 }
  match f.selector with
  | some (_, false) => { f with sel0 := f.sel0.map up }
  | some (_, true) => { f with sel1 := f.sel1.map up }
  | none => f

/-! ## The boot ROM and the firmware's start (R495 to R499, R514) -/

/-- Slot to try first, the flash after the choice, whether it is a trial boot and whether it is a fallback (R514, R532). -/
def Mgmt.pick (m : Mgmt) : Bool × Flash × Bool × Bool :=
  let c := m.flash.current
  let p := if !c.trial then (c.slotB, m.flash, false, false)
    else if 3 ≤ c.count then (!c.slotB, m.flash.select c.slotB false, false, true)
    else (c.slotB, m.flash.countTrial, true, false)
  if m.otherSlot then (!p.1, p.2.1, false, true) else p

/-- A slot that fails logs SEC:0x0C0 or SEC:0x0C2 (R497). -/
def State.verify (s : State) (b : Bool) : Bool × State :=
  let x := s.mgmt.flash.slot b
  let n := if b then 1 else 0
  if !x.signed then (false, s.postRim 0xB0C0 clsN n none 1)
  else if x.svn < s.fuses.svn then (false, s.postRim 0xB0C2 clsN n none 1)
  else (true, s)

/-- The firmware of a slot starts: measured, its versions shown; MGT:0x040 after a fallback. -/
def State.startFw (s : State) (b trial back : Bool) : State :=
  let x := s.mgmt.flash.slot b
  let n := if b then 1 else 0
  let t := ((((s.extendWith 1 (x.digest b)).set F.mgtFwCtl_active n).set F.secStat_slot n).set F.mgtFwCtl_trial
    (if trial then 1 else 0)).set F.secSvn_running x.svn
  if back then (t.set F.mgtAlert_cause (Nat.lor (t.get F.mgtAlert_cause) 8)).postRim 0xC040 clsN n none 1 else t

/-- Steps 2 to 5 of R497: a slot is selected, verified and started, the other one where it fails; with neither, the package
stays in reset. -/
def State.bootFw (s : State) : State :=
  let p := s.mgmt.pick
  let t := (s.modM fun m => { m with flash := p.2.1, otherSlot := false }).set F.secSvn_fused s.fuses.svn
  let v := t.verify p.1
  if v.1 then v.2.startFw p.1 p.2.2.1 p.2.2.2
  else
    let w := v.2.verify (!p.1)
    if w.1 then w.2.startFw (!p.1) false true else w.2.modM fun m => { m with stuck := true }

/-- Security state that the controller extends into measurement 3 when it starts: fuse map, debug state, and the locks and the owner
tag where they are set (Table 122). -/
def State.measureState (s : State) : State :=
  let t := (s.extendItem 0 (s.fuses.svnData.toNat + s.fuses.svnMark.toNat)).extendItem 1 (s.get F.secStat_debug)
  let u := if t.lockBits = 0 then t else t.extendItem 2 t.lockBits
  if u.on F.ownerWritten then u.extendItem 3 (u.get F.secOwnerId_owner) else u

/-! ## Management resets (R532) -/

/-- A management reset begins: measurements 1 to 3 are zeroed, and no message is answered. -/
def State.mgmtReset (s : State) : State :=
  let meas := s.sec.meas.filter fun e => !(decide (1 ≤ e.1) && decide (e.1 ≤ 3))
  (({ s with sec := { s.sec with meas := meas, spdmVersion := false, spdmAlgs := false } } : State).modM fun m =>
    { m with resetting := true, writing := none }).set F.mgtFwCtl_busy 0

/-- MANAGEMENT_RESET_COMPLETE (R532): the firmware runs again and attributes the missed epochs (R429). -/
def State.mgmtDone (s : State) : State :=
  if !s.mgmt.resetting then s
  else
    let t := (s.modM fun m => { m with resetting := false }).bootFw
    if t.mgmt.stuck then t else ((t.extendWith 2 Config.shippedFns).measureState).attributeAll

def execManagementResetComplete (s : State) : Out := .next s.mgmtDone

/-! ## Package resets (R532, R534) -/

/-- Fields that a package reset keeps: SEC_VIOL, SEC_VIOL_ADDR and MGT_SAVE_CFG. -/
def keptFields : List Fld := [F.secViol_count, F.secViol_originator, F.secViolAddr_addr, F.mgtSaveCfg_areas]

/-- What no reset touches: the commands that wait, the clock's surroundings, host memory, what left the package, the fuses and the
flash with its logs. -/
def State.reborn (s : State) (copyA copyB : LogCopy) (m : Mgmt) : State :=
  { State.reset with
    pending := s.pending, boot := s.boot, freeCtr := s.freeCtr, readData := s.readData, hostMem := s.hostMem, msix := s.msix
    sent := s.sent, fuses := s.fuses, ecu := { Ecu.init with copyA := copyA, copyB := copyB }, mgmt := m }

/-- A copy of the log after every entry posted so far is committed to it (Table 128). -/
def State.flushed (s : State) (b : Bool) : LogCopy :=
  ((s.setLogCopy b { s.logCopy b with busy := some (s.get F.ecuLogTail_seq) }).logWrite b).logCopy b

/-- A copy of the log as the next start-up finds it: seq counts from 0 again (R480). -/
def LogCopy.reborn (c : LogCopy) : LogCopy := { c with next := 0, busy := none }

/-- A package reset that ends a start-up logs MGT:0x060 (R541). -/
def State.endStart (s : State) : State :=
  if s.on F.mgtStartStat_ready || s.mgmt.stuck || s.mgmt.off then s
  else s.postRim 0xC060 clsN (s.get F.mgtStartStat_step) none 0

/-- A package reset: as a power loss, but for what Table 128 keeps; entries not yet committed are committed first. -/
def State.packageReset (s : State) (link : Bool) : State :=
  let t := s.endStart
  let m : Mgmt := { Mgmt.init with
    flash := s.mgmt.flash, lastDog := none, otherSlot := s.mgmt.otherSlot, shedPin := s.mgmt.shedPin
    throtPin := s.mgmt.throtPin, latchShed := s.mgmt.shedPin, latchThrot := s.mgmt.throtPin, tap := s.mgmt.tap
    perst := s.mgmt.perst, hostLink := s.mgmt.hostLink && link, since := s.mgmt.since + s.ticks }
  let u := s.reborn (t.flushed false).reborn (t.flushed true).reborn m
  let v := keptFields.foldl (fun w f => w.set f (s.get f)) u
  let d := if s.get F.secStat_debug = 3 then 0 else s.get F.secStat_debug
  let w := (({ v with sec := { v.sec with debugPending := s.sec.debugPending } } : State).set F.secStat_debug d).set
    F.mgtStartStat_step 1
  (w.set F.mgtSideband_shed (if s.mgmt.shedPin then 1 else 0)).set F.mgtSideband_throt (if s.mgmt.throtPin then 1 else 0)

/-- The writes of MGT_RST (R533). -/
def State.rstCtl (s : State) (o : Orig) (v : Lane) : State :=
  let q := vbits v 4 0
  let t := (s.set F.mgtRst_op (vbits v 30 28)).set F.mgtRst_quadrant q
  if !vbit v 31 then t
  else match vbits v 30 28 with
    | 1 => t.packageReset true
    | 2 =>
      let held := (List.range 7).any fun a => decide (t.get (F.seqPreArea_state q a) ≠ 0)
      let rest := t.idle q && !t.anyBound q
      if !t.active q || !(t.fenced q || rest) || (t.quad q).pre.isSome || held then
        (t.set F.mgtRst_status 2).post (t.evAbout 0xC0C1 clsN q o.code.toNat 0)
      else (t.resetQuad q).set F.mgtRst_status 1
    | _ => t

/-- PACKAGE_RESET (R533). -/
def execPackageReset (o : Orig) (v : Lane) (s : State) : Out := .next (s.guard o .pfOnly 0x2400 fun s => s.rstCtl o v)
/-- QUADRANT_RESET (R533). -/
def execQuadrantReset (o : Orig) (v : Lane) (s : State) : Out := .next (s.guard o .pfOnly 0x2400 fun s => s.rstCtl o v)

/-- POWER_LOSS (R484, R485): fuses, flash and log copies remain. -/
def State.powerLoss (s : State) : State :=
  let m := { Mgmt.init with flash := s.mgmt.flash, perst := s.mgmt.perst, off := true }
  s.reborn s.ecu.copyA.reborn s.ecu.copyB.reborn m

def execPowerLoss (s : State) : Out := .next s.powerLoss

/-- POWER_ON (R532, R534): PWRGD rises; the power-on count goes up and start-up begins. -/
def State.powerOn (s : State) : State :=
  let t := s.powerLoss
  (({ t with boot := (t.boot + 1) % 2 ^ 32 } : State).modM fun m => { m with off := false, hostLink := !m.perst }).set
    F.mgtStartStat_step 1

def execPowerOn (s : State) : Out := .next s.powerOn

/-- PERST_ASSERT (R534): the host port is held in reset, and start-up begins again as a package reset. -/
def State.perstAssert (s : State) : State :=
  let t := s.modM fun m => { m with perst := true, hostLink := false }
  if s.mgmt.off || s.mgmt.perst then t else t.packageReset false

def execPerstAssert (s : State) : Out := .next s.perstAssert

/-- PERST_RELEASE (R534): the link trains, whatever the step of start-up. -/
def execPerstRelease (s : State) : Out := .next (s.modM fun m => { m with perst := false, hostLink := !m.off })

/-- HOST_LINK_RESET (R532). -/
def execHostLinkReset (s : State) : Out := .next (if s.mgmt.off then s else s.packageReset false)

/-- PF_FLR (R532): the link stays trained. -/
def execPfFlr (s : State) : Out := .next (if s.mgmt.off then s else s.packageReset true)

/-- WATCHDOG_TIMEOUT (R532): during start-up a package reset, else a management reset; two within 10 s make the next boot take the
other slot. -/
def State.watchdog (s : State) : State :=
  if s.mgmt.off then s
  else if !s.on F.mgtStartStat_ready then s.packageReset true
  else
    let twice := match s.mgmt.lastDog with | some t => decide (s.ticks ≤ t + 250000000) | none => false
    (s.modM fun m => { m with lastDog := some s.ticks, otherSlot := twice }).mgmtReset

def execWatchdogTimeout (s : State) : Out := .next s.watchdog

/-! ## Firmware operations (R516) -/

/-- Whether slot B runs. -/
def State.runsB (s : State) : Bool := s.on F.mgtFwCtl_active

/-- A write of MGT_FW_CTL. -/
def State.fwCtl (s : State) (v : Lane) : State :=
  let t := s.set F.mgtFwCtl_op (vbits v 30 28)
  let other := !s.runsB
  if !vbit v 31 || s.on F.mgtFwCtl_busy then t
  else match vbits v 30 28 with
    | 1 =>
      ((t.modM fun m => { m with
        flash := m.flash.setSlot other .erased, writing := some (s.bytesAt (s.get F.mgtFwAddr_addr * 4096) (2 ^ 22))
        written := false }).set F.mgtFwCtl_status 0).set F.mgtFwCtl_busy 1
    | 2 =>
      if s.mgmt.written then
        ((t.modM fun m => { m with flash := m.flash.select other true, written := false }).set F.mgtFwCtl_status 1).mgmtReset
      else t.set F.mgtFwCtl_status 2
    | 3 =>
      if s.on F.mgtFwCtl_trial then
        ((t.modM fun m => { m with flash := m.flash.select m.flash.current.slotB false }).set F.mgtFwCtl_trial 0).set
          F.mgtFwCtl_status 1
      else t.set F.mgtFwCtl_status 2
    | 4 => (t.set F.mgtFwCtl_status 1).mgmtReset
    | _ => t

/-- WRITE (R516). -/
def execFwWrite (o : Orig) (v : Lane) (s : State) : Out := .next (s.guard o .pfOnly 0x2308 fun s => s.fwCtl v)
/-- ACTIVATE (R516). -/
def execActivate (o : Orig) (v : Lane) (s : State) : Out := .next (s.guard o .pfOnly 0x2308 fun s => s.fwCtl v)
/-- CONFIRM (R516). -/
def execConfirm (o : Orig) (v : Lane) (s : State) : Out := .next (s.guard o .pfOnly 0x2308 fun s => s.fwCtl v)
/-- RESTART (R516). -/
def execRestart (o : Orig) (v : Lane) (s : State) : Out := .next (s.guard o .pfOnly 0x2308 fun s => s.fwCtl v)

/-- FW_WRITE_COMPLETE (R516): flash error, image invalid, or done. -/
def State.fwDone (s : State) (flashOk : Bool) : State :=
  match s.mgmt.writing with
  | none => s
  | some b =>
    let t := (s.modM fun m => { m with writing := none }).set F.mgtFwCtl_busy 0
    if !flashOk then (t.set F.mgtFwCtl_status 4).postRim 0xC041 clsN 0 none 1
    else if Config.imageSigned b && decide (s.fuses.svn ≤ Config.imageSvn b) then
      (t.modM fun m => { m with flash := m.flash.setSlot (!s.runsB) (.image b), written := true }).set F.mgtFwCtl_status 1
    else t.set F.mgtFwCtl_status 3

def execFwWriteComplete (flashOk : Bool) (s : State) : Out := .next (s.fwDone flashOk)

/-! ## Start-up (R534, R535, Table 129) -/

/-- An element fails its start-up test (R535). -/
def State.startFail (s : State) (unit : Nat) (die : Nat) : State :=
  (s.set F.mgtStartStat_degraded 1).post ⟨0xC060, clsN, die, none, none, none, some unit, 0, s.get F.mgtStartStat_step⟩

/-- Start-up stops (R535, R541). -/
def State.startStop (s : State) (arg : Nat) : State := (s.postRim 0xC060 clsN arg none 0).modM fun m => { m with stuck := true }

/-- Step 1 (R495 to R497, R509): torn pairs, the rollback counter's repair, debug, and the firmware. -/
def State.startBoot (s : State) : State :=
  let torn := s.fuses.torn
  let t1 := (torn.foldl (fun t i => t.postRim 0xB0C1 clsN i none 1) s).set F.secStat_torn (min 255 torn.length)
  let f := torn.foldl Fuses.program s.fuses
  let t2 := ({ t1 with fuses := f } : State).extendWith 0 Config.romDigest
  let debug := if f.debugDisabled then 3 else if t2.sec.debugPending then 2 else t2.get F.secStat_debug
  let t3 := ({ t2 with sec := { t2.sec with debugPending := false, keys := [], keks := [] } } : State).set F.secStat_debug debug
  let t4 := t3.bootFw
  if t4.mgmt.stuck then t4 else t4.measureState

/-- Step 3: spare rows, seams, and a die without a route. -/
def State.startDies (s : State) (r : StartupReport) : State :=
  let t := (r.spareRows.take 8).zipIdx.foldl (fun t e => t.set (F.ecuSpare_base_rows e.2) e.1.toNat) s
  let u := r.badSeams.foldl (fun t n => if bit (t.get F.ecuSeam_retired) n.val then t
    else (t.retireSeam n.val).startFail n.val (seamDie n.val)) t
  u.checkRoutes 0xC060

/-- Step 4: stack devices calibrated (R531) and far ports; a port without a device is reported failed, with no frames
(R244, R535, R546); no link of it goes down, so FAR:0x012 is not logged (R255). -/
def State.startTiers (s : State) (r : StartupReport) : State :=
  let t := r.badStacks.foldl (fun t d => if t.on (F.ecuStk_dev_retired d.val) then t
    else (t.set (F.ecuStk_dev_retired d.val) 1).startFail (8 + d.val) (unitDie (8 + d.val))) s
  let frames := (List.range 8).map fun i => match r.farFrames[i]? with | some n => min n.toNat (2 ^ 20) | none => 0
  { t with
    farFrames := frames.zipIdx.foldl (fun m e => nset m 0 e.2 e.1) []
    mgmt := { t.mgmt with
      calTj := (List.range 12).foldl (fun l d => nset l noReading d (nget t.mgmt.tj noReading (10 + d))) [] }
    ecu := { t.ecu with farDown := frames.zipIdx.foldl (fun n e => if e.1 = 0 then n + 2 ^ e.2 else n) 0 } }

/-- Frames that the save areas take in a stack device (R419): a D-quadrant's in its facet's device, frame j of a W-quadrant's in
device (position + j) mod 3 of its facet's three. -/
def State.areaFrames (s : State) (dev : Nat) : Nat :=
  let areas := s.get F.mgtSaveCfg_areas
  if dev < 6 then areas * 45 * ((List.range 4).filter fun i => s.active (4 * dev + i)).length
  else (List.range 4).foldl (fun n i => n + areas *
    ((List.range 31).filter fun j => decide ((i + j) % 3 = dev % 3)).length) 0

/-- Frames of a stack device that are reserved at start-up: the table region and, from the highest-numbered down, the save areas
(R235, R419). -/
def State.reservedFrames (s : State) (dev : Nat) : List Nat :=
  (if dev = 6 ∨ dev = 9 then List.range 64 else []) ++ (List.range (s.areaFrames dev)).map fun i => 24575 - i

/-- Step 5: reserved frames, the page table, STR_FRAME_FREE. -/
def State.startFrames (s : State) : State :=
  let t := (List.range 12).foldl (fun t d => (t.reservedFrames d).foldl (fun u f => u.setUse (8 + d) f .reserved) t)
    ({ s with pages := [], mgmt := { s.mgmt with areas := s.get F.mgtSaveCfg_areas } } : State)
  ((List.range 28).foldl (fun u k =>
    let res := if 8 ≤ k ∧ k < 20 then (u.reservedFrames (k - 8)).length else 0
    let gone := (decide (8 ≤ k) && decide (k < 20) && u.on (F.ecuStk_dev_retired (k - 8)))
    let n := if gone then 0 else u.unitFrames k - res
    (u.set (F.strFrameFree_total k) n).set (F.strFrameFree_free k) n) t).evictTrack

/-- The two copies of the log merged by boot and seq, and the last 4,096 entries of the newest boot in them (R481, R483). -/
def mergeLogs (a b : List (List Byte)) : List (List Byte) :=
  let key := fun (e : List Byte) => leNat ((e.drop 4).take 4) * 2 ^ 32 + leNat (e.take 4)
  let all := (b ++ a).foldl (fun m e => nput m (key e) e) ([] : NMap (List Byte))
  let newest := match all.getLast? with | some e => e.1 / 2 ^ 32 | none => 0
  let l := (all.filter fun e => decide (e.1 / 2 ^ 32 = newest)).map (·.2)
  l.drop (l.length - 4096)

/-- Step 6: quadrants reset, failed ones fenced, functions measured, logs merged, ready. -/
def State.startReady (s : State) (r : StartupReport) : State :=
  let t := r.badQuads.foldl (fun t q => if t.fenced q.val || !t.active q.val then t
    else (t.set F.ecuFence_fenced (t.get F.ecuFence_fenced + 2 ^ q.val)).startFail q.val (q.val / 4)) s
  let u := (((List.range 32).filter t.active).foldl State.resetQuad t).extendWith 2 Config.shippedFns
  let prev := mergeLogs u.ecu.copyA.entries u.ecu.copyB.entries
  let v := ({ u with logPrev := prev } : State).set F.ecuLogPrev_n prev.length
  (v.set F.mgtStartStat_ready 1).set F.mgtStartStat_ms (min 65535 ((v.mgmt.since + v.ticks) / epochTicks))

/-- STARTUP_STEP_COMPLETE (R534): the present step ends, and unless start-up stops the next one begins. -/
def State.startStep (s : State) (r : StartupReport) : State :=
  if s.mgmt.off || s.on F.mgtStartStat_ready || s.mgmt.stuck || s.on F.ecuStat_halted then s
  else
    let n := max 1 (s.get F.mgtStartStat_step)
    let t := if r.rimNFail then s.startStop rimN
      else match n with
        | 1 => s.startBoot
        | 3 => s.startDies r
        | 4 => s.startTiers r
        | 5 => s.startFrames
        | 6 => s.startReady r
        | _ => s
    if t.mgmt.stuck then t else t.set F.mgtStartStat_step (min 6 (n + 1))

def execStartupStepComplete (r : StartupReport) (s : State) : Out := .next (s.startStep r)

/-- STARTUP_RAIL_TIMEOUT (R541): in step 2 a rail that misses its window stops start-up. -/
def execStartupRailTimeout (rail : Byte) (s : State) : Out :=
  .next (if s.on F.mgtStartStat_ready || s.mgmt.stuck || s.mgmt.off || decide (s.get F.mgtStartStat_step ≠ 2) then s
    else s.startStop rail.toNat)

/-! ## Functions of the host port (R258, R532) -/

/-- VF_FLR (R532): the queues of the function's partition are disabled, its requests and contexts end with MGT:0x0C0. -/
def State.vfReset (s : State) (v : Nat) : State :=
  if !s.on (F.secVfPart_en v) then s
  else
    let p := s.get (F.secVfPart_part v)
    let off := fun (irq vec log : Nat) => BitVec.ofNat 32 (irq * 2 ^ 30 + vec * 2 ^ 16 + log)
    let t1 := s.hqCfg p (off (s.get (F.strHqCfg_irq_en p)) (s.get (F.strHqCfg_vector p)) (s.get (F.strHqCfg_log2n p)))
    let t2 := t1.reqCfg p (off (t1.get (F.reqQCfg_irq_en p)) (t1.get (F.reqQCfg_vector p))
      (t1.get (F.reqQCfg_cq_log2n p) * 256 + t1.get (F.reqQCfg_sq_log2n p)))
    let ctxs := (List.range 64).filter fun c => t2.on (F.mgtCtxCfg_en c) && decide (t2.get (F.mgtCtxCfg_part c) = p)
    let live := t2.req.entries.any fun e => decide (2 ≤ e.2.state) && decide (e.2.state < 5) && decide (e.2.part = p)
    let t3 := t2.post (evRim 0xC0C0 (if live || !ctxs.isEmpty then clsR else clsN) v (some p) (0x10 + v))
    let t4 := t3.endRequests 0xC0C0 fun e => decide (e.part = p)
    ctxs.foldl (fun t c => t.endContext c 0xC0C0 0) t4

def execVfFlr (v : Fin 32) (s : State) : Out := .next (s.vfReset v)

/-- ATS_INVALIDATION_REQUEST (R258): between commands no access of the host port is under way, so the request is completed at
once; the completion leaves on the host port. -/
def execAtsInvalidationRequest (addr size : Dword) (s : State) : Out :=
  .next (s.send 3 0 (leBytes 8 addr.toNat ++ leBytes 8 size.toNat))

/-- REFCLK_LOSS (R543). -/
def State.clockLoss (s : State) (c : RefClk) : State :=
  match c with
  | .mgt => s.packageFault 0 true
  | .chd => s.darken ((List.range 64).filter fun k => decide (s.get (F.chdLinkStat_state k) ≠ 0)) 0
  | .fn => [0, 1, 2, 3].foldl State.portFail s
  | .fs => [4, 5, 6, 7].foldl State.portFail s
  | .host => if s.mgmt.off then s else s.packageReset false

def execRefclkLoss (c : RefClk) (s : State) : Out := .next (s.clockLoss c)

end Sys2Proof.Machine
end

