-- ==== Sys2Proof/Machine/Tables.lean ====
section
/-! DEFINITION. The page operations and migrations as commands (R244 to R250), with the end of the package where a read of the page
table fails in every copy (R235, R476). -/

namespace Sys2Proof.Machine

/-- A page operation, from its register write. -/
def State.pageOp (s : State) (o : Orig) (v : Lane) : State := s.guard o .perOp mapCtlOff fun s => (s.mapCtl o v).tableCheck

/-- MAP (R244). -/
def execMapPages (o : Orig) (v : Lane) (s : State) : Out := .next (s.pageOp o v)
/-- UNMAP (R244). -/
def execUnmapPages (o : Orig) (v : Lane) (s : State) : Out := .next (s.pageOp o v)
/-- HINT (R244). -/
def execHintPages (o : Orig) (v : Lane) (s : State) : Out := .next (s.pageOp o v)
/-- PROTECT (R244). -/
def execProtectPages (o : Orig) (v : Lane) (s : State) : Out := .next (s.pageOp o v)
/-- MIGRATE (R244). -/
def execMigratePages (o : Orig) (v : Lane) (s : State) : Out := .next (s.pageOp o v)
/-- QUERY (R244). -/
def execQueryPage (o : Orig) (v : Lane) (s : State) : Out := .next (s.pageOp o v)

/-- MAP_ZERO_COMPLETE (R245). -/
def execMapZeroComplete (page : BitVec 24) (s : State) : Out := .next (s.zeroDone page.toNat).tableCheck

/-- PAGE_TABLE_DRAIN_COMPLETE (R238). -/
def execPageTableDrainComplete (page : BitVec 24) (s : State) : Out := .next (s.drainDone page.toNat).tableCheck

/-- AUTO_MIGRATION_START (R249). -/
def execAutoMigrationStart (s : State) : Out := .next s.autoStart

/-- MIGRATION_COPY_END (R247, R255): a migration pauses in the shed state (R522). -/
def execMigrationCopyEnd (page : BitVec 24) (s : State) : Out :=
  .next (if s.shedding then s else (s.copyEnd page.toNat).tableCheck)

/-- MIGRATION_ABANDON (R248): its timeout does not advance in the shed state (R522). -/
def execMigrationAbandon (page : BitVec 24) (s : State) : Out :=
  .next (if s.shedding then s else (s.migGiveUp page.toNat).tableCheck)

end Sys2Proof.Machine
end

