-- ==== Sys2Proof/Machine/Bus.lean ====
section
/-! DEFINITION. The register bus: a write or a read of any BAR0 offset (R23 to R29, R492, R550 to R554), and the vendor-defined
management messages that use it (R517). -/

namespace Sys2Proof.Machine

/-! ## Finding a register -/

/-- A register found: its table row, BAR0 offset, and whether the offset named its high word. -/
structure Found where
  spec : RegSpec
  off : Nat
  high : Bool
  deriving DecidableEq, Repr

/-- The instance of a table row that an offset falls on, and whether on its high word. -/
def RegSpec.hit (r : RegSpec) (off : Nat) : Option (Nat × Bool) :=
  if off < r.base then none
  else
    let d := off - r.base
    let i := if r.st1 = 0 then 0 else d / r.st1
    let d1 := d - i * r.st1
    let j := if r.st2 = 0 then 0 else d1 / r.st2
    let d2 := d1 - j * r.st2
    if i < r.n1 ∧ j < r.n2 ∧ (d2 = 0 ∨ (r.wide = true ∧ d2 = 4)) then some (off - d2, decide (d2 = 4)) else none

/-- The register at an offset, none where no register stands (R28, R29, R552). -/
def findReg (off : Nat) : Option Found :=
  if off < 0x1000000 then globalRegs.findSome? fun r => (r.hit off).map fun x => ⟨r, x.1, x.2⟩
  else if 0x1800000 ≤ off then none
  else
    let b := quadBlock ((off - 0x1000000) / 0x40000)
    quadRegs.findSome? fun r => (r.hit (off - b)).map fun x => ⟨r, b + x.1, x.2⟩

/-! ## Who may (R492, Table 121) -/

/-- Scope of a BAR0 offset. -/
def State.scopeOf (s : State) (off : Nat) : Scope :=
  if 0x1000000 ≤ off then s.quadScope ((off - 0x1000000) / 0x40000)
  else if 0x4000 ≤ off ∧ off < 0x6000 then .part (some (s.get (F.mgtCtxCfg_part ((off - 0x4000) / 0x80))))
  else if 0x100140 ≤ off ∧ off < 0x100180 then .part (some ((off - 0x100140) / 4))
  else if 0x100700 ≤ off ∧ off < 0x100900 then .perOp
  else if 0x200200 ≤ off ∧ off < 0x200214 then .perOp
  else if 0x300018 ≤ off ∧ off < 0x300020 then .perOp
  else if 0x301000 ≤ off ∧ off < 0x301400 then .part (some ((off - 0x301000) / 0x40))
  else if 0x302000 ≤ off ∧ off < 0x302400 then s.svcScope ((off - 0x302000) / 0x10)
  else if 0x410000 ≤ off ∧ off < 0x414000 then s.bindScope ((off - 0x410000) / 0x40)
  else if 0x420000 ≤ off ∧ off < 0x430000 then .part (s.owner ((off - 0x420000) / 0x800))
  else if 0x580000 ≤ off ∧ off < 0x580020 then .perOp
  else if 0x581000 ≤ off ∧ off < 0x581400 then .part (some ((off - 0x581000) / 0x40))
  else if 0x614100 ≤ off ∧ off < 0x614140 then .part (some ((off - 0x614100) / 4))
  else .pfOnly

/-- Whether every originator may read an offset: MGT_ID, MGT_VERSION, MGT_QUAD_EN and REQ_NOW (R492). -/
def openReg (off : Nat) : Bool := decide (off < 0xC) || decide (0x300000 ≤ off ∧ off < 0x300008)

/-- Whether an originator may read an offset; the block of a disabled quadrant reads as zero (R7, R492). -/
def State.mayRead (s : State) (o : Orig) (off : Nat) : Bool :=
  (openReg off || s.mayWrite o (s.scopeOf off)) &&
    (decide (off < 0x1000000) || s.active ((off - 0x1000000) / 0x40000))

/-! ## Values -/

/-- Capability directory (Table 138). -/
def capBlk (n : Nat) : Nat :=
  [0xC0140000, 0xB0140010, 0xA0140020, 0x80140030, 0x70140040, 0x62500050, 0x90140060, 0x50140070, 0x42D00080, 0x31D000A0,
    0x27D20100, 0x17D20102].getD n 0

/-- Set bits of a word, lowest first. -/
def bitsWord (l : List Bool) : Nat := l.foldr (fun b n => (if b then 1 else 0) + 2 * n) 0

/-- Registers whose value is a view of other state. -/
def State.viewReg (s : State) (off : Nat) : Nat :=
  if off = 0x0 then s.fuses.deviceId.toNat * 2 ^ 16 + 0x2A5C
  else if off = 0x8 then bitsWord ((List.range 32).map s.active)
  else if off < 0x50 then capBlk ((off - 0x10) / 4)
  else if off = 0x100000 then s.fuses.serial.toNat
  else if off = 0x300000 then s.now
  else
    let q := (off - 0x1000000) / 0x40000
    if off - quadBlock q = 0x420 then (List.range 8).foldl (fun n k => Nat.lor n (s.get (F.seqNflag_flags q k))) 0
    else if isW q then 0x80000000 + 8 * 2 ^ 20 + 9 * 2 ^ 16 + 0x3C * 2 ^ 8 + 0xC
    else 0xC * 2 ^ 20 + 0xB * 2 ^ 16 + 0x58 * 2 ^ 8 + 0x2C

/-- ALERT_N is driven low (R530), also while start-up has stopped (R545). -/
def State.alertLow (s : State) : Bool :=
  decide (Nat.land (s.get F.mgtAlert_cause) (s.get F.mgtAlert_mask) ≠ 0) || s.mgmt.stuck

/-- The 64 bits of a register. A write-only field reads as zero (Table 3). -/
def State.regValue (s : State) (r : RegSpec) (off : Nat) : Nat :=
  let fields := fun (rd : Fld → Nat) =>
    r.fields.foldl (fun n f => if f.acc = .wo then n else n + rd ⟨off, f.lsb, f.len, f.reset⟩ * 2 ^ f.lsb) 0
  match r.kind with
  | .view => s.viewReg off
  | .snap => fields fun f => nget (s.quad ((off - 0x1000000) / 0x40000)).snap 0 f.key
  | .stored =>
    let q := (off - 0x1000000) / 0x40000
    if off = 0x2414 then
      fields fun f => if f.lsb = 29 then (if s.alertLow then 1 else 0) else s.get f
    else if 0x2120 ≤ off ∧ off < 0x2140 then
      let f := (off - 0x2120) / 4
      fields fun x => if x.lsb = 0 then voltPoint f (nget s.mgmt.mv 0x30 f) else s.get x
    else if 0x618000 ≤ off ∧ off < 0x620000 then s.effBits ((off - 0x618000) / 8)
    else if 0x1000000 ≤ off ∧ 0x900 ≤ off - quadBlock q ∧ off - quadBlock q < 0xA00 then
      fnDigest (s.quad q).fnStore ((off - quadBlock q - 0x900) / 8)
    else fields s.get

/-- A 32-bit word of a list of bytes. -/
def wordAt (b : List Byte) (off : Nat) : Nat := byteField b off 4

/-- What stands at an offset that is no register of the table: SEC_MEAS (R499), REQ_PEEK (R401), the log windows (R481); zero
elsewhere (R29). -/
def State.windowValue (s : State) (off : Nat) : Nat :=
  if off % 4 ≠ 0 then 0
  else if 0x100200 ≤ off ∧ off < 0x100600 then
    let i := (off - 0x100200) / 0x40
    if 4 ≤ i ∧ i < 8 then 0 else wordAt (s.measBytes i) ((off - 0x100200) % 0x40)
  else if 0x280000 ≤ off ∧ off < 0x2A0000 then wordAt (nget s.log [] ((off - 0x280000) / 32)) (off % 32)
  else if 0x2A0000 ≤ off ∧ off < 0x2C0000 then wordAt (s.logPrev.getD ((off - 0x2A0000) / 32) []) (off % 32)
  else if 0x300040 ≤ off ∧ off < 0x300080 then (s.req.peek.getD ((off - 0x300040) / 4) 0).toNat
  else 0

/-! ## Reading (R553) -/

/-- Key of the latched high word of the register at an offset, for an originator. -/
def latchKey (off : Nat) (o : Orig) : Nat := off * 256 + o.code.toNat

/-- A read of the 32-bit word at an offset: the low word of a 64-bit register that is read live latches its high word for the
originator, and the originator's next read of the high word returns the latched word (R553). -/
def State.busRead (s : State) (o : Orig) (off : Nat) : Nat × State :=
  if !s.mayRead o off then (0, s)
  else match findReg off with
    | none => (s.windowValue off, s)
    | some r =>
      let v := s.regValue r.spec r.off
      let k := latchKey r.off o
      if !r.high then
        (v % 2 ^ 32, if r.spec.wide && decide (r.spec.kind ≠ .snap) then
          { s with wideLatch := nset s.wideLatch none k (some (BitVec.ofNat 32 (v / 2 ^ 32))) } else s)
      else match nget s.wideLatch none k with
        | some h => (h.toNat, { s with wideLatch := nset s.wideLatch none k none })
        | none => (v / 2 ^ 32 % 2 ^ 32, s)

/-- WIDE_LOW_READ (R553). -/
def execWideLowRead (off : BitVec 25) (o : Orig) (s : State) : Out :=
  let r := s.busRead o off.toNat
  .next (r.2.answer r.1)

/-! ## Writing (R24) -/

/-- A 32-bit word written to one half of a register, as a field of an access type takes it. -/
def State.writeField (s : State) (off : Nat) (high : Bool) (v : Nat) (f : FieldSpec) : State :=
  let h := if high then 32 else 0
  let lo := max f.lsb h
  let top := min (f.lsb + f.len) (h + 32)
  if top ≤ lo then s
  else
    let x : Fld := ⟨off, f.lsb, f.len, f.reset⟩
    let w := top - lo
    let n := v / 2 ^ (lo - h) % 2 ^ w
    let old := s.get x / 2 ^ (lo - f.lsb) % 2 ^ w
    let put := fun (y : Nat) => s.set x (putBits (s.get x) (lo - f.lsb) w y)
    match f.acc with
    | .rw => put n
    | .wo => put n
    | .rwl => put n
    | .wonce => put n
    | .w1c => put (old - Nat.land old n)
    | .w1s => put (Nat.lor old n)
    | .ro => s

/-- Whether a lock covers a register (R493, R503, R507). -/
def State.lockedReg (s : State) (off : Nat) : Bool :=
  (decide (0x100040 ≤ off ∧ off < 0x1000C0) && s.on F.secLock_part_map) || (decide (off = 0x100184) && s.on F.secLock_peer)

/-- Whether a register ignores writes as things stand: CHD_PKG_ID while en (R441), ECU_CUT_SET while a cut is in progress (R486),
the pool registers (R386) and REQ_PFX_BASE (R392) while enabled. -/
def State.ignores (s : State) (off : Nat) : Bool :=
  if off = 0x600000 then s.on F.chdCfg_en
  else if off = 0x200200 then decide (s.get F.ecuCutCtl_state ≠ 0)
  else if off = 0x305000 then s.on F.reqPfxCfg_en
  else if 0x303000 ≤ off ∧ off < 0x303400 ∧ (off % 0x20 = 0 ∨ off % 0x20 = 0xC) then
    s.on (F.reqPoolPage_en ((off - 0x303000) / 0x20))
  else false

/-- Alert causes that are still present (R530). -/
def State.presentCauses (s : State) : Nat :=
  (if s.on F.ecuStat_halted then 1 else 0) + (if s.mgmt.hot then 2 else 0)

/-- What follows a register's new value; `locks`: SEC_LOCK before the write, which measurement 3 takes each time that a bit is set. -/
def State.afterWrite (s : State) (off locks : Nat) : State :=
  if off = 0x100018 then if s.lockBits = locks then s else s.extendItem 2 s.lockBits
  else if off = 0x10001C then (s.set F.ownerWritten 1).extendItem 3 (s.get F.secOwnerId_owner)
  else if off = 0x2410 then s.set F.mgtAlert_cause (Nat.lor (s.get F.mgtAlert_cause) s.presentCauses)
  else if off = 0x580020 then s.evictTrack.mapGo.tableCheck
  else if 0x608000 ≤ off ∧ off < 0x610000 then s.checkPeers.pump
  else if 0x614100 ≤ off ∧ off < 0x614140 then s.pump
  else s

/-- A write of a register that has no row of its own: by the access types of its fields, under its lock (R24, R25, R27). -/
def State.plainWrite (s : State) (o : Orig) (r : Found) (v : Lane) : State :=
  if s.lockedReg r.off || (decide (r.off = 0x10001C) && s.on F.ownerWritten) then s.violation o r.off
  else if s.ignores r.off then s
  else (r.spec.fields.foldl (fun t f => t.writeField r.off r.high v.toNat f) s).afterWrite r.off s.lockBits

/-- State of a meaning's answer. -/
def Out.state (s : State) : Out → State
  | .next t => t
  | _ => s

/-- The n-th of k instances. -/
def nth (k n : Nat) (h : 0 < k) : Fin k := ⟨n % k, Nat.mod_lt n h⟩

/-- A write of SEQ_SEC_CTL: each bit set acts (R202, R204, R210). -/
def State.secCtl (s : State) (q : Fin 32) (o : Orig) (v : Lane) : State :=
  s.guardQuad o q (quadBlock q + 0x600) fun s =>
    let a := if vbit v 31 then Out.state s (execSectionLoad q o v s) else s
    let b := if vbit v 30 then Out.state a (execHostCommit q o v a) else a
    if vbit v 29 then Out.state b (execSectionDiscard q o v b) else b

/-- A write to a register of the block of quadrant q that has a row of its own, at block offset r: none where it has none. -/
def State.quadRow (s : State) (q : Fin 32) (r : Nat) (o : Orig) (v : Lane) : Option State :=
  if 0x300 ≤ r ∧ r < 0x320 then some (Out.state s (execSlotBind q (nth 8 ((r - 0x300) / 4) (by decide)) o v s))
  else if 0x340 ≤ r ∧ r < 0x380 then
    let n := nth 8 ((r - 0x340) / 8) (by decide)
    some (if r % 8 = 4 then Out.state s (execCqPush q n o v s)
      else s.guardQuad o q (quadBlock q + r) fun s => s.modQuad q fun x => x.setSlot n { x.slot n with low := v })
  else if 0x400 ≤ r ∧ r < 0x420 then some (Out.state s (execSeqNflagWrite q (nth 8 ((r - 0x400) / 4) (by decide)) o v s))
  else if r = 0x600 then some (s.secCtl q o v)
  else if r = 0x800 then some (Out.state s (execFnInstall q o v s))
  else if 0xB00 ≤ r ∧ r < 0xB40 then some (Out.state s (execSeqMboxWrite q (nth 16 ((r - 0xB00) / 4) (by decide)) o v s))
  else if r = 0xD00 then some (Out.state s (execWheelWrite q 0 o v s))
  else if r = 0xD04 then some (Out.state s (execWheelWrite q 1 o v s))
  else if r = 0xD10 then some (s.preWrite q o v (.saveOcc q o v))
  else if r = 0x2008 then some (Out.state s (execDigRingEnable q o v s))
  else if r = 0x20004 then some (Out.state s (execSnap q o v s))
  else none

/-- The same below the quadrant blocks: management, security and containment. -/
def State.lowRow (s : State) (off : Nat) (o : Orig) (v : Lane) : Option State :=
  if off = 0x1000 then some (Out.state s (execMgtGeomWrite o v s))
  else if off = 0x2010 then some (s.guard o .pfOnly off fun s => s.pwrSet o v)
  else if off = 0x2308 then some (s.guard o .pfOnly off fun s => s.fwCtl v)
  else if off = 0x2400 then some (s.guard o .pfOnly off fun s => s.rstCtl o v)
  else if off = 0x2500 then some (Out.state s (execRecalibrate o v s))
  else if off = 0x3F00 then some (Out.state s (execAcctSnap o v s))
  else if 0x4000 ≤ off ∧ off < 0x6000 ∧ off % 0x80 = 0 then
    some (Out.state s (execCtxCfgWrite (nth 64 ((off - 0x4000) / 0x80) (by decide)) o v s))
  else if off = 0x100020 then some (Out.state s (execSvnCommit o v s))
  else if 0x1000C0 ≤ off ∧ off < 0x100140 then
    some (Out.state s (execQuadOwnerWrite (nth 32 ((off - 0x1000C0) / 4) (by decide)) o v s))
  else if 0x100140 ≤ off ∧ off < 0x100180 then
    some (Out.state s (execFarCryptWrite (nth 16 ((off - 0x100140) / 4) (by decide)) o v s))
  else if off = 0x100190 then some (Out.state s (execPeerAttest o v s))
  else if off = 0x100630 then some (Out.state s (execMeasExtend o v s))
  else if off = 0x100790 then some (s.keyCtl o v)
  else if off = 0x20000C then some (s.fenceCtl o v)
  else if off = 0x200210 then some (s.cutCtl o v)
  else none

/-- The same: the request engine. -/
def State.reqRow (s : State) (off : Nat) (o : Orig) (v : Lane) : Option State :=
  if off = 0x300018 then some (s.guard o .perOp off fun s => { s with req := { s.req with cmdLow := v } })
  else if off = 0x30001C then some (s.guard o .perOp reqCmdOff fun s => s.reqCmd o v)
  else if 0x301000 ≤ off ∧ off < 0x301400 then
    let p := nth 16 ((off - 0x301000) / 0x40) (by decide)
    if off % 0x40 = 0x10 then some (Out.state s (execReqQueueEnable p o v s.req.bad s))
    else if off % 0x40 = 0x14 then some (Out.state s (execRequestDoorbell p o v s))
    else if off % 0x40 = 0x20 then some (Out.state s (execReqCqHeadWrite p o v s.req.bad s))
    else none
  else if 0x302000 ≤ off ∧ off < 0x302400 ∧ off % 0x10 = 8 then
    some (Out.state s (execServiceInstall (nth 64 ((off - 0x302000) / 0x10) (by decide)) o v s))
  else if 0x303000 ≤ off ∧ off < 0x303400 ∧ off % 0x20 = 8 then
    some (Out.state s (execPoolEnable (nth 32 ((off - 0x303000) / 0x20) (by decide)) o v s))
  else if 0x304000 ≤ off ∧ off < 0x304800 ∧ off % 8 = 4 then
    some (Out.state s (execGroupReset (nth 256 ((off - 0x304000) / 8) (by decide)) o v s))
  else if off = 0x305008 then some (Out.state s (execPrefixEnableWrite o v s))
  else none

/-- The same: ingest, the stream engine and the chords. -/
def State.dataRow (s : State) (off : Nat) (o : Orig) (v : Lane) : Option State :=
  if 0x410000 ≤ off ∧ off < 0x414000 ∧ off % 0x40 = 0x20 then
    let b := (off - 0x410000) / 0x40
    some (s.bindOp b o v)
  else if off = 0x580010 then some (s.pageOp o v)
  else if 0x581000 ≤ off ∧ off < 0x581400 then
    let p := nth 16 ((off - 0x581000) / 0x40) (by decide)
    if off % 0x40 = 0x10 then some (Out.state s (execHqEnable p o v s))
    else if off % 0x40 = 0x14 then some (Out.state s (execHqDoorbell p o v [] s))
    else if off % 0x40 = 0x20 then some (Out.state s (execHqCheadWrite p o v s))
    else if off % 0x40 = 0x28 then some (Out.state s (execHqResume p o v s))
    else none
  else if off = 0x600004 then some (Out.state s (execChordCfgEnWrite o v s))
  else if 0x600100 ≤ off ∧ off < 0x600900 ∧ off % 0x20 = 0 then some (s.linkWrite ((off - 0x600100) / 0x20) o v)
  else if 0x604000 ≤ off ∧ off < 0x606000 ∧ off % 0x10 = 0 then
    some (Out.state s (execPrbsCheckEnable (nth 512 ((off - 0x604000) / 0x10) (by decide)) o v s))
  else if off = 0x614000 then some (s.peerWrite o v)
  else none

/-- A write to a register that has a row of its own acts as that row gives. -/
def State.rowWrite (s : State) (off : Nat) (o : Orig) (v : Lane) : Option State :=
  if 0x1000000 ≤ off then
    let q := nth 32 ((off - 0x1000000) / 0x40000) (by decide)
    s.quadRow q (off - quadBlock q) o v
  else if off < 0x300000 then s.lowRow off o v
  else if off < 0x400000 then s.reqRow off o v
  else s.dataRow off o v

/-- The buffers that are not registers of the table: SEC_EXT_DATA (R500) and SEC_KEY_BLOB (R504). -/
def State.bufferWrite (s : State) (off : Nat) (o : Orig) (v : Lane) : State :=
  if off % 4 ≠ 0 then s
  else if 0x100600 ≤ off ∧ off < 0x100630 then
    s.guard o .pfOnly off fun s =>
      { s with sec := { s.sec with extData := nset s.sec.extData 0 ((off - 0x100600) / 4) v } }
  else if 0x100700 ≤ off ∧ off < 0x100790 then
    s.guard o .perOp off fun s =>
      { s with sec := { s.sec with keyBlob := nset s.sec.keyBlob 0 ((off - 0x100700) / 4) v } }
  else s

/-- A write of a 32-bit word to a BAR0 offset. -/
def State.busWrite (s : State) (o : Orig) (off : Nat) (v : Lane) : State :=
  match findReg off with
  | none => s.bufferWrite off o v
  | some r =>
    let s1 := { s with wideLatch := nset s.wideLatch none (latchKey r.off o) none }
    match s1.rowWrite off o v with
    | some t => t
    | none =>
      if 0x1000000 ≤ off then s1.guardQuad o ((off - 0x1000000) / 0x40000) off fun t => t.plainWrite o r v
      else s1.guard o (s1.scopeOf off) off fun t => t.plainWrite o r v

/-- REGISTER_WRITE (R24 to R29, R492); a second write in the same cycle, and the order of the two (R26, R511). -/
def execRegisterWrite (off : BitVec 25) (o : Orig) (v : Lane) (also : Option (Orig × Lane)) (s : State) : Out :=
  .next <|
  match also with
  | none => s.busWrite o off.toNat v
  | some (p, w) =>
    if p = .mc then (s.busWrite p off.toNat w).busWrite o off.toNat v
    else (s.busWrite o off.toNat v).busWrite p off.toNat w

/-! ## Management messages (R517) -/

/-- A message reaches the endpoint by one of its two paths. -/
def mctpPath (p : MsgPath) : Bool := decide (p ≠ .chord)

/-- Head of a vendor-defined message: type and vendor ID (log entry 13). -/
def vdmHead : List Byte := [0x7E, 0x2A, 0x5C]

/-- MCTP_CONTROL (R517, Table 136): answered before ready too. -/
def execMctpControl (p : MsgPath) (command : Byte) (s : State) : Out :=
  .next <|
  if mctpPath p && !s.mgmt.off && !s.mgmt.resetting then
    ({ s with freeCtr := s.freeCtr + 1 } : State).send (pathCode p) 0
      ([0x00, 0x00, command] ++ Config.mctpBody command s.freeCtr)
  else s

/-- MCTP_REGISTER_READ (R517): with originator 0x01. -/
def execMctpRegisterRead (p : MsgPath) (off : BitVec 25) (s : State) : Out :=
  .next <|
  if mctpPath p && s.answering then
    let r := s.busRead .mc off.toNat
    r.2.send (pathCode p) 0 (vdmHead ++ leBytes 4 r.1)
  else s

/-- MCTP_REGISTER_WRITE (R25, R517): acts with originator 0x01. The answer carries the status of the bus where the write completed with
violation (log entry 13). -/
def execMctpRegisterWrite (p : MsgPath) (off : BitVec 25) (v : Lane) (s : State) : Out :=
  .next <|
  if mctpPath p && s.answering then
    let t := s.busWrite .mc off.toNat v
    t.send (pathCode p) 0 (vdmHead ++ if t.busViol.length = s.busViol.length then [] else [1])
  else s

/-- MCTP_LOG_READ (R517): the entry `seq` of the ring, or no entry where the ring does not hold it. -/
def execMctpLogRead (p : MsgPath) (seq : BitVec 32) (s : State) : Out :=
  .next <|
  if mctpPath p && s.answering then
    let e := nget s.log [] (seq.toNat % 4096)
    s.send (pathCode p) 0 (vdmHead ++ if e.isEmpty || decide (byteField e 0 4 ≠ seq.toNat) then [] else e)
  else s

/-- The telemetry latched at the last boundary (R510, R518, R525, R526). -/
def State.telemetry (s : State) : List Byte :=
  let rd := fun (off : Nat) => leBytes 4 (s.busRead .mc off).1
  [0x2000, 0x2004, 0x2018, 0x201C, 0x2020, 0x2028, 0x202C].flatMap rd
    ++ ((List.range 8).flatMap fun f => rd (0x2120 + f * 4)) ++ (List.range 22).flatMap fun d => rd (0x2210 + d * 4)

/-- MCTP_TELEMETRY_READ (R517). -/
def execMctpTelemetryRead (p : MsgPath) (s : State) : Out :=
  .next (if mctpPath p && s.answering then s.send (pathCode p) 0 (vdmHead ++ s.telemetry) else s)

end Sys2Proof.Machine
end

