-- ==== Sys2Proof/Machine/Units.lean ====
section
/-! DEFINITION. One firing of a micro-operation and one scalar instruction as commands of their own: ARRAY_FIRING, VEC_FIRING,
FN_FIRING, the row statistics and the instructions of Table 50, over the same units as a step's (log entry 15). -/

namespace Sys2Proof.Machine

/-! ## Firings (R148, R187 to R189) -/

/-- Whether a prism has a firing, a tile, a feed or a word in its stages. -/
def Prism.working (p : Prism) : Bool := !(p.firings.isEmpty && p.tiles.isEmpty && p.feeds.isEmpty && p.pipes.isEmpty)

/-- Run a prism's own fc from t until its activities end; items leave with the fc in which they are on their port. -/
def State.runPrism (q site : Nat) (img : List Byte) : Nat → Nat → State → State
  | 0, _, s => s
  | n + 1, t, s =>
    let x := s.quad q
    let p := x.lat.prism site
    if !p.working then s
    else
      let r := prismTick (secUop q img site) x.fnStore t p
      State.runPrism q site img n (t + 1) (s.prismApply q t site r r.p)

/-- Bound on the fc of one firing: a tile of 2^24 - 1 steps or 262,144 elements. -/
def firingFuel : Nat := 2 ^ 25

/-- Whether unit activity can start in a quadrant: a command is in force and not held (R83, R217, R218). -/
def State.runsUnits (s : State) (q : Nat) : Bool :=
  (s.quad q).committed.isSome && match (s.quad q).cur with
    | some n => (s.cmdOf q n).isSome && !s.isHeld q n
    | none => false

/-- A firing of micro-operation u in the prism at a site, from the quadrant's present fc. -/
def State.fireOne (s : State) (q site u j : Nat) (sel : Uop → Bool) : State :=
  let x := s.quad q
  let img := s.image q
  let code := secUop q img site
  let p := x.lat.prism site
  if !s.runsUnits q || !isPrism q site || !sel (code u) || p.working then s
  else
    let t := x.lat.fc
    let s1 := s.setQuad q { x with lat := x.lat.setPrism site (fire code t j (code u) x.inForce p) }
    (State.runPrism q site img firingFuel t s1).modQuad q fun y =>
      let z := y.lat.prism site
      { y with lat := y.lat.setPrism site { z with va := z.va.filter (·.till.isNone), vb := z.vb.filter (·.till.isNone) } }

/-- ARRAY_FIRING (R187). -/
def execArrayFiring (q : Fin 32) (site : BitVec 8) (u : BitVec 9) (j : BitVec 16) (s : State) : Out :=
  .next (s.fireOne q site.toNat u.toNat j.toNat fun w => Uop.kind w = 1)
/-- VEC_FIRING (R188). -/
def execVecFiring (q : Fin 32) (site : BitVec 8) (u : BitVec 9) (s : State) : Out :=
  .next (s.fireOne q site.toNat u.toNat 0 fun w => Uop.kind w = 2)
/-- FN_FIRING (R189). -/
def execFnFiring (q : Fin 32) (site : BitVec 8) (u : BitVec 9) (s : State) : Out :=
  .next (s.fireOne q site.toNat u.toNat 0 fun w => Uop.kind w = 3)
/-- ROWMAX (R148). -/
def execRowmax (q : Fin 32) (site : BitVec 8) (u : BitVec 9) (s : State) : Out :=
  .next (s.fireOne q site.toNat u.toNat 0 fun w => Uop.kind w = 4 && Uop.statOp w = 0)
/-- ROWMIN (R148). -/
def execRowmin (q : Fin 32) (site : BitVec 8) (u : BitVec 9) (s : State) : Out :=
  .next (s.fireOne q site.toNat u.toNat 0 fun w => Uop.kind w = 4 && Uop.statOp w = 1)
/-- ROWSUM (R148). -/
def execRowsum (q : Fin 32) (site : BitVec 8) (u : BitVec 9) (s : State) : Out :=
  .next (s.fireOne q site.toNat u.toNat 0 fun w => Uop.kind w = 4 && Uop.statOp w = 2)
/-- ROWSS (R148). -/
def execRowss (q : Fin 32) (site : BitVec 8) (u : BitVec 9) (s : State) : Out :=
  .next (s.fireOne q site.toNat u.toNat 0 fun w => Uop.kind w = 4 && Uop.statOp w = 3)

/-! ## Scalar instructions (Table 50) -/

/-- The 32 bits of an instruction (R193). -/
def salWord (op rd ra rb imm : Nat) : Nat := op * 2 ^ 26 + rd * 2 ^ 22 + ra * 2 ^ 18 + rb * 2 ^ 14 + imm % 2 ^ 14

/-- The scalar ALU of a sector executes one instruction in the quadrant's present fc, with all it brings about: LD has
delivered, ST has committed and SETB is in force when the command ends; a program in progress goes on after it. -/
def State.scalar (s : State) (q site i : Nat) : State :=
  let x := s.quad q
  if !s.runsUnits q || !isSector q site then s
  else
    let t := x.lat.fc
    let sec := x.lat.sector site
    let inp := (x.lat.flight.find? fun f => decide (f.due = t) && f.toUnit && decide (f.site = site) && decide (f.net = 1)).map (·.item)
    let a : STick := ⟨sec, [], 0, 0, 0, 0, [], [], [], [], [], []⟩
    let b := salEffect t x.inForce inp i a
    let done := ({ b with x := b.x.settle (t + 3) }.commits (t + 2) x.lat.clk)
    let prog := match sec.prog with | some r => salNext t i r | none => none
    s.sectorApply q site { done with x := { done.x with prog := prog } }

def execSalHalt (q : Fin 32) (site : BitVec 8) (s : State) : Out := .next (s.scalar q site.toNat (salWord 0x00 0 0 0 0))
def execSalWait (q : Fin 32) (site : BitVec 8) (imm : BitVec 14) (s : State) : Out :=
  .next (s.scalar q site.toNat (salWord 0x01 0 0 0 imm.toNat))
def execSalAdd (q : Fin 32) (site : BitVec 8) (rd ra rb : Fin 16) (s : State) : Out :=
  .next (s.scalar q site.toNat (salWord 0x02 rd ra rb 0))
def execSalSub (q : Fin 32) (site : BitVec 8) (rd ra rb : Fin 16) (s : State) : Out :=
  .next (s.scalar q site.toNat (salWord 0x03 rd ra rb 0))
def execSalAnd (q : Fin 32) (site : BitVec 8) (rd ra rb : Fin 16) (s : State) : Out :=
  .next (s.scalar q site.toNat (salWord 0x04 rd ra rb 0))
def execSalOr (q : Fin 32) (site : BitVec 8) (rd ra rb : Fin 16) (s : State) : Out :=
  .next (s.scalar q site.toNat (salWord 0x05 rd ra rb 0))
def execSalXor (q : Fin 32) (site : BitVec 8) (rd ra rb : Fin 16) (s : State) : Out :=
  .next (s.scalar q site.toNat (salWord 0x06 rd ra rb 0))
def execSalShl (q : Fin 32) (site : BitVec 8) (rd ra : Fin 16) (imm : BitVec 14) (s : State) : Out :=
  .next (s.scalar q site.toNat (salWord 0x07 rd ra 0 imm.toNat))
def execSalShr (q : Fin 32) (site : BitVec 8) (rd ra : Fin 16) (imm : BitVec 14) (s : State) : Out :=
  .next (s.scalar q site.toNat (salWord 0x08 rd ra 0 imm.toNat))
def execSalSra (q : Fin 32) (site : BitVec 8) (rd ra : Fin 16) (imm : BitVec 14) (s : State) : Out :=
  .next (s.scalar q site.toNat (salWord 0x09 rd ra 0 imm.toNat))
def execAddi (q : Fin 32) (site : BitVec 8) (rd ra : Fin 16) (imm : BitVec 14) (s : State) : Out :=
  .next (s.scalar q site.toNat (salWord 0x0A rd ra 0 imm.toNat))
def execLui (q : Fin 32) (site : BitVec 8) (rd : Fin 16) (imm : BitVec 14) (s : State) : Out :=
  .next (s.scalar q site.toNat (salWord 0x0B rd 0 0 imm.toNat))
def execRds (q : Fin 32) (site : BitVec 8) (rd : Fin 16) (s : State) : Out := .next (s.scalar q site.toNat (salWord 0x0C rd 0 0 0))
def execWrs (q : Fin 32) (site : BitVec 8) (ra : Fin 16) (s : State) : Out := .next (s.scalar q site.toNat (salWord 0x0D 0 ra 0 0))
def execWrt (q : Fin 32) (site : BitVec 8) (ra : Fin 16) (s : State) : Out := .next (s.scalar q site.toNat (salWord 0x0E 0 ra 0 0))
def execLd (q : Fin 32) (site : BitVec 8) (rd ra rb : Fin 16) (s : State) : Out :=
  .next (s.scalar q site.toNat (salWord 0x0F rd ra rb 0))
def execSt (q : Fin 32) (site : BitVec 8) (rd ra rb : Fin 16) (s : State) : Out :=
  .next (s.scalar q site.toNat (salWord 0x10 rd ra rb 0))
def execSetb (q : Fin 32) (site : BitVec 8) (ra : Fin 16) (imm : BitVec 14) (s : State) : Out :=
  .next (s.scalar q site.toNat (salWord 0x11 0 ra 0 imm.toNat))
def execRep (q : Fin 32) (site : BitVec 8) (imm : BitVec 14) (s : State) : Out :=
  .next (s.scalar q site.toNat (salWord 0x12 0 0 0 imm.toNat))

end Sys2Proof.Machine
end

