-- ==== Sys2Proof/Machine/Dispatch.lean ====
section
/-! DEFINITION. The meaning of every command: one arm per constructor of `Instr`. -/

namespace Sys2Proof.Machine

def exec (i : Instr) (s : State) : Host.Outcome State Fault Refusal :=
  match i with
  | .registerWrite off orig val also => Sys2Proof.Machine.execRegisterWrite off orig val also s
  | .wideLowRead off orig => Sys2Proof.Machine.execWideLowRead off orig s
  | .mgtGeomWrite orig val => Sys2Proof.Machine.execMgtGeomWrite orig val s
  | .snap q orig val => Sys2Proof.Machine.execSnap q orig val s
  | .snapshotLatch q => Sys2Proof.Machine.execSnapshotLatch q s
  | .seqNflagWrite q n orig val => Sys2Proof.Machine.execSeqNflagWrite q n orig val s
  | .fnInstall q orig val => Sys2Proof.Machine.execFnInstall q orig val s
  | .fnInstallComplete q => Sys2Proof.Machine.execFnInstallComplete q s
  | .wheelDecision q => Sys2Proof.Machine.execWheelDecision q s
  | .run q => Sys2Proof.Machine.execRun q s
  | .loop q => Sys2Proof.Machine.execLoop q s
  | .endStep q => Sys2Proof.Machine.execEndStep q s
  | .gateWeight q => Sys2Proof.Machine.execGateWeight q s
  | .gateStream q => Sys2Proof.Machine.execGateStream q s
  | .gateEdge q => Sys2Proof.Machine.execGateEdge q s
  | .gateReq q => Sys2Proof.Machine.execGateReq q s
  | .gateHost q => Sys2Proof.Machine.execGateHost q s
  | .recv q => Sys2Proof.Machine.execRecv q s
  | .barrier q => Sys2Proof.Machine.execBarrier q s
  | .ssw q => Sys2Proof.Machine.execSsw q s
  | .send q => Sys2Proof.Machine.execSend q s
  | .wadv q => Sys2Proof.Machine.execWadv q s
  | .dmark q => Sys2Proof.Machine.execDmark q s
  | .shrd q => Sys2Proof.Machine.execShrd q s
  | .gateHoldEnd q fc => Sys2Proof.Machine.execGateHoldEnd q fc s
  | .gateTimeout q fc => Sys2Proof.Machine.execGateTimeout q fc s
  | .arrayFiring q site uop j => Sys2Proof.Machine.execArrayFiring q site uop j s
  | .vecFiring q site uop => Sys2Proof.Machine.execVecFiring q site uop s
  | .fnFiring q site uop => Sys2Proof.Machine.execFnFiring q site uop s
  | .rowmax q site uop => Sys2Proof.Machine.execRowmax q site uop s
  | .rowmin q site uop => Sys2Proof.Machine.execRowmin q site uop s
  | .rowsum q site uop => Sys2Proof.Machine.execRowsum q site uop s
  | .rowss q site uop => Sys2Proof.Machine.execRowss q site uop s
  | .salHalt q site => Sys2Proof.Machine.execSalHalt q site s
  | .salWait q site imm => Sys2Proof.Machine.execSalWait q site imm s
  | .salAdd q site rd ra rb => Sys2Proof.Machine.execSalAdd q site rd ra rb s
  | .salSub q site rd ra rb => Sys2Proof.Machine.execSalSub q site rd ra rb s
  | .salAnd q site rd ra rb => Sys2Proof.Machine.execSalAnd q site rd ra rb s
  | .salOr q site rd ra rb => Sys2Proof.Machine.execSalOr q site rd ra rb s
  | .salXor q site rd ra rb => Sys2Proof.Machine.execSalXor q site rd ra rb s
  | .salShl q site rd ra imm => Sys2Proof.Machine.execSalShl q site rd ra imm s
  | .salShr q site rd ra imm => Sys2Proof.Machine.execSalShr q site rd ra imm s
  | .salSra q site rd ra imm => Sys2Proof.Machine.execSalSra q site rd ra imm s
  | .addi q site rd ra imm => Sys2Proof.Machine.execAddi q site rd ra imm s
  | .lui q site rd imm => Sys2Proof.Machine.execLui q site rd imm s
  | .rds q site rd => Sys2Proof.Machine.execRds q site rd s
  | .wrs q site ra => Sys2Proof.Machine.execWrs q site ra s
  | .wrt q site ra => Sys2Proof.Machine.execWrt q site ra s
  | .ld q site rd ra rb => Sys2Proof.Machine.execLd q site rd ra rb s
  | .st q site rd ra rb => Sys2Proof.Machine.execSt q site rd ra rb s
  | .setb q site ra imm => Sys2Proof.Machine.execSetb q site ra imm s
  | .rep q site imm => Sys2Proof.Machine.execRep q site imm s
  | .sectionLoad q orig val => Sys2Proof.Machine.execSectionLoad q orig val s
  | .sectionLoadComplete q => Sys2Proof.Machine.execSectionLoadComplete q s
  | .hostCommit q orig val => Sys2Proof.Machine.execHostCommit q orig val s
  | .sectionDiscard q orig val => Sys2Proof.Machine.execSectionDiscard q orig val s
  | .mapPages orig val => Sys2Proof.Machine.execMapPages orig val s
  | .mapZeroComplete page => Sys2Proof.Machine.execMapZeroComplete page s
  | .unmapPages orig val => Sys2Proof.Machine.execUnmapPages orig val s
  | .hintPages orig val => Sys2Proof.Machine.execHintPages orig val s
  | .protectPages orig val => Sys2Proof.Machine.execProtectPages orig val s
  | .migratePages orig val => Sys2Proof.Machine.execMigratePages orig val s
  | .queryPage orig val => Sys2Proof.Machine.execQueryPage orig val s
  | .pageTableDrainComplete page => Sys2Proof.Machine.execPageTableDrainComplete page s
  | .autoMigrationStart => Sys2Proof.Machine.execAutoMigrationStart s
  | .migrationCopyEnd page => Sys2Proof.Machine.execMigrationCopyEnd page s
  | .migrationAbandon page => Sys2Proof.Machine.execMigrationAbandon page s
  | .farAccessTimeout q id => Sys2Proof.Machine.execFarAccessTimeout q id s
  | .farLinkDown port => Sys2Proof.Machine.execFarLinkDown port s
  | .dcdExtentAdd port first count => Sys2Proof.Machine.execDcdExtentAdd port first count s
  | .dcdReleaseRequest port first count => Sys2Proof.Machine.execDcdReleaseRequest port first count s
  | .dcdExtentWithdraw port first count => Sys2Proof.Machine.execDcdExtentWithdraw port first count s
  | .descriptorComplete q id => Sys2Proof.Machine.execDescriptorComplete q id s
  | .hqDoorbell p orig val entries => Sys2Proof.Machine.execHqDoorbell p orig val entries s
  | .hqEnable p orig val => Sys2Proof.Machine.execHqEnable p orig val s
  | .hqDisable p orig val => Sys2Proof.Machine.execHqDisable p orig val s
  | .hqCheadWrite p orig val => Sys2Proof.Machine.execHqCheadWrite p orig val s
  | .hqEntryComplete p entry hostData hostErr => Sys2Proof.Machine.execHqEntryComplete p entry hostData hostErr s
  | .hqEntrySuspend p entry hostData pos side addr => Sys2Proof.Machine.execHqEntrySuspend p entry hostData pos side addr s
  | .hqResume p orig val => Sys2Proof.Machine.execHqResume p orig val s
  | .hqAbort p orig val => Sys2Proof.Machine.execHqAbort p orig val s
  | .hqRingError p => Sys2Proof.Machine.execHqRingError p s
  | .bindLoad b orig val => Sys2Proof.Machine.execBindLoad b orig val s
  | .bindReplace b orig val => Sys2Proof.Machine.execBindReplace b orig val s
  | .bindUnload b orig val => Sys2Proof.Machine.execBindUnload b orig val s
  | .bindCancel b orig val => Sys2Proof.Machine.execBindCancel b orig val s
  | .shardAttemptStart u => Sys2Proof.Machine.execShardAttemptStart u s
  | .shardAttemptEnd b layer shard code => Sys2Proof.Machine.execShardAttemptEnd b layer shard code s
  | .shardAttemptTimeout b layer shard => Sys2Proof.Machine.execShardAttemptTimeout b layer shard s
  | .shardDepositComplete b layer shard => Sys2Proof.Machine.execShardDepositComplete b layer shard s
  | .layerCommit b layer => Sys2Proof.Machine.execLayerCommit b layer s
  | .dst1CopyComplete b layer => Sys2Proof.Machine.execDst1CopyComplete b layer s
  | .bindDrainComplete b => Sys2Proof.Machine.execBindDrainComplete b s
  | .digestEntryWrite q hostErr => Sys2Proof.Machine.execDigestEntryWrite q hostErr s
  | .digRingEnable q orig val => Sys2Proof.Machine.execDigRingEnable q orig val s
  | .requestDoorbell p orig val => Sys2Proof.Machine.execRequestDoorbell p orig val s
  | .requestAdmit p desc stop prompt => Sys2Proof.Machine.execRequestAdmit p desc stop prompt s
  | .reqQueueEnable p orig val bad => Sys2Proof.Machine.execReqQueueEnable p orig val bad s
  | .reqQueueDisable p orig val => Sys2Proof.Machine.execReqQueueDisable p orig val s
  | .reqCqHeadWrite p orig val bad => Sys2Proof.Machine.execReqCqHeadWrite p orig val bad s
  | .serviceInstall sv orig val => Sys2Proof.Machine.execServiceInstall sv orig val s
  | .serviceRemove sv orig val => Sys2Proof.Machine.execServiceRemove sv orig val s
  | .batchPlace g reads => Sys2Proof.Machine.execBatchPlace g reads s
  | .prefillWaitExpire g reads => Sys2Proof.Machine.execPrefillWaitExpire g reads s
  | .emit g ringErr bad => Sys2Proof.Machine.execEmit g ringErr bad s
  | .deadlineScan bad => Sys2Proof.Machine.execDeadlineScan bad s
  | .reqQuarantineExpire idx => Sys2Proof.Machine.execReqQuarantineExpire idx s
  | .tokenVectorInterval p => Sys2Proof.Machine.execTokenVectorInterval p s
  | .requestCancel orig val bad => Sys2Proof.Machine.execRequestCancel orig val bad s
  | .ringHead orig val => Sys2Proof.Machine.execRingHead orig val s
  | .peek orig val => Sys2Proof.Machine.execPeek orig val s
  | .releaseHandle orig val => Sys2Proof.Machine.execReleaseHandle orig val s
  | .groupReset g orig val => Sys2Proof.Machine.execGroupReset g orig val s
  | .poolEnable k orig val => Sys2Proof.Machine.execPoolEnable k orig val s
  | .prefixEnableWrite orig val => Sys2Proof.Machine.execPrefixEnableWrite orig val s
  | .ctxCfgWrite c orig val => Sys2Proof.Machine.execCtxCfgWrite c orig val s
  | .slotBind q n orig val => Sys2Proof.Machine.execSlotBind q n orig val s
  | .cqPush q n orig val => Sys2Proof.Machine.execCqPush q n orig val s
  | .wheelWrite q w orig val => Sys2Proof.Machine.execWheelWrite q w orig val s
  | .saveOcc q orig val => Sys2Proof.Machine.execSaveOcc q orig val s
  | .restoreOcc q orig val => Sys2Proof.Machine.execRestoreOcc q orig val s
  | .swapOcc q orig val => Sys2Proof.Machine.execSwapOcc q orig val s
  | .freeArea q orig val => Sys2Proof.Machine.execFreeArea q orig val s
  | .preSwitchPoint q => Sys2Proof.Machine.execPreSwitchPoint q s
  | .preSaveComplete q code => Sys2Proof.Machine.execPreSaveComplete q code s
  | .preReloadComplete q => Sys2Proof.Machine.execPreReloadComplete q s
  | .preRestoreComplete q code => Sys2Proof.Machine.execPreRestoreComplete q code s
  | .acctSnap orig val => Sys2Proof.Machine.execAcctSnap orig val s
  | .chordCfgEnWrite orig val => Sys2Proof.Machine.execChordCfgEnWrite orig val s
  | .chordLinkEnWrite k orig val => Sys2Proof.Machine.execChordLinkEnWrite k orig val s
  | .retrain k orig val => Sys2Proof.Machine.execRetrain k orig val s
  | .chordTestSelect k orig val => Sys2Proof.Machine.execChordTestSelect k orig val s
  | .chordTrainAdvance k lanes => Sys2Proof.Machine.execChordTrainAdvance k lanes s
  | .capabilityFlit k vlo vhi pkg gen port => Sys2Proof.Machine.execCapabilityFlit k vlo vhi pkg gen port s
  | .chordTrainBoundExpire k => Sys2Proof.Machine.execChordTrainBoundExpire k s
  | .chordFailedRetrain k => Sys2Proof.Machine.execChordFailedRetrain k s
  | .chordLightLoss k lane => Sys2Proof.Machine.execChordLightLoss k lane s
  | .codewordReceive k word corrected => Sys2Proof.Machine.execCodewordReceive k word corrected s
  | .writePacket k hdr data => Sys2Proof.Machine.execWritePacket k hdr data s
  | .ackPacket k hdr => Sys2Proof.Machine.execAckPacket k hdr s
  | .nackPacket k hdr => Sys2Proof.Machine.execNackPacket k hdr s
  | .probePacket k hdr => Sys2Proof.Machine.execProbePacket k hdr s
  | .mgmtPacket k hdr data => Sys2Proof.Machine.execMgmtPacket k hdr data s
  | .portDown k hdr => Sys2Proof.Machine.execPortDown k hdr s
  | .portUp k hdr => Sys2Proof.Machine.execPortUp k hdr s
  | .transactionAckTimeout slot => Sys2Proof.Machine.execTransactionAckTimeout slot s
  | .busyResend slot => Sys2Proof.Machine.execBusyResend slot s
  | .tagSlotHoldExpire slot => Sys2Proof.Machine.execTagSlotHoldExpire slot s
  | .keptTagExpire pkg tag => Sys2Proof.Machine.execKeptTagExpire pkg tag s
  | .probeSend rim => Sys2Proof.Machine.execProbeSend rim s
  | .peerSilenceTimeout pkg => Sys2Proof.Machine.execPeerSilenceTimeout pkg s
  | .peerQuarantineExpire pkg => Sys2Proof.Machine.execPeerQuarantineExpire pkg s
  | .peerAdmit orig val => Sys2Proof.Machine.execPeerAdmit orig val s
  | .peerEvict orig val => Sys2Proof.Machine.execPeerEvict orig val s
  | .prbsCheckEnable lane orig val => Sys2Proof.Machine.execPrbsCheckEnable lane orig val s
  | .reflectometryDone k dist => Sys2Proof.Machine.execReflectometryDone k dist s
  | .fence orig val => Sys2Proof.Machine.execFence orig val s
  | .readmit orig val => Sys2Proof.Machine.execReadmit orig val s
  | .readmitSelftestComplete q pass => Sys2Proof.Machine.execReadmitSelftestComplete q pass s
  | .seamFault seam => Sys2Proof.Machine.execSeamFault seam s
  | .stackChannelFault dev ch => Sys2Proof.Machine.execStackChannelFault dev ch s
  | .stackDeviceFault dev => Sys2Proof.Machine.execStackDeviceFault dev s
  | .quadrantFault q => Sys2Proof.Machine.execQuadrantFault q s
  | .facetFault f => Sys2Proof.Machine.execFacetFault f s
  | .rimSFault => Sys2Proof.Machine.execRimSFault s
  | .packageFault cause => Sys2Proof.Machine.execPackageFault cause s
  | .sectorRowRepair q site row => Sys2Proof.Machine.execSectorRowRepair q site row s
  | .baseRowRepair f frame row => Sys2Proof.Machine.execBaseRowRepair f frame row s
  | .logCommitB => Sys2Proof.Machine.execLogCommitB s
  | .logCommitComplete copyB ok => Sys2Proof.Machine.execLogCommitComplete copyB ok s
  | .cut orig val => Sys2Proof.Machine.execCut orig val s
  | .cutRestore orig val => Sys2Proof.Machine.execCutRestore orig val s
  | .cutAbandon orig val => Sys2Proof.Machine.execCutAbandon orig val s
  | .cutAllAtGate => Sys2Proof.Machine.execCutAllAtGate s
  | .cutQuiesced => Sys2Proof.Machine.execCutQuiesced s
  | .cutWritten err => Sys2Proof.Machine.execCutWritten err s
  | .seqMboxWrite q m orig val => Sys2Proof.Machine.execSeqMboxWrite q m orig val s
  | .quadOwnerWrite q orig val => Sys2Proof.Machine.execQuadOwnerWrite q orig val s
  | .scrubComplete q => Sys2Proof.Machine.execScrubComplete q s
  | .svnCommit orig val => Sys2Proof.Machine.execSvnCommit orig val s
  | .measExtend orig val => Sys2Proof.Machine.execMeasExtend orig val s
  | .getVersion path => Sys2Proof.Machine.execGetVersion path s
  | .getCapabilities path => Sys2Proof.Machine.execGetCapabilities path s
  | .negotiateAlgorithms path asym hash => Sys2Proof.Machine.execNegotiateAlgorithms path asym hash s
  | .getDigests path => Sys2Proof.Machine.execGetDigests path s
  | .getCertificate path slot offset length => Sys2Proof.Machine.execGetCertificate path slot offset length s
  | .challenge path slot nonce => Sys2Proof.Machine.execChallenge path slot nonce s
  | .getMeasurements path index nonce => Sys2Proof.Machine.execGetMeasurements path index nonce s
  | .peerAttest orig val => Sys2Proof.Machine.execPeerAttest orig val s
  | .peerAttestComplete chainOk sigOk locked svn => Sys2Proof.Machine.execPeerAttestComplete chainOk sigOk locked svn s
  | .peerAttestTimeout => Sys2Proof.Machine.execPeerAttestTimeout s
  | .installGcmKey orig val => Sys2Proof.Machine.execInstallGcmKey orig val s
  | .installXtsKey orig val => Sys2Proof.Machine.execInstallXtsKey orig val s
  | .eraseSlot orig val => Sys2Proof.Machine.execEraseSlot orig val s
  | .installKek orig val => Sys2Proof.Machine.execInstallKek orig val s
  | .farCryptWrite p orig val => Sys2Proof.Machine.execFarCryptWrite p orig val s
  | .idcode => Sys2Proof.Machine.execIdcode s
  | .bypass => Sys2Proof.Machine.execBypass s
  | .samplePreload cells => Sys2Proof.Machine.execSamplePreload cells s
  | .extest cells => Sys2Proof.Machine.execExtest cells s
  | .clamp => Sys2Proof.Machine.execClamp s
  | .highz => Sys2Proof.Machine.execHighz s
  | .debugUnlockToken sig nonce => Sys2Proof.Machine.execDebugUnlockToken sig nonce s
  | .epochBoundary r => Sys2Proof.Machine.execEpochBoundary r s
  | .pwrSetAbsolute orig val => Sys2Proof.Machine.execPwrSetAbsolute orig val s
  | .pwrSetRelative orig val => Sys2Proof.Machine.execPwrSetRelative orig val s
  | .powerSample watts => Sys2Proof.Machine.execPowerSample watts s
  | .dutyPeriod f => Sys2Proof.Machine.execDutyPeriod f s
  | .shedAssert => Sys2Proof.Machine.execShedAssert s
  | .shedRelease => Sys2Proof.Machine.execShedRelease s
  | .throtAssert => Sys2Proof.Machine.execThrotAssert s
  | .throtRelease => Sys2Proof.Machine.execThrotRelease s
  | .thermalSample temps => Sys2Proof.Machine.execThermalSample temps s
  | .regulatorFault rail status => Sys2Proof.Machine.execRegulatorFault rail status s
  | .railOutOfWindow rail => Sys2Proof.Machine.execRailOutOfWindow rail s
  | .fwWrite orig val => Sys2Proof.Machine.execFwWrite orig val s
  | .fwWriteComplete flashOk => Sys2Proof.Machine.execFwWriteComplete flashOk s
  | .activate orig val => Sys2Proof.Machine.execActivate orig val s
  | .confirm orig val => Sys2Proof.Machine.execConfirm orig val s
  | .restart orig val => Sys2Proof.Machine.execRestart orig val s
  | .watchdogTimeout => Sys2Proof.Machine.execWatchdogTimeout s
  | .recalibrate orig val => Sys2Proof.Machine.execRecalibrate orig val s
  | .recalComplete dev ok => Sys2Proof.Machine.execRecalComplete dev ok s
  | .packageReset orig val => Sys2Proof.Machine.execPackageReset orig val s
  | .quadrantReset orig val => Sys2Proof.Machine.execQuadrantReset orig val s
  | .powerOn => Sys2Proof.Machine.execPowerOn s
  | .powerLoss => Sys2Proof.Machine.execPowerLoss s
  | .perstAssert => Sys2Proof.Machine.execPerstAssert s
  | .perstRelease => Sys2Proof.Machine.execPerstRelease s
  | .hostLinkReset => Sys2Proof.Machine.execHostLinkReset s
  | .pfFlr => Sys2Proof.Machine.execPfFlr s
  | .vfFlr v => Sys2Proof.Machine.execVfFlr v s
  | .startupStepComplete r => Sys2Proof.Machine.execStartupStepComplete r s
  | .refclkLoss clk => Sys2Proof.Machine.execRefclkLoss clk s
  | .mctpControl path command => Sys2Proof.Machine.execMctpControl path command s
  | .mctpRegisterRead path off => Sys2Proof.Machine.execMctpRegisterRead path off s
  | .mctpRegisterWrite path off val => Sys2Proof.Machine.execMctpRegisterWrite path off val s
  | .mctpLogRead path seq => Sys2Proof.Machine.execMctpLogRead path seq s
  | .mctpTelemetryRead path => Sys2Proof.Machine.execMctpTelemetryRead path s
  | .atsInvalidationRequest addr size => Sys2Proof.Machine.execAtsInvalidationRequest addr size s
  | .prbsCheckerLock lane errs kbits relock => Sys2Proof.Machine.execPrbsCheckerLock lane errs kbits relock s
  | .ingestUnitFault => Sys2Proof.Machine.execIngestUnitFault s
  | .managementResetComplete => Sys2Proof.Machine.execManagementResetComplete s
  | .startupRailTimeout rail => Sys2Proof.Machine.execStartupRailTimeout rail s

end Sys2Proof.Machine
end

