-- ==== Sys2Proof/Safety.lean ====
section
/-! DEFINITION. The terms in which statements are made: what a command keeps, what it logs, and the invariants of a state. -/

namespace Sys2Proof.Safety

open Sys2Proof Sys2Proof.Machine

/-- A command answers a next state that has a property. -/
def Next (c : Instr) (s : State) (P : State → Prop) : Prop := ∃ t, exec c s = .next t ∧ P t

/-- Register fields other than those listed hold what they held. -/
def KeepsRegs (l : List Fld) (s t : State) : Prop := ∀ k d, (∀ f ∈ l, f.key ≠ k) → nget t.regs d k = nget s.regs d k

/-- Register fields whose BAR0 offset is not one of those listed hold what they held. -/
def KeepsRegsAt (offs : Nat → Prop) (s t : State) : Prop :=
  ∀ k d, ¬ offs (k / 64) → nget t.regs d k = nget s.regs d k

/-- Every byte of the tiers reads as before but those at the keys listed. -/
def KeepsMem (at_ : Nat → Prop) (s t : State) : Prop := ∀ k, ¬ at_ k → nget t.mem 0 k = nget s.mem 0 k

/-- Every quadrant but those listed is as it was. -/
def KeepsQuads (l : List Nat) (s t : State) : Prop := ∀ q, q ∉ l → t.quad q = s.quad q

/-- The registers that logging an event writes: ECU_LOG_TAIL, ECU_LOG_DROP, ECU_STAT and MGT_ALERT (R478, R481, R530). -/
def logRegs : List Fld := [F.ecuLogTail_seq, F.ecuLogDrop_lost, F.ecuStat_last_code, F.mgtAlert_cause]

/-- The k-th entry that was posted stands in the ring under its sequence number (R480, R481). -/
def LogAt (s t : State) (k code cls : Nat) (part : Option Nat) (orig arg : Nat) : Prop :=
  let seq := (s.get F.ecuLogTail_seq + k) % 2 ^ 32
  ∃ e : Ev, e.code = code ∧ e.cls = cls ∧ e.part = part ∧ e.orig = orig ∧ e.arg = arg ∧
    nget t.log [] (seq % 4096) = e.entry seq s.boot s.now

/-- One entry was posted, and the tail has moved on (R480, R481). -/
def Logs (s t : State) (code cls : Nat) (part : Option Nat) (orig arg : Nat) : Prop :=
  LogAt s t 0 code cls part orig arg ∧ t.get F.ecuLogTail_seq = (s.get F.ecuLogTail_seq + 1) % 2 ^ 32

/-- Two entries were posted that differ in their arg alone: the second gives the address (R323). -/
def LogsTwo (s t : State) (code cls : Nat) (part : Option Nat) (orig arg addr : Nat) : Prop :=
  LogAt s t 0 code cls part orig arg ∧ LogAt s t 1 code cls part orig addr ∧
    t.get F.ecuLogTail_seq = (s.get F.ecuLogTail_seq + 2) % 2 ^ 32

/-- No entry was posted. -/
def Silent (s t : State) : Prop := t.log = s.log ∧ t.get F.ecuLogTail_seq = s.get F.ecuLogTail_seq

/-- The memory of the tiers is in its canonical form: keys strictly rising, no byte listed that an unlisted one reads as. -/
def Memory.wf (m : List Host.Cell) : Bool := nwf m 0

/-- The tiers' memory and the host memory that the package wrote are in canonical form. -/
def MemOk (s : State) : Prop := Memory.wf s.mem = true ∧ Memory.wf s.hostMem = true

/-- A sector with nothing under way from earlier fc: between two commands at a step boundary. -/
def Still (x : Sector) : Prop := x.basePend = [] ∧ x.ldPend = [] ∧ x.writes = []

/-- Nothing runs in a quadrant, no word waits for its ports, and no timed descriptor is about to complete (R158, R272, R273). -/
def Resting (x : Quad) : Prop := x.working = false ∧ x.inbox = [] ∧ ∀ d ∈ x.timed, x.timedOver d = false

/-- Quadrant q runs a command of its section, which is not held, and has a sector at a site (R83, R217, R218). -/
def HasSector (s : State) (q site : Nat) : Prop :=
  s.runsUnits q = true ∧ isSector q site = true ∧ Still ((s.quad q).lat.sector site)

/-- Live counters of a site's five registers of Table 22, and LAT_ERR_CNT. -/
def siteCounters (q site : Nat) : List Fld :=
  [F.latPArray_count q site, F.latPAnull_count q site, F.latPVec_count q site, F.latPVnull_count q site,
    F.latPFn_count q site, F.latErrCnt_corrected q, F.latErrCnt_uncorrectable q]

/-- Of the whole package only the sector at one site changes, with its counters and the items it puts on its ports. -/
def OnlySector (q site : Nat) (s t : State) : Prop :=
  t = { s with quads := t.quads } ∧ KeepsQuads [q] s t ∧
    t.quad q = { s.quad q with
      ctr := (t.quad q).ctr
      lat := { (s.quad q).lat with sectors := (t.quad q).lat.sectors, flight := (t.quad q).lat.flight } } ∧
    (∀ z, z ≠ site → (t.quad q).lat.sector z = (s.quad q).lat.sector z) ∧
    ∀ k, (∀ f ∈ siteCounters q site, f.key ≠ k) → nget (t.quad q).ctr 0 k = nget (s.quad q).ctr 0 k

/-- One scalar register takes a value and its poison; the sector's other registers, SRAM, base registers and activities stay, and it
puts no item on a port. -/
def WritesReg (q site rd : Nat) (v : Lane) (bad : Bool) (s t : State) : Prop :=
  let x := (s.quad q).lat.sector site
  let y := (t.quad q).lat.sector site
  y.reg rd = v ∧ y.regBad rd = bad ∧ (∀ r, r ≠ rd → y.reg r = x.reg r ∧ y.regBad r = x.regBad r) ∧
    y = { x with regs := y.regs, regPoison := y.regPoison, prog := y.prog } ∧
    (t.quad q).lat.flight = (s.quad q).lat.flight ∧ OnlySector q site s t

/-- An originator may write the registers of quadrant q, and the quadrant is not disabled (R7, R492). -/
def MayQuad (s : State) (o : Orig) (q : Nat) : Prop := s.active q = true ∧ s.mayWrite o (s.quadScope q) = true

/-- Quadrant q, which no locked pair holds, is at the beginning of a step of slot n's command c, and nothing runs in it. -/
def AtStep (s : State) (q n : Nat) (c : Cmd) : Prop :=
  n < 8 ∧ s.partner q = none ∧ s.stepping q = some n ∧ s.cmdOf q n = some c ∧ c.ending = none ∧ c.hold = none ∧
    (s.quad q).working = false ∧ ∀ d ∈ (s.quad q).timed, (s.quad q).timedOver d = false

/-- A step that starts no unit program. -/
def NoUnits (w : Step) : Prop := Step.uop w = 0x1FF ∧ Step.agEn w = false ∧ Step.salEn w = false

/-- A step of d fc has ended and nothing runs: the fc are counted as run, and a switch point is reached. -/
def StepOver (q d : Nat) (s t : State) : Prop :=
  (t.quad q).lat.fc = (s.quad q).lat.fc + d ∧ (t.quad q).lat.clk = (s.quad q).lat.clk + d ∧ (t.quad q).due = true ∧
    KeepsQuads [q] s t ∧
    nget (t.quad q).ctr 0 (F.latQRun_count q).key % 2 ^ 64 = (nget (s.quad q).ctr 0 (F.latQRun_count q).key + d) % 2 ^ 64

/-- Slot n goes on at step i. -/
def GoesTo (q n i : Nat) (t : State) : Prop := t.get (F.seqPc_step q n) = i ∧ (t.cmdOf q n).isSome = true

/-- Nothing of the package is under way over the chords. -/
def NoRemote (s : State) : Prop :=
  s.chord.trans = [] ∧ ∀ q i d, (s.quad q).desc i = some d → d.remote = false

end Sys2Proof.Safety
end

