-- ==== Sys2Proof/Certificates/Slice0/Obligations.lean ====
section
/-! DEFINITION. The statements for the provers. Each names in its docstring the rules it formalises or rests on. -/

open Sys2Proof Sys2Proof.Machine Sys2Proof.Safety

/-- A step runs the command at the front of the queue, and every command answers a next state in every state (98_reader.md). -/
def Obligations.StepRunsFront : Prop :=
  (∀ (c : Instr) (r : List Instr) (s : State), step { s with pending := c :: r } = exec c { s with pending := r }) ∧
  ∀ (c : Instr) (s : State), ∃ t, exec c s = .next t

/-- On an empty queue a step lets at most 1 µs pass (17_management.md; the model's choice, log entry 2). -/
def Obligations.EmptyQueueWaits : Prop :=
  ∀ s : State, s.pending = [] → ∃ t, step s = .next t ∧ t.pending = [] ∧ t.sec = s.sec ∧ t.pages = s.pages ∧
    t.fuses = s.fuses ∧ t.mgmt.flash = s.mgmt.flash ∧
    t.ticks = (if s.ticks % 25000 + 25 < 25000 then s.ticks + 25 else s.ticks) ∧
    ((∀ q, Resting (s.quad q)) → (∀ k ∈ [1, 2, 3], s.causeOn k = bit s.acct.causes k) →
      t.mem = s.mem ∧ t.hostMem = s.hostMem ∧ t.log = s.log ∧ t.regs = s.regs ∧ t.req = s.req ∧
        ∀ q, (t.quad q).committed = (s.quad q).committed ∧ (t.quad q).shadow = (s.quad q).shadow)

/-- At reset every register field holds its reset value (19_register_index.md, 17_management.md). -/
def Obligations.ResetRegisters : Prop :=
  (∀ f : Fld, State.reset.get f = f.reset) ∧ State.reset.pending = [] ∧ State.reset.mem = [] ∧ State.reset.log = [] ∧
    (∀ q, State.reset.quad q = Quad.init) ∧ State.reset.on F.mgtStartStat_ready = false ∧ State.reset.now = 0

/-- The memories of the reset state are in canonical form (07_tiers.md). -/
def Obligations.ResetMemoryCanonical : Prop :=
  MemOk State.reset

/-- Every step keeps the memories in canonical form (07_tiers.md, 08_streams.md). -/
def Obligations.StepKeepsMemoryCanonical : Prop :=
  ∀ s t : State, MemOk s → step s = .next t → MemOk t

/-- The scalar ALU computes the results of Table 50 (05_sequencer_isa.md, 02_lattice.md). -/
def Obligations.SalArithmetic : Prop :=
  ∀ (s : State) (q : Fin 32) (site : BitVec 8) (rd ra rb : Fin 16) (imm : BitVec 14), HasSector s q site.toNat →
    let x := (s.quad q).lat.sector site.toNat
    let a := x.reg ra
    let b := x.reg rb
    let pa := x.regBad ra
    let pb := x.regBad rb
    let out := fun v bad => WritesReg q site.toNat rd v bad s
    Next (.salAdd q site rd ra rb) s (out (a + b) (pa || pb)) ∧ Next (.salSub q site rd ra rb) s (out (a - b) (pa || pb)) ∧
    Next (.salAnd q site rd ra rb) s (out (a &&& b) (pa || pb)) ∧ Next (.salOr q site rd ra rb) s (out (a ||| b) (pa || pb)) ∧
    Next (.salXor q site rd ra rb) s (out (a ^^^ b) (pa || pb)) ∧
    Next (.salShl q site rd ra imm) s (out (a <<< (imm.toNat % 32)) pa) ∧
    Next (.salShr q site rd ra imm) s (out (a >>> (imm.toNat % 32)) pa) ∧
    Next (.salSra q site rd ra imm) s (out (a.sshiftRight (imm.toNat % 32)) pa) ∧
    Next (.addi q site rd ra imm) s (out (a + imm.signExtend 32) pa) ∧
    Next (.lui q site rd imm) s (out (imm.setWidth 32 <<< 18) false)

/-- LD and ST move one lane between a register and an SRAM word (05_sequencer_isa.md, 02_lattice.md). -/
def Obligations.SalMemory : Prop :=
  ∀ (s : State) (q : Fin 32) (site : BitVec 8) (rd ra rb : Fin 16), HasSector s q site.toNat →
    let x := (s.quad q).lat.sector site.toNat
    let w := (x.reg ra).toNat % 4096
    let l := (x.reg rb).toNat % 64
    Next (.ld q site rd ra rb) s (fun t =>
      let y := (t.quad q).lat.sector site.toNat
      y.reg rd = x.laneOf w l ∧ y.regBad rd = (x.isBad w || x.regBad ra || x.regBad rb) ∧
        (∀ r, r ≠ rd.val → y.reg r = x.reg r ∧ y.regBad r = x.regBad r) ∧ y.sram = x.sram ∧ y.bad = x.bad ∧
        nget (t.quad q).ctr 0 (F.latPArray_count q site.toNat).key =
          (nget (s.quad q).ctr 0 (F.latPArray_count q site.toNat).key + 1) % 2 ^ 64 ∧
        (x.corrected w = [] → x.isBad w = false → OnlySector q site.toNat s t)) ∧
    Next (.st q site rd ra rb) s (fun t =>
      let y := (t.quad q).lat.sector site.toNat
      let poison := x.regBad rd || x.regBad ra || x.regBad rb
      y.laneOf w l = x.reg rd ∧ y.laneBad w l = (if poison then some true else none) ∧
        (∀ w' l', l' < 64 → (w' ≠ w ∨ l' ≠ l) → y.laneOf w' l' = x.laneOf w' l' ∧ y.laneBad w' l' = x.laneBad w' l') ∧
        y.regs = x.regs ∧ y.regPoison = x.regPoison ∧
        nget (t.quad q).ctr 0 (F.latPAnull_count q site.toNat).key =
          (nget (s.quad q).ctr 0 (F.latPAnull_count q site.toNat).key + 1) % 2 ^ 64 ∧
        OnlySector q site.toNat s t)

/-- RDS, WRS, WRT and SETB reach the sector's networks and base registers (05_sequencer_isa.md, 02_lattice.md). -/
def Obligations.SalPorts : Prop :=
  ∀ (s : State) (q : Fin 32) (site : BitVec 8) (rd ra : Fin 16) (imm : BitVec 14), HasSector s q site.toNat →
    let x := (s.quad q).lat.sector site.toNat
    let fl := (s.quad q).lat.flight
    let now := (s.quad q).lat.fc
    let input := (fl.find? fun f => decide (f.due = now) && f.toUnit && decide (f.site = site.toNat) && decide (f.net = 1)).map
      (·.item)
    Next (.rds q site rd) s (fun t => match input with
      | some it => WritesReg q site.toNat rd (it.lane 0) it.poison s t
      | none => (t.quad q).lat.sector site.toNat = { x with prog := ((t.quad q).lat.sector site.toNat).prog } ∧
          OnlySector q site.toNat s t) ∧
    Next (.wrs q site ra) s (fun t =>
      (t.quad q).lat.flight = fl ++ [⟨now + 2, site.toNat, false, 1, 4, ⟨[x.reg ra], x.regBad ra⟩⟩] ∧
        ((t.quad q).lat.sector site.toNat).regs = x.regs ∧ OnlySector q site.toNat s t) ∧
    Next (.wrt q site ra) s (fun t =>
      (t.quad q).lat.flight = (if x.reg ra &&& 0xFF = 0 then fl
        else fl ++ [⟨now + 2, site.toNat, false, 2, 4, ⟨[x.reg ra &&& 0xFF], false⟩⟩]) ∧
        ((t.quad q).lat.sector site.toNat).regs = x.regs ∧ OnlySector q site.toNat s t) ∧
    Next (.setb q site ra imm) s (fun t =>
      let y := (t.quad q).lat.sector site.toNat
      (if imm.toNat % 2 = 0 then y.base0 = x.reg ra ∧ y.base1 = x.base1 else y.base0 = x.base0 ∧ y.base1 = x.reg ra) ∧
        (∀ g, g < 2 → y.basePoison.contains g =
          if g = imm.toNat % 2 then x.regBad ra else x.basePoison.contains g) ∧ y.regs = x.regs ∧ y.sram = x.sram ∧ (t.quad q).lat.flight = fl ∧ OnlySector q site.toNat s t)

/-- HALT, WAIT and REP steer the scalar program (05_sequencer_isa.md). -/
def Obligations.SalControl : Prop :=
  ∀ (s : State) (q : Fin 32) (site : BitVec 8) (imm : BitVec 14) (r : SalRun), HasSector s q site.toNat →
    ((s.quad q).lat.sector site.toNat).prog = some r →
    let x := (s.quad q).lat.sector site.toNat
    let now := (s.quad q).lat.fc
    let goesTo := fun (p : Option SalRun) (t : State) => (t.quad q).lat.sector site.toNat = { x with prog := p } ∧
      (t.quad q).lat.flight = (s.quad q).lat.flight ∧ OnlySector q site.toNat s t
    let n := imm.toNat / 64
    let start := imm.toNat % 64
    Next (.salHalt q site) s (goesTo none) ∧
    (1 ≤ imm.toNat → Next (.salWait q site imm) s (goesTo (some { r with pc := r.pc + 1, next := now + imm.toNat }))) ∧
    Next (.rep q site imm) s (goesTo (some (match r.rep with
      | none => if n ≤ 1 then { r with pc := r.pc + 1, next := now + 1 }
          else { r with pc := start, next := now + 1, rep := some (r.pc, n - 1) }
      | some (p, k) => if k ≤ 1 then { r with pc := r.pc + 1, next := now + 1, rep := none }
          else { r with pc := start, next := now + 1, rep := some (p, k - 1) })))

/-- A firing runs to its end inside one prism and is counted there (05_sequencer_isa.md, 02_lattice.md, 04_function_store.md). -/
def Obligations.FiringsRunOut : Prop :=
  ∀ (s : State) (q : Fin 32) (site : BitVec 8) (u : BitVec 9) (j : BitVec 16),
    s.runsUnits q = true → isPrism q site.toNat = true → ((s.quad q).lat.prism site.toNat).working = false →
    let w := secUop q (s.image q) site.toNat u.toNat
    let inner := fun (a b : Fld) (n : Nat) (t : State) =>
      (nget (t.quad q).ctr 0 a.key + nget (t.quad q).ctr 0 b.key) % 2 ^ 64 =
        (nget (s.quad q).ctr 0 a.key + nget (s.quad q).ctr 0 b.key + n) % 2 ^ 64 ∧
      ((t.quad q).lat.prism site.toNat).working = false ∧
      (∀ z, z ≠ site.toNat → (t.quad q).lat.prism z = (s.quad q).lat.prism z) ∧
      (t.quad q).lat.sectors = (s.quad q).lat.sectors ∧ KeepsQuads [q.val] s t ∧
      t = { s with quads := t.quads, regs := t.regs, log := t.log } ∧
      KeepsRegsAt (fun o => o = quadBlock q + 0x20800 + site.toNat * 4 ∨ (quadBlock q + 0x400 ≤ o ∧ o < quadBlock q + 0x420) ∨
        o ∈ logRegs.map (·.off)) s t
    let vec := inner (F.latPVec_count q site.toNat) (F.latPVnull_count q site.toNat)
    (Uop.kind w = 1 → Uop.readout w = 0x1FF →
      Next (.arrayFiring q site u j) s (inner (F.latPArray_count q site.toNat) (F.latPAnull_count q site.toNat) (Uop.nsteps w))) ∧
    (Uop.kind w = 2 → Next (.vecFiring q site u) s (vec (Uop.words w))) ∧
    (Uop.kind w = 3 → Next (.fnFiring q site u) s (vec (Uop.words w))) ∧
    (Uop.kind w = 4 → Uop.statOp w = 0 → Next (.rowmax q site u) s (vec 1)) ∧
    (Uop.kind w = 4 → Uop.statOp w = 1 → Next (.rowmin q site u) s (vec 1)) ∧
    (Uop.kind w = 4 → Uop.statOp w = 2 → Next (.rowsum q site u) s (vec 1)) ∧
    (Uop.kind w = 4 → Uop.statOp w = 3 → Next (.rowss q site u) s (vec 1))

/-- A RUN step takes its dur, whatever it starts (05_sequencer_isa.md). -/
def Obligations.RunTakesItsDuration : Prop :=
  ∀ (s : State) (q : Fin 32) (n : Nat) (c : Cmd), n < 8 → s.partner q = none → s.stepping q = some n → s.cmdOf q n = some c →
    let w := s.stepOf q n
    let i := s.get (F.seqPc_step q n)
    Step.op w = 0x01 → i + 1 < imgNsteps (s.image q) → i + 1 < 2 ^ 14 →
    Next (.run q) s (fun t => (t.quad q).lat.fc = (s.quad q).lat.fc + Step.dur w ∧
      (t.cmdOf q n = none ∨ t.get (F.seqPc_step q n) = i + 1) ∧ t.fuses = s.fuses ∧ t.sec = s.sec ∧ t.mgmt.flash = s.mgmt.flash) ∧
    (AtStep s q n c → NoUnits w → (Step.descEn w = false → Next (.run q) s (fun t => StepOver q (Step.dur w) s t ∧
        GoesTo q n (i + 1) t ∧ (t.quad q).lat.route = some (Step.route w) ∧ KeepsRegs [F.seqPc_step q n] s t ∧
        t = { s with quads := t.quads, regs := t.regs, acct := t.acct })) ∧
      ∀ k, Step.descEn w = true → (s.quad q).freeDesc = some k →
        let d := s.descBits q (Step.runDesc w)
        s.isTimed q d (isTransfer q (s.image q) w) = false →
        Next (.run q) s (fun t => StepOver q (Step.dur w) s t ∧ GoesTo q n (i + 1) t ∧
          (∃ e, (t.quad q).desc k = some e ∧ e.bits = d ∧ e.slot = n ∧ e.index = Step.runDesc w ∧ e.chan = none ∧ e.pos = 0) ∧
          KeepsRegs [F.seqPc_step q n] s t ∧ t = { s with quads := t.quads, regs := t.regs, acct := t.acct, chord := t.chord }))

/-- LOOP jumps back until its count is used up, END completes the command (05_sequencer_isa.md, 13_sharing.md). -/
def Obligations.LoopAndEnd : Prop :=
  ∀ (s : State) (q : Fin 32) (n : Nat) (c : Cmd), AtStep s q n c → NoUnits (s.stepOf q n) →
    let w := s.stepOf q n
    let i := s.get (F.seqPc_step q n)
    let total := if Step.countSrc w then s.shapeOf q n (Step.loopShreg w) else Step.count w
    let k := nget c.loops 0 (Step.level w)
    let left := (if k = 0 then total else k) - 1
    let tgt := if 0 < left then Step.target w else i + 1
    (Step.op w = 0x02 → (Step.countSrc w = true → 0 < total ∧ total ≤ Step.count w) → tgt < imgNsteps (s.image q) → tgt < 2 ^ 14 →
      Next (.loop q) s (fun t => StepOver q (Step.dur w) s t ∧ GoesTo q n tgt t ∧
        (t.cmdOf q n).map (fun d => nget d.loops 0 (Step.level w)) = some left ∧
        KeepsRegs [F.seqPc_step q n] s t ∧ t = { s with quads := t.quads, regs := t.regs, acct := t.acct })) ∧
    (Step.op w = 0x03 → s.consumerGroups q (s.image q) c = [] → s.flying q = false →
      Next (.endStep q) s (fun t => StepOver q (Step.dur w) s t ∧ t.cmdOf q n = none ∧
        t.get (F.seqCqDone_code q n) = 0 ∧ t.get (F.seqCqDone_tag q n) = c.tag % 2 ^ 16 ∧
        t.get (F.seqCqStat_done q n) = (s.get (F.seqCqStat_done q n) + 1) % 2 ^ 16 ∧ t.get (F.seqPc_active q n) = 0 ∧
        t.msix = s.msix ++ (if c.irq && s.on (F.seqSlotCtx_irq_en q n) then
          [⟨(s.slotPart q n).getD 0, s.get (F.seqSlotCtx_vector q n)⟩] else []) ∧
        KeepsRegs ([F.seqPc_active q n, F.seqPc_held q n, F.seqPc_kind q n, F.seqCqDone_code q n, F.seqCqDone_tag q n,
          F.seqCqStat_done q n] ++ (List.range 8).map fun v => F.ingWinPos_active (winEntry q n v)) s t ∧
        t = { s with quads := t.quads, regs := t.regs, acct := t.acct, msix := t.msix, ing := t.ing }))

/-- WADV, DMARK, SHRD and a local SEND do their work at the step and go on (05_sequencer_isa.md, 09_weights.md, 10_determinism.md, 08_streams.md). -/
def Obligations.DataSteps : Prop :=
  ∀ (s : State) (q : Fin 32) (n : Nat) (c : Cmd), AtStep s q n c → NoUnits (s.stepOf q n) → NoRemote s →
    let w := s.stepOf q n
    let i := s.get (F.seqPc_step q n)
    i + 1 < imgNsteps (s.image q) → i + 1 < 2 ^ 14 →
    let stepped := fun (t : State) => StepOver q (Step.dur w) s t ∧ GoesTo q n (i + 1) t
    (Step.op w = 0x11 → ∀ v, nget c.windows none (Step.window w) = some v → v.pos + Step.layers w < 2 ^ 12 →
      Next (.wadv q) s (fun t => stepped t ∧
        (((t.cmdOf q n).bind fun d => nget d.windows none (Step.window w)).map (·.pos)) = some (v.pos + Step.layers w) ∧
        t.get (F.ingWinPos_pos (winEntry q n (Step.window w))) = v.pos + Step.layers w ∧
        KeepsRegs [F.seqPc_step q n, F.ingWinPos_pos (winEntry q n (Step.window w))] s t ∧
        t = { s with quads := t.quads, regs := t.regs, acct := t.acct, ing := t.ing })) ∧
    (Step.op w = 0x12 → s.on (F.seqDigCfg_en q) = true → (s.quad q).digQueue.length < 64 →
      Next (.dmark q) s (fun t => stepped t ∧
        ((t.quad q).slot n).digD = 0 ∧ ((t.quad q).slot n).digN = 0 ∧ ((t.quad q).slot n).digPoison = false ∧
        (∃ e, (t.quad q).digQueue = (s.quad q).digQueue ++ [e] ∧
          e.bytes.take 12 = leBytes 8 ((s.quad q).slot n).digD.toNat ++ leBytes 4 ((s.quad q).slot n).digN) ∧
        (t.quad q).digSeq = ((s.quad q).digSeq + 1) % 65536 ∧
        t.get (F.seqDigStat_queued q) = (s.quad q).digQueue.length + 1 ∧
        KeepsRegs [F.seqPc_step q n, F.seqDigStat_queued q] s t ∧
        t = { s with quads := t.quads, regs := t.regs, acct := t.acct })) ∧
    (Step.op w = 0x13 → Step.src w = false →
      let x := (s.quad q).lat.sector (bits w 67 60)
      let v := (x.laneOf (bits w 59 48) (bits w 47 42)).toNat
      x.isBad (bits w 59 48) = false → Step.lo w ≤ v → v ≤ Step.hi w →
      Next (.shrd q) s (fun t => stepped t ∧ t.get (F.seqShape_value q n (Step.shreg w)) = v ∧
        KeepsRegs [F.seqPc_step q n, F.seqShape_value q n (Step.shreg w)] s t ∧
        t = { s with quads := t.quads, regs := t.regs, acct := t.acct })) ∧
    (Step.op w = 0x13 → Step.src w = true →
      let fr := Step.address w * 4 / 2 ^ 21
      let off := Step.address w * 4 % 2 ^ 21
      ∀ (sec : Section) (p : Nat × Pte), (s.quad q).committed = some sec →
        (sec.pins.find? fun p => Pte.valid p.2 && decide (Pte.unit p.2 = q / 4) && decide (Pte.frame p.2 = fr)) = some p →
        s.slotPart q n = some (Pte.part p.2) → s.wordBad (q / 4) fr off = false →
        let v := leNat ((List.range 4).map fun j => s.frameByte (q / 4) fr (off + j) (Pte.part p.2))
        Step.lo w ≤ v → v ≤ Step.hi w →
        Next (.shrd q) s (fun t => stepped t ∧ t.get (F.seqShape_value q n (Step.shreg w)) = v ∧
          KeepsRegs [F.seqPc_step q n, F.seqShape_value q n (Step.shreg w)] s t ∧
          t = { s with quads := t.quads, regs := t.regs, acct := t.acct, tierCorr := t.tierCorr })) ∧
    (Step.op w = 0x10 → Step.remote w = false → ∀ k, (s.quad q).freeDesc = some k →
      Next (.send q) s (fun t => stepped t ∧
        (∃ d, (t.quad q).desc k = some d ∧ d.slot = n ∧ d.bits = s.descBits q (Step.sendDesc w) ∧
          d.chan = some (Step.channel w) ∧ d.quad = Step.quadrant w ∧ d.remote = false) ∧
        KeepsRegs [F.seqPc_step q n] s t ∧ t = { s with quads := t.quads, regs := t.regs, acct := t.acct, chord := t.chord }))

/-- A gate whose condition is true is passed at once, with what it takes (05_sequencer_isa.md, 09_weights.md, 12_serving.md). -/
def Obligations.GatesPass : Prop :=
  ∀ (s : State) (q : Fin 32) (n : Nat) (c : Cmd), AtStep s q n c → NoUnits (s.stepOf q n) → c.passed = none →
    let w := s.stepOf q n
    let i := s.get (F.seqPc_step q n)
    i + 1 < imgNsteps (s.image q) → i + 1 < 2 ^ 14 → s.gateReady q n w c = true →
    let pass := F.seqGateStat_passes q n (Step.index w)
    let stepped := fun (t : State) => StepOver q (Step.dur w) s t ∧ GoesTo q n (i + 1) t ∧
      nget (t.quad q).ctr 0 pass.key = (nget (s.quad q).ctr 0 pass.key + 1) % 2 ^ 32
    let calm := fun (t : State) => KeepsRegs [F.seqPc_step q n] s t ∧
      t = { s with quads := t.quads, regs := t.regs, acct := t.acct }
    let gate := fun k => Step.op w = 0x08 ∧ Step.kind w = k
    (gate 1 → Next (.gateWeight q) s (fun t => stepped t ∧ calm t)) ∧
    (gate 2 → Next (.gateStream q) s (fun t => stepped t ∧ calm t)) ∧
    (let key := edgeKey (Step.boundary w) (Step.network w) (Step.link w)
     gate 3 → (s.quad q).lat.edgeOver.contains key = false → Next (.gateEdge q) s (fun t =>
      nget (t.quad q).lat.edgeQ [] key = (nget (s.quad q).lat.edgeQ [] key).drop (Step.items w) ∧
        (t.quad q).lat.fc = (s.quad q).lat.fc + Step.dur w ∧ t.fuses = s.fuses ∧ t.sec = s.sec ∧ t.pages = s.pages)) ∧
    (gate 4 → Next (.gateReq q) s (fun t => stepped t ∧
      nget (t.group (Step.group w)).counts 0 q = nget (s.group (Step.group w)).counts 0 q + 1 ∧
      (t.cmdOf q n).any (fun d => d.groups.contains (Step.group w)) = true)) ∧
    (gate 5 → Next (.gateHost q) s (fun t => stepped t ∧ t.get (F.seqMbox_value q (Step.mailbox w)) = 0 ∧
      KeepsRegs [F.seqPc_step q n, F.seqMbox_value q (Step.mailbox w)] s t ∧
      t = { s with quads := t.quads, regs := t.regs, acct := t.acct })) ∧
    (Step.op w = 0x09 → Next (.recv q) s (fun t => stepped t ∧ calm t ∧
      let k := chanKey (Step.remote w) (Step.channel w)
      nget (t.quad q).chanRcp 0 k = (nget (s.quad q).chanRcp 0 k + 1) % 65536 ∧
        ∀ j, j ≠ k → nget (t.quad q).chanRcp 0 j = nget (s.quad q).chanRcp 0 j)) ∧
    (Step.op w = 0x0A → c.groups = [] → Next (.barrier q) s (fun t => stepped t ∧ calm t ∧
      let b := s.barrierBinding q n (Step.binding w) c
      (t.cmdOf q n).map (fun d => nget d.versions 0 b) = some (s.get (F.ingBindStat_version b))))

/-- A gate whose condition is false holds the quadrant, and the hold ends by its condition or its timeout (05_sequencer_isa.md). -/
def Obligations.GateHolds : Prop :=
  ∀ (s : State) (q : Fin 32) (n : Nat) (c : Cmd) (fc : BitVec 32), n < 8 → s.partner q = none → s.stepping q = some n →
    s.cmdOf q n = some c → c.ending = none → Resting (s.quad q) → NoUnits (s.stepOf q n) →
    let w := s.stepOf q n
    let i := s.get (F.seqPc_step q n)
    let k := Step.index w
    let limit := if Step.tmo w = 0 then 0 else s.get (F.seqGateTmo_limit_us q (Step.tmo w - 1))
    (c.hold = none → c.passed = none → Step.op w = 0x08 → Step.kind w = 5 → s.gateReady q n w c = false →
      Next (.gateHost q) s (fun t => t.get (F.seqPc_held q n) = 1 ∧ t.get (F.seqPc_kind q n) = k % 16 ∧
        t.get (F.seqPc_step q n) = i ∧ (t.quad q).lat = (s.quad q).lat ∧
        (t.cmdOf q n).bind (·.hold) = some ⟨k, 0, s.timer, limit⟩ ∧ KeepsQuads [q.val] s t ∧
        KeepsRegs [F.seqPc_held q n, F.seqPc_kind q n] s t ∧ t = { s with quads := t.quads, regs := t.regs })) ∧
    (∀ h, c.hold = some h → h.kind = k → s.gateReady q n w c = true → s.gateError q n w c = none → Step.op w = 0x08 →
      (Step.kind w = 2 ∨ Step.kind w = 5) → i + 1 < imgNsteps (s.image q) → i + 1 < 2 ^ 14 → h.fc ≤ fc.toNat →
      Next (.gateHoldEnd q fc) s (fun t =>
        nget (t.quad q).ctr 0 (F.seqGateHold_held q n k).key =
          (nget (s.quad q).ctr 0 (F.seqGateHold_held q n k).key + (fc.toNat + 2 - h.fc)) % 2 ^ 64 ∧
        nget (t.quad q).ctr 0 (F.seqGateStat_passes q n k).key =
          (nget (s.quad q).ctr 0 (F.seqGateStat_passes q n k).key + 1) % 2 ^ 32 ∧
        t.get (F.seqPc_held q n) = 0 ∧ GoesTo q n (i + 1) t ∧ (t.quad q).lat.fc = (s.quad q).lat.fc + Step.dur w ∧
        (t.quad q).lat.clk = (s.quad q).lat.clk + (fc.toNat + 2 - h.fc) + Step.dur w ∧ KeepsQuads [q.val] s t ∧
        t.mem = s.mem ∧ t.log = s.log)) ∧
    (∀ h, c.hold = some h → s.gateReady q n w c = false → s.gateError q n w c = none → Step.op w = 0x08 → Step.kind w = 5 →
      Next (.gateHoldEnd q fc) s (fun t => t = s)) ∧
    (∀ h, c.hold = some h → h.fc ≤ fc.toNat → 0 < h.limit → s.shedding = false →
      (25 * h.limit ≤ s.timer - h.since ∨ h.limit * s.fcPerUs (q / 4) ≤ fc.toNat) →
      s.consumerGroups q (s.image q) c = [] → s.flying q = false →
      Next (.gateTimeout q fc) s (fun t => Logs s t 0x2060 clsR ((s.slotPart q n).or (s.owner q)) 0 (seqArg i h.kind) ∧
        t.cmdOf q n = none ∧ t.get (F.seqCqDone_code q n) = 0x2060 ∧ t.get (F.seqCqDone_tag q n) = c.tag % 2 ^ 16 ∧
        t.get (F.seqPc_held q n) = 0 ∧ KeepsQuads [q.val] s t)) ∧
    (∀ h, c.hold = some h → h.fc ≤ fc.toNat → s.shedding = true ∨ h.limit = 0 ∨
        (s.timer - h.since < 25 * h.limit ∧ fc.toNat < h.limit * s.fcPerUs (q / 4)) →
      Next (.gateTimeout q fc) s (fun t => t = s))

/-- A wheel decision gives the quadrant to the first ready slot after the position last used (13_sharing.md). -/
def Obligations.WheelGivesTheQuadrant : Prop :=
  ∀ (s : State) (q : Fin 32) (m : Nat), s.partner q = none → (s.quad q).committed.isSome = true → (s.quad q).pre = none →
    s.on (F.seqFnCtl_busy q) = false → (s.quad q).cur = some m → s.claims q = [] →
    let l := scan (s.wheelRegs q) (s.quad q).wheelLast
    let first := l.find? fun e => s.slotReady [q.val] e.2
    let given := fun (p n : Nat) (t : State) => (t.quad q).cur = some n ∧ (t.quad q).wheelLast = p ∧ (t.quad q).due = false
    ((s.quad q).due = true →
      (∀ p n, first = some (p, n) → (s.cmdOf q n).isSome = true → s.get (F.seqPc_step q n) < imgNsteps (s.image q) →
        Next (.wheelDecision q) s (fun t => given p n t ∧ (t.quad q).wheel = s.wheelRegs q ∧
          (t.cmdOf q n).map (·.passed) = some (if Step.gated (s.stepOf q n) then some false else none) ∧
          t.regs = s.regs ∧ KeepsQuads [q.val] s t ∧ t = { s with quads := t.quads })) ∧
      (∀ p n e r, first = some (p, n) → s.cmdOf q n = none → ((s.quad q).slot n).queue = e :: r → n < 8 →
        bits e 13 0 < imgNsteps (s.image q) → s.flagStop q n = false →
        (∀ w, w < 8 → s.on (F.ingWinCfg_en (winEntry q n w)) = false) →
        Next (.wheelDecision q) s (fun t => given p n t ∧ ((t.quad q).slot n).queue = r ∧
          (t.cmdOf q n).map (fun c => (c.tag, c.irq, c.hold, c.groups, c.run)) = some (bits e 47 32, bit e 31, none, [], 0) ∧
          t.get (F.seqPc_step q n) = bits e 13 0 ∧ t.get (F.seqPc_active q n) = 1 ∧
          (∀ i, i < 8 → t.get (F.seqShape_value q n i) = 0) ∧ KeepsQuads [q.val] s t ∧ t.mem = s.mem ∧ t.log = s.log)) ∧
      (∀ p n, first = none → l.find? (fun e => (s.cmdOf q e.2).isSome) = some (p, n) →
        s.get (F.seqPc_step q n) < imgNsteps (s.image q) →
        Next (.wheelDecision q) s (fun t => given p n t ∧ KeepsQuads [q.val] s t ∧ t = { s with quads := t.quads })) ∧
      (first = none → (∀ n, s.cmdOf q n = none) →
        Next (.wheelDecision q) s (fun t => (t.quad q).cur = none ∧ (t.quad q).lat.route = none ∧ KeepsQuads [q.val] s t ∧
          t = { s with quads := t.quads }))) ∧
    ((s.quad q).due = false → s.isHeld q m = true → Resting (s.quad q) →
      (∀ p n, first = some (p, n) → n ≠ m → (s.cmdOf q n).isSome = true → s.get (F.seqPc_step q n) < imgNsteps (s.image q) →
        Next (.wheelDecision q) s (fun t => given p n t ∧ s.isHeld q n = t.isHeld q n ∧ t.isHeld q m = false ∧
          t.get (F.seqPc_held q m) = 0 ∧ (t.quad q).lat.fc = (s.quad q).lat.fc ∧
          (t.quad q).lat.clk = (s.quad q).lat.clk + 2 ∧ KeepsQuads [q.val] s t ∧ t.mem = s.mem ∧ t.log = s.log)) ∧
      (∀ p, first = some (p, m) → Next (.wheelDecision q) s (fun t => t = s)) ∧
      (first = none → Next (.wheelDecision q) s (fun t => t = s)))

/-- A section is loaded into the shadow, committed and discarded (06_sections.md). -/
def Obligations.SectionLife : Prop :=
  ∀ (s : State) (q : Fin 32) (o : Orig) (v : Lane), MayQuad s o q →
    let addr := s.get (F.seqSecAddr_addr q) * 256
    let stays := fun (t : State) (c : Nat) => t.get (F.seqSecStat_shadow q) = s.get (F.seqSecStat_shadow q) ∧
      t.get (F.seqSecStat_last_refusal q) = c ∧ t.quads = s.quads
    (vbit v 31 = true → (s.quad q).scrub = none → s.pairOf q addr = none →
      Next (.sectionLoad q o v) s (fun t => match s.loadRefusal q with
        | some c => stays t c
        | none => t.get (F.seqSecStat_shadow q) = 1 ∧ t.get (F.seqSecCtl_busy q) = 1 ∧ (t.quad q).loading = some (addr, s.loadHeader q addr) ∧
            t.log = s.log ∧ KeepsQuads [q.val] s t)) ∧
    (∀ p a, vbit v 31 = true → (s.quad q).scrub = none → s.pairOf q addr = some (p, a) → p ≠ q.val → s.loadRefusal q = none →
      (∀ c, s.active p = true → s.loadRefusal p = some c → Next (.sectionLoad q o v) s (fun t => stays t c)) ∧
      (s.active p = true → s.loadRefusal p = none → s.owner p = s.owner q → Next (.sectionLoad q o v) s (fun t =>
        (∀ k ∈ [q.val, p], t.get (F.seqSecStat_shadow k) = 1 ∧ t.get (F.seqSecCtl_busy k) = 1 ∧ (t.quad k).loading.isSome = true ∧
          (t.quad k).shadow = none) ∧ t.log = s.log ∧ KeepsQuads [q.val, p] s t))) ∧
    (∀ a h, (s.quad q).loading = some (a, h) → pairIn q h = none → s.loaderOf q = none →
      (∀ i n, i < 4 → s.isHeld (q / 4 * 4 + i) n = false) →
      Next (.sectionLoadComplete q) s (fun t => KeepsQuads [q.val] s t ∧ t.mem = s.mem ∧ match s.loadCheck q a h with
        | .ok x => imgPaired x.bytes = false → (t.quad q).shadow = some x ∧ t.get (F.seqSecStat_shadow q) = 2 ∧
            t.get (F.seqSecShadowId_shadow_id q) = imgSectionId x.bytes ∧ t.log = s.log
        | .error e => (t.quad q).shadow = none ∧ t.get (F.seqSecStat_shadow q) = 3 ∧
            t.get (F.seqSecStat_last_refusal q) = e.code)) ∧
    (vbit v 30 = true → s.on (F.seqFnCtl_busy q) = false → s.get (F.seqSecStat_shadow q) = 2 → s.idle q = true →
      s.commitCheck q s.idle = none → ∀ x, (s.quad q).shadow = some x → imgPaired x.bytes = false →
      imgHasSuccessor x.bytes = false → (∀ k, (s.quad k).descs = []) →
      Next (.hostCommit q o v) s (fun t =>
        ((t.quad q).committed.map (·.bytes)) = some x.bytes ∧
        ((t.quad q).shadow.map (·.bytes)) = (s.quad q).committed.map (·.bytes) ∧
        t.get (F.seqSecStat_shadow q) = (if (s.quad q).committed.isSome then 2 else 0) ∧
        t.get (F.seqSecId_active_id q) = imgSectionId x.bytes ∧ t.get (F.seqSecStat_committed q) = 1 ∧
        (t.quad q).lat.route = none ∧ (t.quad q).lat.edgeQ = [] ∧ (t.quad q).chanArr = [] ∧ (t.quad q).chanRcp = [] ∧
        t.mem = s.mem ∧ t.log = s.log ∧ KeepsQuads [q.val] s t)) ∧
    (vbit v 29 = true → (∀ x, (s.quad q).shadow = some x → imgPaired x.bytes = false) → (s.quad q).loading = none →
      s.loaderOf q = none →
      Next (.sectionDiscard q o v) s (fun t => (t.quad q).shadow = none ∧ t.get (F.seqSecStat_shadow q) = 0 ∧
        (t.quad q).committed = (s.quad q).committed ∧ t.mem = s.mem ∧ t.log = s.log ∧ KeepsQuads [q.val] s t))

/-- SSW commits the loaded shadow at the step and goes on in the new table (05_sequencer_isa.md, 06_sections.md). -/
def Obligations.SectionSwitch : Prop :=
  ∀ (s : State) (q : Fin 32) (n : Nat) (c : Cmd) (x : Section), AtStep s q n c → NoUnits (s.stepOf q n) → c.passed = none →
    let w := s.stepOf q n
    Step.op w = 0x0B → s.gateReady q n w c = true → (s.quad q).shadow = some x →
    s.get (F.seqSecShadowId_shadow_id q) = Step.sectionId w → imgPaired x.bytes = false → imgHasSuccessor x.bytes = false →
    s.commitCheckWith q (fun p => [q.val].contains p || s.idle p) [(q.val, x.bytes)] = none → Step.entry w < imgNsteps x.bytes → 32 ≤ Step.dur w →
    (∀ k, (s.quad k).descs = []) →
    Next (.ssw q) s (fun t => ((t.quad q).committed.map (·.bytes)) = some x.bytes ∧ GoesTo q n (Step.entry w) t ∧
      t.get (F.seqSecId_active_id q) = imgSectionId x.bytes ∧ (t.quad q).lat.fc = (s.quad q).lat.fc + Step.dur w ∧
      t.mem = s.mem ∧ t.log = s.log)

/-- A function slot is installed while the quadrant is idle (04_function_store.md). The originator and the argument 0 of the entry of an
install refused because the quadrant is not idle are the model's choice (log entry 95). -/
def Obligations.FunctionInstall : Prop :=
  ∀ (s : State) (q : Fin 32) (o : Orig) (v : Lane),
    (MayQuad s o q → vbit v 31 = true → s.on (F.seqFnCtl_busy q) = false →
      Next (.fnInstall q o v) s (fun t => t.get (F.seqFnCtl_slot q) = vbits v 12 8 ∧ KeepsQuads [q.val] s t ∧ t.mem = s.mem ∧
        (if s.idle q then t.get (F.seqFnCtl_busy q) = 1 ∧ t.log = s.log ∧
            (t.quad q).fnAddr = some (s.get (F.seqFnAddr_addr q) * 512, vbits v 12 8)
          else t.get (F.seqFnCtl_status q) = 2 ∧ Logs s t 0x20F2 clsN (s.owner q) o.code.toNat 0 ∧ t.quads = s.quads))) ∧
    (∀ a k, (s.quad q).fnAddr = some (a, k) → (∀ i, i < 4 → (s.quad (q / 4 * 4 + i)).deferred = []) →
      (s.readable a 512 (s.owner q) = false → Next (.fnInstallComplete q) s (fun t => t.get (F.seqFnCtl_busy q) = 0 ∧
        (t.quad q).fnAddr = none ∧ t.get (F.seqFnCtl_status q) = 4 ∧ (t.quad q).fnStore = (s.quad q).fnStore ∧
        KeepsQuads [q.val] s t ∧ t.mem = s.mem)) ∧
      (s.readable a 512 (s.owner q) = true → Next (.fnInstallComplete q) s (fun t => t.get (F.seqFnCtl_busy q) = 0 ∧ (t.quad q).fnAddr = none ∧
        KeepsQuads [q.val] s t ∧ t.mem = s.mem ∧
        (∀ j, j ≠ k → nget (t.quad q).fnStore .initial j = nget (s.quad q).fnStore .initial j) ∧
        match fnImageBad (s.bytesAt a 512) with
        | none => nget (t.quad q).fnStore .initial k = .image (s.bytesAt a 512) ∧ t.get (F.seqFnCtl_status q) = 1 ∧ t.log = s.log
        | some j => t.get (F.seqFnCtl_status q) = 3 ∧ Logs s t 0x20F0 clsN (s.owner q) 0 (fnArg j a k) ∧
            (t.quad q).fnStore = (s.quad q).fnStore)))

/-- Digest entries go to the ring in host memory in order, and a full ring drops them (10_determinism.md). -/
def Obligations.DigestRing : Prop :=
  ∀ (s : State) (q : Fin 32) (o : Orig) (v : Lane),
    (MayQuad s o q → vbit v 31 = true → s.on (F.seqDigCfg_en q) = false →
      Next (.digRingEnable q o v) s (fun t => t.get (F.seqDigCfg_en q) = 1 ∧ t.get (F.seqDigCfg_log2n q) = vbits v 4 0 ∧
        t.get (F.seqDigTail_tail q) = 0 ∧ t.get (F.seqDigHead_head q) = 0 ∧ t.get (F.seqDigStat_dropped q) = 0 ∧
        t = { s with regs := t.regs } ∧
        KeepsRegs [F.seqDigCfg_en q, F.seqDigCfg_log2n q, F.seqDigTail_tail q, F.seqDigHead_head q, F.seqDigStat_dropped q]
          s t)) ∧
    (∀ e r, (s.quad q).digQueue = e :: r → s.on (F.seqDigCfg_en q) = true → r.length < 256 →
      let tail := s.get (F.seqDigTail_tail q)
      let n := s.digSize q
      let addr := s.get (F.seqDigBase_addr q) * 4096 + tail * 32
      Next (.digestEntryWrite q false) s (fun t => (t.quad q).digQueue = r ∧ t.get (F.seqDigStat_queued q) = r.length ∧
        t.mem = s.mem ∧ t.log = s.log ∧ KeepsQuads [q.val] s t ∧
        (if (tail + 1) % n = s.get (F.seqDigHead_head q) % n then
            t.get (F.seqDigStat_dropped q) = min (s.get (F.seqDigStat_dropped q) + 1) 0xFFFF ∧ t.hostMem = s.hostMem ∧
              t.get (F.seqDigTail_tail q) = tail
          else t.get (F.seqDigTail_tail q) = (tail + 1) % n ∧
            (∀ i, i < e.bytes.length → nget t.hostMem 0 (addr + i) = e.bytes.getD i 0) ∧
            ∀ a, (a < addr ∨ addr + e.bytes.length ≤ a) → nget t.hostMem 0 a = nget s.hostMem 0 a)))

/-- A register without a row of its own takes a write by the access types of its fields (00_scope.md, 05_sequencer_isa.md, 03_arithmetic.md, 16_security.md). -/
def Obligations.RegisterWriteRules : Prop :=
  ∀ (s : State) (o : Orig) (v : Lane), isPf o = true →
    (∀ q : Fin 32, s.active q = true →
      Next (.registerWrite (BitVec.ofNat 25 (quadBlock q + 0xA04)) o v none) s (fun t =>
        t.get (F.seqGateTmo_limit_us q 0) = v.toNat % 2 ^ 20 ∧ KeepsRegs [F.seqGateTmo_limit_us q 0] s t ∧
        t = { s with regs := t.regs, wideLatch := t.wideLatch }) ∧
      ∀ site : Fin 132, s.get (F.latNflag_flags q site) < 32 →
      Next (.registerWrite (BitVec.ofNat 25 (quadBlock q + 0x20800 + site * 4)) o v none) s (fun t =>
        (∀ i, i < 5 → bit (t.get (F.latNflag_flags q site)) i = (bit (s.get (F.latNflag_flags q site)) i && !vbit v i)) ∧
        KeepsRegs [F.latNflag_flags q site] s t ∧ t = { s with regs := t.regs, wideLatch := t.wideLatch })) ∧
    Next (.registerWrite 0x4 o v none) s (fun t => t = { s with wideLatch := t.wideLatch }) ∧
    Next (.registerWrite 0x100018 o v none) s (fun t =>
      (∀ i, i < 5 → bit t.lockBits i = (bit s.lockBits i || vbit v i)) ∧ t.log = s.log ∧ t.mem = s.mem ∧ t.quads = s.quads ∧
        KeepsRegsAt (fun off => off = 0x100018) s t) ∧
    (s.on F.secLock_peer = true → Next (.registerWrite 0x100184 o v none) s (fun t =>
      t.get F.secPeerMinsvn_min = s.get F.secPeerMinsvn_min ∧ Logs s t 0xB0A1 clsN none o.code.toNat 0x100184 ∧
        t.get F.secViol_count = min (s.get F.secViol_count + 1) 0xFFFF ∧ t.get F.secViol_originator = o.code.toNat ∧
        t.get F.secViolAddr_addr = 0x100184 ∧ t.busViol = s.busViol ++ [(o.code.toNat, 0x100184)])) ∧
    (s.on F.ownerWritten = true → Next (.registerWrite 0x10001C o v none) s (fun t =>
      t.get F.secOwnerId_owner = s.get F.secOwnerId_owner ∧ Logs s t 0xB0A1 clsN none o.code.toNat 0x10001C ∧
        t.get F.secViol_count = min (s.get F.secViol_count + 1) 0xFFFF ∧ t.sec = s.sec ∧
        t.busViol = s.busViol ++ [(o.code.toNat, 0x10001C)])) ∧
    (∀ off, findReg off.toNat = none → ¬ (0x100600 ≤ off.toNat ∧ off.toNat < 0x100790) →
      Next (.registerWrite off o v none) s (fun t => t = s)) ∧
    (∀ (q : Fin 32) (r : Nat), r < 0x40000 → s.active q = false →
      Next (.registerWrite (BitVec.ofNat 25 (quadBlock q + r)) o v none) s (fun t => t = { s with wideLatch := t.wideLatch }))

/-- A register write that the security block does not permit is dropped whole and logged (16_security.md). -/
def Obligations.DeniedWriteDropped : Prop :=
  ∀ (s : State) (o : Orig) (off : BitVec 25) (v : Lane) (r : Found), off.toNat < 0x1000000 → findReg off.toNat = some r →
    s.mayWrite o (s.scopeOf off.toNat) = false → ¬ (0x4000 ≤ off.toNat ∧ off.toNat < 0x6000) →
    Next (.registerWrite off o v none) s (fun t => Logs s t 0xB0B0 clsN (s.onlyPart o) o.code.toNat off.toNat ∧
      KeepsRegs logRegs s t ∧ t = { s with regs := t.regs, log := t.log, wideLatch := t.wideLatch })

/-- A read of a low word latches the high word for its originator (19_register_index.md, 16_security.md). -/
def Obligations.WideReads : Prop :=
  (∀ (s : State) (o : Orig) (off : BitVec 25), Next (.wideLowRead off o) s (fun t =>
    t.readData = BitVec.ofNat 64 (s.busRead o off.toNat).1 ∧ t = { s with readData := t.readData, wideLatch := t.wideLatch })) ∧
  (∀ (s : State) (o : Orig) (off : BitVec 25) (r : Found), s.mayRead o off.toNat = true → findReg off.toNat = some r →
    r.high = false → r.spec.wide = true → r.spec.kind ≠ .snap → Next (.wideLowRead off o) s (fun t =>
      t.readData.toNat = s.regValue r.spec r.off % 2 ^ 32 ∧
      nget t.wideLatch none (latchKey r.off o) = some (BitVec.ofNat 32 (s.regValue r.spec r.off / 2 ^ 32)))) ∧
  (∀ (s : State) (o : Orig), isPf o = true →
    Next (.wideLowRead 0x2028 o) s (fun t => t.readData.toNat = s.get F.mgtEnergy_uj % 2 ^ 32 ∧
      t = { s with readData := t.readData, wideLatch := t.wideLatch } ∧
      ∀ u, Next (.wideLowRead 0x202C o) (t.set F.mgtEnergy_uj u) (fun w =>
        w.readData.toNat = s.get F.mgtEnergy_uj / 2 ^ 32 % 2 ^ 32))) ∧
  (∀ (s : State) (o : Orig) (off : BitVec 25), s.mayRead o off.toNat = false →
    Next (.wideLowRead off o) s (fun t => t.readData = 0 ∧ t = { s with readData := 0 }))

/-- The MCTP endpoint answers on its two paths (17_management.md, 18_package.md). -/
def Obligations.ManagementMessages : Prop :=
  ∀ (s : State) (p : MsgPath) (off : BitVec 25) (v : Lane) (seq : BitVec 32) (k : Byte), p ≠ .chord →
    let one := fun (t : State) (b : List Byte) => t.sent = s.sent ++ [⟨pathCode p, 0, b⟩]
    (s.answering = true →
      Next (.mctpRegisterRead p off) s (fun t => one t (vdmHead ++ leBytes 4 (s.busRead .mc off.toNat).1) ∧
        t = { s with sent := t.sent, wideLatch := t.wideLatch }) ∧
      Next (.mctpRegisterWrite p off v) s (fun t => ∃ u, Next (.registerWrite off .mc v none) s (fun w => w = u) ∧
        t = { u with sent := u.sent ++ [⟨pathCode p, 0,
          vdmHead ++ if u.busViol.length = s.busViol.length then [] else [1]⟩] }) ∧
      (byteField (nget s.log [] (seq.toNat % 4096)) 0 4 = seq.toNat → nget s.log [] (seq.toNat % 4096) ≠ [] →
        Next (.mctpLogRead p seq) s (fun t => one t (vdmHead ++ nget s.log [] (seq.toNat % 4096)) ∧
          t = { s with sent := t.sent })) ∧
      Next (.mctpTelemetryRead p) s (fun t => one t (vdmHead ++ s.telemetry) ∧ t = { s with sent := t.sent })) ∧
    (s.mgmt.off = false → s.mgmt.resetting = false → Next (.mctpControl p k) s (fun t =>
      ∃ body, one t ([0x00, 0x00, k] ++ body) ∧ t = { s with sent := t.sent, freeCtr := t.freeCtr })) ∧
    (s.mgmt.resetting = true → Next (.mctpControl p k) s (fun t => t = s) ∧ Next (.mctpRegisterRead p off) s (fun t => t = s) ∧
      Next (.mctpRegisterWrite p off v) s (fun t => t = s) ∧ Next (.mctpTelemetryRead p) s (fun t => t = s))

/-- MGT_GEOM takes a geometry that the package can form, until it is locked (10_determinism.md, 00_scope.md). -/
def Obligations.GeometryWrite : Prop :=
  ∀ (s : State) (o : Orig) (v : Lane), isPf o = true →
    let g := vbits v 7 0
    Next (.mgtGeomWrite o v) s (fun t => t = { s with regs := t.regs, log := t.log, busViol := t.busViol } ∧
      t.busViol = s.busViol ++ (if s.on F.mgtGeom_locked then [(o.code.toNat, 0x1000)] else []) ∧
      if s.on F.mgtGeom_locked then
        t.get F.mgtGeom_geom = s.get F.mgtGeom_geom ∧ Logs s t 0xB0A1 clsN none o.code.toNat 0x1000 ∧
          t.get F.secViol_count = min (s.get F.secViol_count + 1) 0xFFFF
      else if g ∈ [0, 0x18, 0x1C, 0x20] ∧ g ≤ s.activeCount ∧ ¬ (vbit v 31 = true ∧ g = 0) then
        t.get F.mgtGeom_geom = g ∧ t.on F.mgtGeom_locked = vbit v 31 ∧ t.log = s.log ∧
          KeepsRegs [F.mgtGeom_geom, F.mgtGeom_locked] s t
      else t.get F.mgtGeom_geom = s.get F.mgtGeom_geom ∧ Logs s t 0xC0A0 clsN none o.code.toNat 0 ∧ KeepsRegs logRegs s t)

/-- A snapshot copies every counter of the quadrant at once; flag writes clear flags (02_lattice.md, 03_arithmetic.md). -/
def Obligations.SnapshotsAndFlags : Prop :=
  ∀ (s : State) (q : Fin 32) (n : Fin 8) (o : Orig) (v : Lane),
    (MayQuad s o q → vbit v 0 = true → Next (.snap q o v) s (fun t => t.get (F.latSnapCtl_busy q) = 1 ∧ t.get (F.latSnapCtl_snap q) = 1 ∧
      (t.quad q).snapClear = ((s.quad q).snapClear || vbit v 1) ∧ (t.quad q).ctr = (s.quad q).ctr ∧ KeepsQuads [q.val] s t ∧
      KeepsRegs [F.latSnapCtl_busy q, F.latSnapCtl_snap q] s t ∧ t = { s with quads := t.quads, regs := t.regs })) ∧
    (s.on (F.latSnapCtl_busy q) = true → Next (.snapshotLatch q) s (fun t =>
      (t.quad q).snap = (s.quad q).ctr ∧ (t.quad q).ctr = (if (s.quad q).snapClear then [] else (s.quad q).ctr) ∧
      (t.quad q).snapClear = false ∧ t.get (F.latSnapCtl_busy q) = 0 ∧ t.get (F.latSnapCtl_snap q) = 0 ∧
      t.get (F.latSnapCtl_snap_seq q) = (s.get (F.latSnapCtl_snap_seq q) + 1) % 2 ^ 16 ∧ KeepsQuads [q.val] s t ∧
      t = { s with quads := t.quads, regs := t.regs })) ∧
    (MayQuad s o q → s.get (F.seqNflag_flags q n) < 32 → (s.cmdOf q n = none) →
      Next (.seqNflagWrite q n o v) s (fun t =>
        (∀ i, i < 5 → bit (t.get (F.seqNflag_flags q n)) i = (bit (s.get (F.seqNflag_flags q n)) i && !vbit v i)) ∧
        t.get (F.seqNflag_stop q n) = vbits v 20 16 ∧
        t.get (F.seqNflag_first_site q n) = (if t.get (F.seqNflag_flags q n) = 0 then 0xFF else s.get (F.seqNflag_first_site q n)) ∧
        KeepsRegs [F.seqNflag_flags q n, F.seqNflag_stop q n, F.seqNflag_first_site q n] s t ∧ t = { s with regs := t.regs }))

/-- Contexts are configured, bound to slots and given commands (13_sharing.md). -/
def Obligations.ContextsAndSlots : Prop :=
  ∀ (s : State) (q : Fin 32) (n : Fin 8) (c : Fin 64) (w : Fin 2) (o : Orig) (v : Lane),
    (s.mayWrite o (.part (some (s.get (F.mgtCtxCfg_part c)))) = true → s.on (F.mgtCtxCfg_en c) = false → vbit v 31 = true →
      Next (.ctxCfgWrite c o v) s (fun t => t.get (F.mgtCtxCfg_en c) = 1 ∧ t.get (F.mgtCtxCfg_part c) = vbits v 19 16 ∧
        t.get (F.mgtCtxCfg_ended c) = 0 ∧ t.get (F.mgtCtxCfg_code c) = 0 ∧ t.get (F.mgtCtxRun_fc c) = 0 ∧
        (∀ k, k < 16 → nget t.acct.live 0 (c * 16 + k) = 0) ∧ t = { s with regs := t.regs, acct := t.acct })) ∧
    (MayQuad s o q → (s.quad q).scrub = none → vbit v 31 = true → s.bindRefused q n o true (vbits v 5 0) = false →
      s.on (F.seqSlotCtx_bound q n) = false →
      Next (.slotBind q n o v) s (fun t => t.ctxOf q n = some (vbits v 5 0) ∧ t.get (F.seqSlotCtx_vector q n) = vbits v 20 16 ∧
        t.get (F.seqNflag_flags q n) = 0 ∧ t.get (F.seqNflag_stop q n) = 0 ∧ t.get (F.seqNflag_first_site q n) = 0xFF ∧
        t = { s with regs := t.regs } ∧
        KeepsRegs [F.seqSlotCtx_bound q n, F.seqSlotCtx_irq_en q n, F.seqSlotCtx_vector q n, F.seqSlotCtx_ctx q n,
          F.seqNflag_flags q n, F.seqNflag_stop q n, F.seqNflag_first_site q n] s t)) ∧
    (∀ d, MayQuad s o q → s.ctxOf q n = some d → s.on (F.mgtCtxCfg_ended d) = false →
      let sl := (s.quad q).slot n
      Next (.cqPush q n o v) s (fun t => KeepsQuads [q.val] s t ∧
        if sl.queue.length < 16 then
          ((t.quad q).slot n).queue = sl.queue ++ [v.toNat % 65536 * 2 ^ 32 + sl.low.toNat] ∧
            t.get (F.seqCqStat_queued q n) = sl.queue.length + 1 ∧ ((t.quad q).slot n).cmd = sl.cmd ∧
            t = { s with quads := t.quads, regs := t.regs }
        else t.get (F.seqCqStat_overflow q n) = 1 ∧ t.quads = s.quads ∧
          Logs s t 0x20A0 clsN (some (s.get (F.mgtCtxCfg_part d))) o.code.toNat (v.toNat % 65536))) ∧
    (MayQuad s o q → Next (.wheelWrite q w o v) s (fun t =>
      t.get (if w = 0 then F.seqWheel0_pos0_7 q else F.seqWheel1_pos8_15 q) = v.toNat ∧
      t.get (if w = 0 then F.seqWheel1_pos8_15 q else F.seqWheel0_pos0_7 q) =
        s.get (if w = 0 then F.seqWheel1_pos8_15 q else F.seqWheel0_pos0_7 q) ∧
      (if (List.range 8).any (fun p => bit (t.get (F.seqWheel0_pos0_7 q)) (4 * p + 3) ||
          bit (t.get (F.seqWheel1_pos8_15 q)) (4 * p + 3)) = true then t.log = s.log
        else Logs s t 0x20A6 clsN (s.owner q) o.code.toNat 0) ∧ t = { s with regs := t.regs, log := t.log })) ∧
    (isPf o = true → vbit v 0 = true → Next (.acctSnap o v) s (fun t => t.get F.mgtAcctCtl_busy = 1 ∧
      t.acct = { s.acct with clear := s.acct.clear || vbit v 1 } ∧ KeepsRegs [F.mgtAcctCtl_busy] s t ∧
      t = { s with regs := t.regs, acct := t.acct }))

/-- SAVE, RESTORE, SWAP and FREE are accepted into their phases (13_sharing.md). -/
def Obligations.PreemptionOperations : Prop :=
  ∀ (s : State) (q : Fin 32) (o : Orig) (v : Lane) (op : Nat), MayQuad s o q → (s.quad q).scrub = none →
    s.on (F.seqPreStat_busy q) = false → vbit v 31 = true → vbits v 11 8 = op →
    let sa := vbits v 6 4
    let ra := vbits v 2 0
    s.preQuads q op sa ra = [q.val] → s.preRefusal o op sa ra [q.val] = 0 →
    let begun := fun (ph : Nat) (t : State) => t.get (F.seqPreStat_busy q) = 1 ∧ t.get (F.seqPreStat_phase q) = ph ∧
      t.get (F.seqPreStat_status q) = 0 ∧ (t.quad q).pre = some ⟨op, sa, ra, none, 0⟩ ∧ KeepsQuads [q.val] s t ∧ t.mem = s.mem ∧
      t.log = s.log
    (op = 1 → Next (.saveOcc q o v) s (begun 1)) ∧
    (op = 3 → Next (.swapOcc q o v) s (begun 1)) ∧
    (op = 2 → (s.area q ra).isSome = true → Next (.restoreOcc q o v) s (fun t => begun 4 t ∧ t.get (F.seqPreArea_state q ra) = 3 ∧
      t.owner q = (s.area q ra).map (fun x => x.part % 16))) ∧
    (op = 4 → (s.area q sa).isSome = true → (∀ k, (s.quad k).descs = []) → Next (.freeArea q o v) s (fun t => t.area q sa = none ∧
      t.get (F.seqPreArea_state q sa) = 0 ∧ t.get (F.seqPreStat_status q) = 1 ∧ t.get (F.seqPreStat_busy q) = 0 ∧
      KeepsQuads [q.val] s t ∧ t.mem = s.mem))

/-- An occupant is stopped, saved, and later brought back as it was (13_sharing.md). -/
def Obligations.PreemptionPhases : Prop :=
  ∀ (s : State) (q : Fin 32) (p : PreOp), (s.quad q).pre = some p → p.mate = none →
    (s.get (F.seqPreStat_phase q) = 1 → (s.quad q).working = false → (s.quad q).digQueue = [] → (s.quad q).inbox = [] →
      (s.quad q).cur = none → s.chord.trans = [] → (∀ n, s.isHeld q n = false) →
      Next (.preSwitchPoint q) s (fun t => t.get (F.seqPreStat_phase q) = 3 ∧ t.get (F.seqPreArea_state q p.saveArea) = 1 ∧
        (t.quad q).cur = none ∧ (∀ i d, (t.quad q).desc i = some d → d.suspended = true) ∧
        (t.quad q).lat = (s.quad q).lat ∧ (t.quad q).slots = (s.quad q).slots ∧ t.mem = s.mem ∧ KeepsQuads [q.val] s t)) ∧
    (∀ sec, s.get (F.seqPreStat_phase q) = 3 → p.op = 1 → s.flying q = false → (s.quad q).committed = some sec →
      Next (.preSaveComplete q 0) s (fun t =>
        (∃ x, t.area q p.saveArea = some x ∧ x.sectionOf = sec ∧ x.lat = (s.quad q).lat ∧ x.slots = (s.quad q).slots ∧ x.timed = (s.quad q).timed ∧
          x.chanArr = (s.quad q).chanArr ∧ x.chanRcp = (s.quad q).chanRcp ∧ x.part = (s.owner q).getD 0) ∧
        (t.quad q).committed = none ∧ t.get (F.seqSecStat_committed q) = 0 ∧ t.get (F.seqPreArea_state q p.saveArea) = 2 ∧
        t.get (F.seqPreStat_busy q) = 0 ∧ t.get (F.seqPreStat_status q) = 1 ∧ t.mem = s.mem ∧ KeepsQuads [q.val] s t)) ∧
    (∀ x y, s.get (F.seqPreStat_phase q) = 4 → s.area q p.restoreArea = some x → s.reload q x = .ok y →
      s.on (F.seqFnCtl_busy q) = false → (s.stageArea p.restoreArea q).commitCheck q (fun _ => true) = none →
      Next (.preReloadComplete q) s (fun t => ((t.quad q).committed.map (·.bytes)) = some x.sectionOf.bytes ∧
        t.get (F.seqPreStat_phase q) = 5 ∧ t.get (F.seqSecStat_committed q) = 1 ∧
        t.get (F.seqSecId_active_id q) = imgSectionId x.sectionOf.bytes ∧ t.mem = s.mem ∧ KeepsQuads [q.val] s t)) ∧
    (∀ x, s.get (F.seqPreStat_phase q) = 5 → s.area q p.restoreArea = some x →
      (∀ n, n < 8 → s.on (F.mgtCtxCfg_ended (nget x.regs 0 (F.seqSlotCtx_ctx q n).key % 64)) = false) →
      Next (.preRestoreComplete q 0) s (fun t => (t.quad q).slots = x.slots ∧ (t.quad q).timed = x.timed ∧ (t.quad q).chanArr = x.chanArr ∧
        (t.quad q).chanRcp = x.chanRcp ∧ t.area q p.restoreArea = none ∧ t.get (F.seqPreArea_state q p.restoreArea) = 0 ∧
        t.get (F.seqPreStat_status q) = 1 ∧ t.get (F.seqPreStat_busy q) = 0 ∧ (t.quad q).pre = none ∧ t.mem = s.mem ∧
        KeepsQuads [q.val] s t))

/-- Host queues start empty, stop, and take new heads and tails (08_streams.md). -/
def Obligations.HostQueueControl : Prop :=
  ∀ (s : State) (p : Fin 16) (o : Orig) (v : Lane),
    let idle := s.get (F.strHqStat_state p) = 1 ∧ s.on (F.strHqCfg_en p) = true ∧ s.hq p = Hq.init ∧
      s.get (F.strHqHead_head p) = s.get (F.strHqTail_tail p)
    let frame := fun (t : State) => t = { s with regs := t.regs, hqs := t.hqs } ∧ (∀ k, k ≠ p.val → t.hq k = s.hq k) ∧
      KeepsRegsAt (fun a => 0x581000 + p * 0x40 ≤ a ∧ a < 0x581040 + p * 0x40) s t
    (s.mayWrite o (.part (some p)) = true →
      (vbit v 31 = true → s.on (F.strHqCfg_en p) = false → s.get (F.strHqStat_state p) = 0 →
        Next (.hqEnable p o v) s (fun t => frame t ∧ t.get (F.strHqHead_head p) = 0 ∧ t.get (F.strHqTail_tail p) = 0 ∧
          t.get (F.strHqCtail_ctail p) = 0 ∧ t.get (F.strHqChead_chead p) = 0 ∧ t.get (F.strHqStat_state p) = 1 ∧
          t.on (F.strHqCfg_en p) = true ∧ t.get (F.strHqCfg_log2n p) = vbits v 4 0 ∧
          t.get (F.strHqCfg_vector p) = vbits v 20 16 ∧ t.hq p = Hq.init)) ∧
      (idle → vbit v 31 = false → Next (.hqDisable p o v) s (fun t => frame t ∧ t.on (F.strHqCfg_en p) = false ∧
        t.get (F.strHqStat_state p) = 0 ∧ t.hq p = Hq.init)) ∧
      (∀ d : BitVec 1024, idle → descOk true 0 [] d.toNat = true →
        let tail := s.get (F.strHqTail_tail p)
        tail < s.hqSize p → vbits v 15 0 = (tail + 1) % s.hqSize p → s.hqFull p = false →
        Next (.hqDoorbell p o v [d]) s (fun t => frame t ∧ t.get (F.strHqTail_tail p) = (tail + 1) % s.hqSize p ∧
          t.get (F.strHqHead_head p) = (tail + 1) % s.hqSize p ∧
          (t.hq p).act = [⟨tail, d.toNat, 0, 0, false, 0, 0⟩] ∧ (t.hq p).subm = [])) ∧
      (idle → Next (.hqCheadWrite p o v) s (fun t => frame t ∧ t.get (F.strHqChead_chead p) = vbits v 15 0 ∧
        KeepsRegs [F.strHqChead_chead p] s t))) ∧
    ((s.get (F.strHqStat_state p) = 1 ∨ s.get (F.strHqStat_state p) = 2) → Next (.hqRingError p) s (fun t =>
      t.get (F.strHqStat_state p) = 3 ∧ t.get (F.strHqStat_code p) = 0x603C ∧ Logs s t 0x603C clsN (some p) 0 0 ∧
      t = { s with regs := t.regs, log := t.log } ∧
      KeepsRegs ([F.strHqStat_state p, F.strHqStat_code p] ++ logRegs) s t))

/-- Host queue entries complete, suspend, resume and abort (08_streams.md). -/
def Obligations.HostQueueEntries : Prop :=
  ∀ (s : State) (p : Fin 16) (o : Orig) (v : Lane) (e : HqEntry) (data : List Byte), s.on (F.strHqCfg_en p) = true →
    s.get (F.strHqHead_head p) = s.get (F.strHqTail_tail p) → (s.hq p).act = [e] → e.idx < 65536 → s.hqFull p = false →
    let st := s.get (F.strHqStat_state p)
    let tail := s.get (F.strHqCtail_ctail p)
    let done := fun (x : HqEntry) (t : State) => (t.hq p).act = [] ∧
      t.get (F.strHqCtail_ctail p) = (tail + 1) % s.hqSize p ∧
      ∀ i, i < 32 → nget t.hostMem 0 (s.get (F.strHqCplBase_addr p) * 4096 + tail * 32 + i) = x.record.getD i 0
    (st = 1 → e.phase = 0 → (s.hqRun p e (descPositions e.bits) data false).2.2 = none → descDstSpace e.bits ≠ 3 →
      Next (.hqEntryComplete p (BitVec.ofNat 16 e.idx) data false) s (fun t =>
        done { e with phase := 2, pos := descPositions e.bits, code := 0 } t ∧ KeepsQuads [0] s t ∧ t.sec = s.sec)) ∧
    (∀ (prog : BitVec 120) (side : Bool) (addr : Dword), st = 1 → e.phase = 0 → (s.hq p).susp = [] →
      descPosition e.bits prog.toNat = e.pos → e.pos < descPositions e.bits →
      (if side then descDstSpace e.bits else descSrcSpace e.bits) = 3 →
      Next (.hqEntrySuspend p (BitVec.ofNat 16 e.idx) data prog side addr) s (fun t => t.get (F.strHqStat_state p) = 2 ∧
        t.get (F.strHqFault_addr p) = addr.toNat ∧ t.on (F.strHqFinfo_side p) = side ∧ t.get (F.strHqFinfo_entry p) = e.idx ∧
        t.get (F.strHqStat_code p) = 0x6038 ∧ Logs s t 0x6038 clsN (some p) 0 addr.toNat ∧
        (t.hq p).act = [{ e with phase := 1, side := side, addr := addr.toNat }] ∧ (t.hq p).susp = [e.idx] ∧
        t.mem = s.mem ∧ t.quads = s.quads)) ∧
    (s.mayWrite o (.part (some p)) = true → st = 2 → e.phase = 1 → (s.hq p).susp = [e.idx] →
      (vbit v 1 = false → vbit v 0 = true → s.elemFault [] e.bits e.pos (some p) false = none →
        Next (.hqResume p o v) s (fun t => (t.hq p).act = [{ e with phase := 0 }] ∧ (t.hq p).susp = [] ∧
          t.get (F.strHqStat_state p) = 1 ∧ t.log = s.log ∧ t.mem = s.mem ∧ t.quads = s.quads)) ∧
      (vbit v 1 = true → Next (.hqAbort p o v) s (fun t => done { e with phase := 2, code := 0x6039 } t ∧
        (t.hq p).susp = [] ∧ t.get (F.strHqStat_state p) = 1 ∧ Logs s t 0x6039 clsR (some p) 0 e.addr ∧ t.mem = s.mem ∧
        t.quads = s.quads)))

/-- A descriptor commits its remaining elements in order and ends (08_streams.md, 07_tiers.md). -/
def Obligations.DescriptorCompletes : Prop :=
  ∀ (s : State) (q : Fin 32) (id : BitVec 16) (d : Desc), (s.quad q).desc id.toNat = some d → d.suspended = false →
    d.remote = false → d.slot < 8 → s.receiverHere d = true → s.get F.ecuSeam_retired = 0 →
    let r := State.runElems q d.quad d.bits (s.slotPart q d.slot) (descPositions d.bits - d.pos) d.pos s
    let u := r.1
    Next (.descriptorComplete q id) s (fun t => t.mem = u.mem ∧ t.pages = s.pages ∧
      match r.2.2 with
      | none => (t.quad q).desc id.toNat = none ∧
        (∀ ch, d.chan = some ch →
          (nget (s.quad d.quad).chanArr 0 (chanKey false ch) + 65536 - nget (s.quad d.quad).chanRcp 0 (chanKey false ch)) % 65536 ≠ 255 →
          nget (t.quad d.quad).chanArr 0 (chanKey false ch) = (nget (s.quad d.quad).chanArr 0 (chanKey false ch) + 1) % 65536 ∧
          t.log = u.log) ∧ (d.chan = none → t.log = u.log)
      | some f =>
        if f.code = 0 then (t.quad q).desc id.toNat = some { d with pos := r.2.1 } ∧ t.log = u.log
        else (t.quad q).desc id.toNat = none ∧ t.cmdOf q d.slot = none ∧
          ((s.cmdOf q d.slot).isSome = true → t.get (F.seqCqDone_code q d.slot) = f.code % 2 ^ 16))

/-- A page operation of one page does what Table 64 gives it (07_tiers.md). -/
def Obligations.PageOperations : Prop :=
  ∀ (s : State) (o : Orig) (v : Lane) (op : Nat), isPf o = true → s.mapOp = none → s.on F.strMapStat_busy = false →
    vbit v 31 = true → vbits v 3 0 = op → s.get F.strMapArg_count_m1 = 0 → s.get F.strMapArg_unit < 28 → s.get F.strMapArg_tier ≠ 3 →
    s.ecu.tableFail = false →
    let page := s.get F.strMapPage_page
    let e := s.page page
    let u := s.get F.strMapArg_unit
    let reads := s.tableBad 6 page = false ∧ s.tableBad 9 page = false
    let others := fun (t : State) => (∀ p, p ≠ page → t.page p = s.page p) ∧ t.mem = s.mem ∧ t.quads = s.quads ∧ t.log = s.log
    let ends := fun (st : Nat) (e' : Pte) (t : State) => others t ∧ t.page page = e' ∧ t.mapOp = none ∧
      t.get F.strMapStat_busy = 0 ∧ t.get F.strMapStat_status = st ∧ t.get F.strMapStat_done = (if st = 1 then 1 else 0) ∧
      t.get F.strMapPte_pte = e'.toNat ∧ t.frames = s.frames ∧
      t = { s with regs := t.regs, pages := t.pages, tierCorr := t.tierCorr }
    (reads →
      (op = 1 → ∀ f, e.valid = false → s.on F.strMapArg_place_any = false → s.unitFailed u = false → s.lowestFree u = some f →
        Next (.mapPages o v) s (fun t => others t ∧ t.pages = s.pages ∧ t.get F.strMapStat_busy = 1 ∧ t.useOf u f = .zeroing ∧
          t.get (F.strFrameFree_free u) = s.get (F.strFrameFree_free u) - 1 ∧
          (t.mapOp.map (·.zeroing)) = some [(page, u, f)] ∧
          t = { s with regs := t.regs, frames := t.frames, mapOp := t.mapOp, evict := t.evict, tierCorr := t.tierCorr })) ∧
      (op = 1 → e.valid = true → Next (.mapPages o v) s (ends 2 e)) ∧
      (op = 2 → e.valid = true → e.mig = false → Pte.pins e = 0 → s.useOf e.unit e.frame = .mapped →
        Next (.unmapPages o v) s (fun t => others t ∧ t.page page = e.put 63 1 0 ∧ t.useOf e.unit e.frame = .draining ∧
          t.drains = s.drains ++ [⟨page, e.unit, e.frame⟩] ∧ t.get F.strMapStat_busy = 1 ∧
          t = { s with
            regs := t.regs, frames := t.frames, pages := t.pages, mapOp := t.mapOp, drains := t.drains, tierCorr := t.tierCorr })) ∧
      (op = 3 → e.valid = true → e.mig = false →
        Next (.hintPages o v) s (ends 1 ((e.put 46 2 (s.get F.strMapArg_hint)).put 41 5 u))) ∧
      (op = 4 → e.valid = true → e.mig = false → Pte.pins e = 0 →
        Next (.protectPages o v) s (ends 1 (e.put 48 1 (s.get F.strMapArg_ro)))) ∧
      (op = 5 → ∀ f, e.valid = true → e.mig = false → Pte.pins e = 0 → s.on F.strMapArg_place_any = false → Pte.unit e ≠ u →
        s.unitFailed u = false → s.lowestFree u = some f → s.get F.strMigStat_inflight < s.migMax →
        Next (.migratePages o v) s (fun t => others t ∧ t.page page = e.put 49 1 1 ∧ t.useOf u f = .dest ∧
          t.migrations = s.migrations ++ [⟨page, u, f, [], true, false⟩] ∧ t.get F.strMapStat_busy = 1 ∧
          t.get F.strMigStat_inflight = s.get F.strMigStat_inflight + 1 ∧
          t.get (F.strFrameFree_free u) = s.get (F.strFrameFree_free u) - 1 ∧
          t = { s with
            regs := t.regs, frames := t.frames, pages := t.pages, mapOp := t.mapOp, migrations := t.migrations
            evict := t.evict, tierCorr := t.tierCorr })) ∧
      (op = 6 → Next (.queryPage o v) s (ends 1 e)) ∧
      (e.valid = false → (op = 2 → Next (.unmapPages o v) s (ends 3 e)) ∧ (op = 3 → Next (.hintPages o v) s (ends 3 e)) ∧
        (op = 4 → Next (.protectPages o v) s (ends 3 e)) ∧ (op = 5 → Next (.migratePages o v) s (ends 3 e)))) ∧
    (op = 6 → s.tableLost = none → s.tableBad 6 page = true → s.tableBad 9 page = false → Next (.queryPage o v) s (fun t =>
      Logs s t 0x4011 clsN none 0 (page * 8 / 64 * 64) ∧ t.get F.strMapStat_status = 1 ∧ t.get F.strMapPte_pte = e.toNat ∧
      t.get F.ecuStat_halted = s.get F.ecuStat_halted ∧ t.pages = s.pages ∧ t.frames = s.frames ∧ t.mem = s.mem ∧
      t.quads = s.quads)) ∧
    (op = 6 → s.tableLost = none → s.tableBad 6 page = true → s.tableBad 9 page = true → s.on F.ecuStat_halted = false →
      Next (.queryPage o v) s (fun t => t.on F.ecuStat_halted = true ∧ t.pages = s.pages ∧ t.mem = s.mem))

/-- A zeroed frame becomes its page; a drained frame is free; a migration moves a page whole (07_tiers.md). -/
def Obligations.PageTransfersEnd : Prop :=
  (∀ (s : State) (page : BitVec 24) (m : MapOp) (u f : Nat), s.mapOp = some m → m.op = 1 → m.left = 0 → m.stop = 0 → m.wait = none →
    m.done = 0 → m.next = page.toNat + 1 → m.zeroing = [(page.toNat, u, f)] → s.useOf u f = .zeroing → s.ecu.tableFail = false →
    Next (.mapZeroComplete page) s (fun t => t.page page.toNat = m.entry u f ∧ (∀ p, p ≠ page.toNat → t.page p = s.page p) ∧
      t.useOf u f = .mapped ∧ (∀ i, i < 2 ^ 21 → nget t.mem 0 (memKey u f i) = 0) ∧
      KeepsMem (fun k => memKey u f 0 ≤ k ∧ k < memKey u f (2 ^ 21)) s t ∧ t.mapOp = none ∧ t.get F.strMapStat_busy = 0 ∧
      t.get F.strMapStat_status = 1 ∧ t.get F.strMapStat_done = 1 ∧ t.get F.strMapPte_pte = (m.entry u f).toNat ∧
      t = { s with regs := t.regs, pages := t.pages, frames := t.frames, mem := t.mem, memBad := t.memBad, mapOp := none })) ∧
  (∀ (s : State) (page : BitVec 24) (d : Drain), s.mapOp = none → s.ecu.tableFail = false → s.drains = [d] → d.page = page.toNat →
    s.useOf d.unit d.frame = .draining → nget s.ecu.badFrames false (frameKey d.unit d.frame) = false → d.unit < 28 →
    s.unitFailed d.unit = false →
    Next (.pageTableDrainComplete page) s (fun t => t.useOf d.unit d.frame = .free ∧ t.drains = [] ∧
      t.get (F.strFrameFree_free d.unit) = (s.get (F.strFrameFree_free d.unit) + 1) % 2 ^ 24 ∧
      KeepsRegs [F.strFrameFree_free d.unit] s t ∧ t = { s with regs := t.regs, frames := t.frames, drains := [], evict := t.evict })) ∧
  (∀ (s : State) (page : BitVec 24) (m : Migration), s.mapOp = none → s.ecu.tableFail = false → s.migrations = [m] → m.page = page.toNat → m.frame < 2 ^ 20 → s.shedding = false →
    Memory.wf s.mem = true →
    let e := s.page m.page
    s.farKey e.unit (Pte.part e) = none → s.farKey m.unit (Pte.part e) = none → (e.unit, e.frame) ≠ (m.unit, m.frame) →
    (m.held = [] → s.spanError e.unit e.frame 0 (2 ^ 21) = none → s.unitFailed m.unit = false → s.useOf m.unit m.frame = .dest →
      Next (.migrationCopyEnd page) s (fun t => t.page m.page = (e.setFrame m.unit m.frame).put 49 1 0 ∧
        (∀ p, p ≠ m.page → t.page p = s.page p) ∧ t.useOf m.unit m.frame = .mapped ∧ t.migrations = [] ∧
        (∀ i, i < 2 ^ 21 → nget t.mem 0 (memKey m.unit m.frame i) = nget s.mem 0 (memKey e.unit e.frame i)) ∧
        KeepsMem (fun k => memKey m.unit m.frame 0 ≤ k ∧ k < memKey m.unit m.frame (2 ^ 21)) s t ∧
        t.drains = s.drains ++ [⟨m.page, e.unit, e.frame⟩] ∧
        t.get F.strMigStat_completed = (s.get F.strMigStat_completed + 1) % 2 ^ 32 ∧ t.quads = s.quads ∧ t.log = s.log)) ∧
    (∀ off b, m.held = [(off, b)] → off < 2 ^ 21 →
      Next (.migrationAbandon page) s (fun t => t.page m.page = e.put 49 1 0 ∧ (∀ p, p ≠ m.page → t.page p = s.page p) ∧
        nget t.mem 0 (memKey e.unit e.frame off) = b ∧ KeepsMem (fun k => k = memKey e.unit e.frame off) s t ∧
        t.migrations = [] ∧ t.get F.strMigStat_abandoned = (s.get F.strMigStat_abandoned + 1) % 2 ^ 16 ∧
        t.quads = s.quads ∧ t.log = s.log)) ∧
    (m.held = [] → Next (.migrationAbandon page) s (fun t => if m.waits = false then t = s else
      t.page m.page = e.put 49 1 0 ∧ (∀ p, p ≠ m.page → t.page p = s.page p) ∧ t.mem = s.mem ∧ t.migrations = [] ∧
        t.get F.strMigStat_abandoned = (s.get F.strMigStat_abandoned + 1) % 2 ^ 16 ∧ t.quads = s.quads ∧ t.log = s.log))) ∧
  (∀ (s : State) (p : Nat × Pte) (u f : Nat), s.on F.strMigCtl_auto = true → s.mapOp = none → s.shedding = false →
    let r := s.evictTrack
    let low := s.get F.strMigCtl_low_water
    s.get F.strMigStat_inflight < s.migMax → (s.pages.find? fun p => (r.autoTarget p.2).isSome) = some p →
    r.autoTarget p.2 = some u → s.lowestFree u = some f →
    Next .autoMigrationStart s (fun t => t.page p.1 = (s.page p.1).put 49 1 1 ∧ (∀ k, k ≠ p.1 → t.page k = s.page k) ∧
      t.useOf u f = .dest ∧ t.migrations = s.migrations ++ [⟨p.1, u, f, [], false, false⟩] ∧ t.mem = s.mem ∧
      (∀ d, d < 12 → (bit t.evict d = true ↔ t.get (F.strFrameFree_free (8 + d)) < low ∨
        (bit r.evict d = true ∧ t.get (F.strFrameFree_free (8 + d)) < low + 256))) ∧
      t.get F.strMigStat_inflight = s.get F.strMigStat_inflight + 1)) ∧
  (∀ (s : State) (page : BitVec 24), s.shedding = true →
    Next (.migrationCopyEnd page) s (fun t => t = s) ∧ Next (.migrationAbandon page) s (fun t => t = s) ∧
    Next .autoMigrationStart s (fun t => t = s.evictTrack))

/-- Far ports time out, fail, and gain and lose extents (07_tiers.md). -/
def Obligations.FarPorts : Prop :=
  ∀ (s : State) (port : Fin 8) (first count : BitVec 20),
    let u := 20 + port.val
    let ext := extent first.toNat count.toNat
    (∀ (q : Fin 32) (id : BitVec 16) (d : Desc), (s.quad q).desc id.toNat = some d → (s.farAccess d).isSome = true →
      Next (.farAccessTimeout q id) s (fun t => t.cmdOf q d.slot = none ∧ t.freeCtr = s.freeCtr + 1 ∧ t.mem = s.mem ∧
        t.pages = s.pages ∧ (s.partner q = none → (∀ c, s.cmdOf q d.slot = some c → s.consumerGroups q (s.image q) c = []) →
          (∃ a, s.farAccess d = some a ∧ Logs s t 0x5011 clsR (s.slotPart q d.slot) 0 a) ∧
          (d.slot < 8 → (s.cmdOf q d.slot).isSome = true → t.get (F.seqCqDone_code q d.slot) = 0x5011)))) ∧
    (s.unitFailed u = false → (∀ q n, s.cmdTouches q n (fun v _ => decide (v = u)) = false) →
      (∀ e ∈ s.req.entries, s.reqTouches e.2 (fun v _ => decide (v = u)) = false) →
      Next (.farLinkDown port) s (fun t => Logs s t 0x5012 clsR none 0 port ∧ t.get (F.strFrameFree_total u) = 0 ∧
        t.get (F.strFrameFree_free u) = 0 ∧ t.unitFailed u = true ∧
        t = { s with regs := t.regs, log := t.log, ecu := { s.ecu with farDown := s.ecu.farDown + 2 ^ port.val } } ∧
        KeepsRegs ([F.strFrameFree_total u, F.strFrameFree_free u] ++ logRegs) s t)) ∧
    (s.unitFailed u = true → nget s.farFrames 0 port ≠ 0 → Next (.dcdExtentAdd port first count) s (fun t => t = s)) ∧
    (¬ (s.unitFailed u = true ∧ nget s.farFrames 0 port ≠ 0) →
      (∀ f ∈ ext, f < 2 ^ 20 ∧ (nget s.farFrames 0 port ≤ f ∨ s.useOf u f = .absent)) →
      Next (.dcdExtentAdd port first count) s (fun t => (∀ f ∈ ext, t.useOf u f = .free) ∧
        t.get (F.strFrameFree_total u) = (s.get (F.strFrameFree_total u) + count.toNat) % 2 ^ 24 ∧
        t.get (F.strFrameFree_free u) = (s.get (F.strFrameFree_free u) + count.toNat) % 2 ^ 24 ∧
        KeepsRegs [F.strFrameFree_total u, F.strFrameFree_free u] s t ∧
        t = { s with regs := t.regs, frames := t.frames, farFrames := t.farFrames, ecu := { s.ecu with
          farDown := if s.unitFailed u = true then s.ecu.farDown - 2 ^ port.val else s.ecu.farDown } })) ∧
    (ext.any (s.frameBusy u) = true → Next (.dcdReleaseRequest port first count) s (fun t => t = s)) ∧
    (ext.any (s.frameBusy u) = false → Next (.dcdReleaseRequest port first count) s (fun t =>
      (∀ f ∈ ext, f < s.unitFrames u → t.useOf u f = (match s.useOf u f with
        | .free => .absent
        | .draining | .dest | .zeroing => .withdrawn
        | x => x)) ∧
      (∀ f, f ∉ ext → t.useOf u f = s.useOf u f) ∧ KeepsRegs [F.strFrameFree_total u, F.strFrameFree_free u] s t ∧
      t = { s with regs := t.regs, frames := t.frames })) ∧
    ((∀ q, (s.quad q).descs = []) → Next (.dcdExtentWithdraw port first count) s (fun t =>
      (∀ f ∈ ext, f < s.unitFrames u → s.useOf u f = .mapped → t.useOf u f = .withdrawn ∧
        ∀ off, s.unitFailed u = false → t.tierError u f off = some 0x5013) ∧
      (∀ f ∈ ext, f < s.unitFrames u → s.useOf u f = .free → t.useOf u f = .absent) ∧
      (∀ f, f ∉ ext → t.useOf u f = s.useOf u f) ∧
      KeepsRegs [F.strFrameFree_total u, F.strFrameFree_free u] s t ∧ t = { s with regs := t.regs, frames := t.frames }))

/-- LOAD, REPLACE, UNLOAD and CANCEL act from the states of Table 81 only (09_weights.md). -/
def Obligations.BindingOperations : Prop :=
  ∀ (s : State) (b : Fin 256) (o : Orig) (v : Lane), isPf o = true → vbit v 31 = true →
    let st := s.get (F.ingBindStat_state b)
    let op := vbits v 3 0
    let x := s.bind b
    let place := s.get (F.ingBindPlace_addr b) * 256
    let still := fun (t : State) => t.mem = s.mem ∧ t.pages = s.pages ∧ t.quads = s.quads ∧ ∀ k, k ≠ b.val → t.bind k = s.bind k
    let refused := fun (c : Nat) (t : State) => still t ∧ t.get (F.ingBindStat_state b) = st ∧ t.get (F.ingBindStat_code b) = c ∧
      Logs s t c clsN (some x.part) 0 (ingArg b 0 0 0) ∧ t.ing = s.ing
    let used := s.anyCmd (fun c => c.windows.any fun w => match w.2 with | some y => decide (y.bind = b) | none => false) ||
      s.req.entries.any fun e => s.reqBound b e.2
    (op = 1 → st ∉ [0, 2, 3] → Next (.bindLoad b o v) s (refused 0x7013)) ∧
    (op = 2 → st ∉ [2] → Next (.bindReplace b o v) s (refused 0x7013)) ∧
    (op = 3 → st ∉ [2, 3, 7] → Next (.bindUnload b o v) s (refused 0x7013)) ∧
    (op = 4 → st ∉ [1, 4, 5] → Next (.bindCancel b o v) s (refused 0x7013)) ∧
    (∀ c, op = 1 → st = 0 → s.imageCheck (s.get (F.ingBindImage_addr b) * 256) place (vbits v 11 8) = .error c → c < 65536 →
      Next (.bindLoad b o v) s (refused c)) ∧
    (∀ n, op = 1 → st = 0 → s.imageCheck (s.get (F.ingBindImage_addr b) * 256) place (vbits v 11 8) = .ok n →
      Next (.bindLoad b o v) s (fun t => still t ∧ (t.bind b).part = vbits v 11 8 ∧ (t.bind b).n = n ∧
        (t.bind b).image = s.get (F.ingBindImage_addr b) * 256 ∧ (t.bind b).place = s.placeList place n ∧
        (t.bind b).layers = [] ∧ t.get (F.ingBindStat_version b) = s.nextVersion b ∧ t.log = s.log ∧
        (∀ l, l < n → (nget (s.placeList place n) (0, 0) l).1 ≠ 0 → t.get (F.ingBindStat_state b) = 1 ∧
          ∃ y ∈ t.ing.loads, y.bind = b ∧ y.layer = l ∧ y.dest = (nget (s.placeList place n) (0, 0) l).1 ∧ y.queued = true ∧
            y.dead = false))) ∧
    (∀ n, op = 2 → st = 2 → s.imageCheck (s.get (F.ingBindNext_addr b) * 256) place x.part = .ok n → n = x.n →
      (∀ l, l < n → s.dirLen (s.get (F.ingBindNext_addr b) * 256) l = s.dirLen x.image l) → s.get (F.ingBindStage_addr b) ≠ 0 →
      Next (.bindReplace b o v) s (fun t => still t ∧ t.get (F.ingBindStat_state b) = 4 ∧
        t.bind b = { x with next := s.get (F.ingBindNext_addr b) * 256, other := s.placeList place n, replaced := [] } ∧
        t.log = s.log ∧ t = { s with regs := t.regs, ing := t.ing })) ∧
    (op = 3 → st ∈ [2, 3, 7] → used = true → Next (.bindUnload b o v) s (refused 0x7013)) ∧
    (op = 3 → st ∈ [2, 3, 7] → used = false → Next (.bindUnload b o v) s (fun t => still t ∧ t.get (F.ingBindStat_state b) = 0 ∧
      (t.bind b).layers = [] ∧ t.get (F.ingBindStat_committed b) = 0 ∧ (∀ y ∈ t.ing.loads, y.bind = b → y.dead = true) ∧
      t.log = s.log ∧ t = { s with regs := t.regs, ing := t.ing })) ∧
    (op = 4 → st = 4 → Next (.bindCancel b o v) s (fun t => still t ∧ t.get (F.ingBindStat_state b) = 2 ∧
      Logs s t 0x7042 clsN (some x.part) 0 (ingArg b 0 0 0) ∧ t.ing = s.ing)) ∧
    (op = 4 → st = 1 → Next (.bindCancel b o v) s (fun t => still t ∧
      (∀ y ∈ t.ing.loads, y.bind = b → y.started = false → y.dead = false → y.queued = false) ∧
      t.get (F.ingBindStat_state b) = (if t.ing.loads.any (fun y => !y.dead && y.queued && decide (y.bind = b)) then 1
        else if s.get (F.ingBindStat_failed b) = 0 then 2 else 3) ∧ Logs s t 0x7042 clsN (some x.part) 0 (ingArg b 0 0 0))) ∧
    (op = 4 → st = 5 → (∃ k, k < x.n ∧ k ∈ x.replaced ∧ (nget x.other (0, 0) k).1 ≠ 0) → Next (.bindCancel b o v) s (fun t => still t ∧
      t.get (F.ingBindStat_state b) = 6 ∧ Logs s t 0x7042 clsN (some x.part) 0 (ingArg b 0 0 0))) ∧
    (st = 4 → s.anyCmd (fun c => c.boundTo b) = false → (s.req.entries.any fun e => s.reqBound b e.2) = false →
      Next (.bindDrainComplete b) s (fun t => t.mem = s.mem ∧ t.pages = s.pages ∧ (∀ k, k ≠ b.val → t.bind k = s.bind k) ∧
        match (List.range x.n).find? fun k => !x.replaced.contains k && decide ((nget x.other (0, 0) k).1 ≠ 0) with
        | some k => t.get (F.ingBindStat_state b) = 5 ∧ t.quads = s.quads ∧ ∃ y ∈ t.ing.loads, y.bind = b ∧ y.layer = k ∧
            y.dead = false ∧ y.image = x.next ∧ y.dest = s.get (F.ingBindStage_addr b) * 256
        | none => t.get (F.ingBindStat_state b) = 2 ∧ (t.bind b).image = x.next ∧ (t.bind b).other = [] ∧
            t.get (F.ingBindStat_version b) = s.nextVersion b)) ∧
    (st = 4 → s.anyCmd (fun c => c.boundTo b) = true → Next (.bindDrainComplete b) s (fun t => t = s))

/-- A shard is read, checked, retried and deposited (09_weights.md). -/
def Obligations.ShardAttempts : Prop :=
  (∀ (s : State) (u : Fin 2) (b : Fin 256) (layer : BitVec 12) (shard : BitVec 24) (code : Code), s.shedding = true →
    Next (.shardAttemptStart u) s (fun t => t = s) ∧ Next (.shardAttemptEnd b layer shard code) s (fun t => t = s) ∧
    Next (.shardAttemptTimeout b layer shard) s (fun t => t = s)) ∧
  (∀ (s : State) (u : Fin 2) (x : Load) (i : Nat), s.nextShard u = some (x, i) → s.shedding = false →
    let h := if x.table.phase = 2 then x.shard i else x.table
    let g := { h with tries := h.tries + 1, phase := 1, start := s.now }
    (¬ (u = 1 ∧ s.ing.failed = true) → Next (.shardAttemptStart u) s (fun t =>
      (∃ y ∈ t.ing.loads, y = if x.table.phase = 2 then { x with started := true, shards := nset x.shards Shard.init i g }
        else { x with started := true, table := g }) ∧
      t = { s with regs := t.regs, ing := t.ing } ∧ KeepsRegs [F.ingUnitShard_retries u] s t ∧
      t.get (F.ingUnitShard_retries u) = (s.get (F.ingUnitShard_retries u) + if h.tries = 0 then 0 else 1) % 2 ^ 32)) ∧
    (u = 1 → s.ing.failed = true → (x.kind = .queue ∨ x.kind = .window) → Next (.shardAttemptStart u) s (fun t =>
      (∀ y ∈ t.ing.loads, y ≠ x) ∧ ((t.bind x.bind).layer x.layer).fail = 0x7032 ∧
      t.get (F.ingBindStat_code x.bind) = 0x7032 ∧ t.mem = s.mem ∧ t.quads = s.quads))) ∧
  (∀ (s : State), (∀ y ∈ s.ing.loads, y.kind = .queue ∨ y.kind = .window) → Next .ingestUnitFault s (fun t =>
    t.ing.failed = true ∧ (∀ y ∈ t.ing.loads, t.onUnit1 y = false) ∧ (∀ y ∈ s.ing.loads, s.onUnit1 y = false → y ∈ t.ing.loads) ∧
    t.mem = s.mem ∧ t.quads = s.quads)) ∧
  (∀ (s : State) (b : Fin 256) (layer : BitVec 12) (shard : BitVec 24) (x : Load), s.loadTable b layer.toNat = none →
    s.loadWith b layer.toNat shard.toNat 1 = some x → x.dead = false → s.shedding = false →
    let i := shard.toNat
    let e := s.shardEntry x i
    let h := x.shard i
    let a := attemptAddr e (h.tries - 1)
    let part := (s.bind b).part
    let again := fun (digest : Bool) (code : Nat) (t : State) =>
      (∃ y ∈ t.ing.loads, y = { x with shards := nset x.shards Shard.init i { h with phase := 0, last := 0, digest := digest } }) ∧
      LogsTwo s t code clsN (some part) 0 (ingArg x.bind x.layer i 0) a ∧
      t = { s with regs := t.regs, ing := t.ing, log := t.log, freeCtr := t.freeCtr, tierCorr := t.tierCorr }
    (s.readError a e.storedLen part = none → (crc64 (s.bytesAt a e.storedLen)).toNat = e.digest →
      Next (.shardAttemptEnd b layer shard 0) s (fun t =>
        (∃ y ∈ t.ing.loads, y = { x with
          shards := nset x.shards Shard.init i { h with phase := 2, data := s.bytesAt a e.storedLen } }) ∧
        t.get (F.ingUnitIn_bytes (s.ingestUnit a)) = (s.get (F.ingUnitIn_bytes (s.ingestUnit a)) + e.storedLen) % 2 ^ 64 ∧
        t = { s with regs := t.regs, ing := t.ing, freeCtr := t.freeCtr, tierCorr := t.tierCorr } ∧
        KeepsRegs [F.ingUnitIn_bytes (s.ingestUnit a)] s t)) ∧
    (s.readError a e.storedLen part = none → (crc64 (s.bytesAt a e.storedLen)).toNat ≠ e.digest → h.tries < 3 →
      Next (.shardAttemptEnd b layer shard 0) s (again true 0x7020)) ∧
    (s.get F.ingCfg_shard_tmo_us ≠ 0 → h.tries < 3 → Next (.shardAttemptTimeout b layer shard) s (again false 0x7021))) ∧
  (∀ (s : State) (b : Fin 256) (layer : BitVec 12) (shard : BitVec 24) (x : Load) (d : List Byte),
    s.loadWith b layer.toNat shard.toNat 2 = some x → x.dead = false →
    let i := shard.toNat
    let e := s.shardEntry x i
    let h := x.shard i
    let u := s.ingestUnit (attemptAddr e (h.tries - 1))
    shardDeposit (isFl2 (s.memNat x.image 4)) e h.data = some d →
    e.depositOff + d.length ≤ s.dirLen x.image x.layer →
    (∀ h ∈ x.shards, ∀ r, h.2.span = some r → r.1 + r.2 ≤ e.depositOff ∨ e.depositOff + d.length ≤ r.1) →
    s.destBad (x.dest + e.depositOff) d.length (s.bind b).part = false → s.migHolds (x.dest + e.depositOff) d.length = false →
    Next (.shardDepositComplete b layer shard) s (fun t =>
      t.mem = (if s.keepsOld x = true then s.mem else (s.writeAt (x.dest + e.depositOff) d).mem) ∧
      t.pages = s.pages ∧ t.quads = s.quads ∧ t.log = s.log ∧
      (∃ y ∈ t.ing.loads, y = { x with shards := nset x.shards Shard.init i { h with
        phase := 3, span := some (e.depositOff, d.length), data := if s.keepsOld x = true then d else [] } }) ∧
      t.get (F.ingUnitShard_shards u) = (s.get (F.ingUnitShard_shards u) + 1) % 2 ^ 32))

/-- A layer whose shards are all deposited commits, and is copied to its second destination (09_weights.md). -/
def Obligations.LayersCommit : Prop :=
  ∀ (s : State) (b : Fin 256) (layer : BitVec 12) (x : Load),
    let l := layer.toNat
    let p := nget (s.bind b).place (0, 0) l
    let p' := nget (s.bind b).other (0, 0) l
    let n := s.dirLen x.image l
    let whole := fun (y : Load) => (List.range (s.dirShards y.image y.layer)).all fun i => decide ((y.shard i).phase = 3)
    ((s.ing.loads.find? fun y => decide (y.bind = b.val) && decide (y.layer = l) && !y.dead && !y.copying && y.started && whole y) =
        some x →
      (x.kind = .queue → x.wins = [] → x.resident = true → p.2 = 0 → Next (.layerCommit b layer) s (fun t =>
        (t.bind b).layer l = { (s.bind b).layer l with c0 := some (s.get (F.ingBindStat_version b)), fail := 0, tier := 0 } ∧
        t.ing.loads = s.ing.loads.erase x ∧ t.mem = (s.writeKept x).mem ∧
        t.get (F.ingBindStat_state b) = (if s.get (F.ingBindStat_state b) = 1 ∧
            (t.ing.loads.any fun y => !y.dead && y.queued && decide (y.bind = b.val)) = false then
          (if t.get (F.ingBindStat_failed b) = 0 then 2 else 3) else s.get (F.ingBindStat_state b)) ∧
        t = { s with regs := t.regs, ing := t.ing, mem := t.mem, memBad := t.memBad, migrations := t.migrations })) ∧
      (x.kind = .queue → x.wins = [] → x.resident = true → p.2 ≠ 0 → Next (.layerCommit b layer) s (fun t =>
        ((t.bind b).layer l).c0 = some (s.get (F.ingBindStat_version b)) ∧ (∃ y ∈ t.ing.loads, y = { x with copying := true }) ∧
        t.mem = (s.writeKept x).mem ∧
        t = { s with regs := t.regs, ing := t.ing, mem := t.mem, memBad := t.memBad, migrations := t.migrations })) ∧
      (∀ (q : Fin 32) (k w : Fin 8) (c : Cmd) (v : Win), x.kind = .window → x.resident = false →
        x.wins = [q.val * 64 + k * 8 + w] → (s.quad q).committed.isSome = true → s.cmdOf q k = some c →
        nget c.windows none w = some v → Next (.layerCommit b layer) s (fun t =>
          t.cmdOf q k = some { c with windows := nset c.windows none w (some { v with here := v.here ++ [l] }) } ∧
          t.ing.loads = s.ing.loads.erase x ∧ t.mem = s.mem ∧ t.log = s.log ∧ KeepsQuads [q.val] s t)) ∧
      (x.kind = .write → s.destBad p'.1 n (s.bind b).part = false → s.migHolds p'.1 n = false →
        Next (.layerCommit b layer) s (fun t => t.mem = (s.writeAt p'.1 (s.bytesAt x.dest n)).mem ∧
          ((t.bind b).layer l).c0 = some (s.nextVersion b) ∧ nget (t.bind b).place (0, 0) l = p' ∧
          (p'.2 ≠ 0 → t.quads = s.quads) ∧ t.pages = s.pages ∧ t.log = s.log))) ∧
    ((s.ing.loads.find? fun y => decide (y.bind = b.val) && decide (y.layer = l) && !y.dead && y.copying) = some x →
      x.kind = .queue → s.rangeError p.1 n = none → s.destBad p.2 n (s.bind b).part = false → s.migHolds p.2 n = false →
      Next (.dst1CopyComplete b layer) s (fun t => t.mem = (s.writeAt p.2 (s.bytesAt p.1 n)).mem ∧
        ((t.bind b).layer l).c1 = some (s.get (F.ingBindStat_version b)) ∧ t.ing.loads = s.ing.loads.erase x ∧
        t.quads = s.quads ∧ t.pages = s.pages ∧ t.log = s.log))

/-- Request queues start empty, submit, and take in or refuse the descriptor at head (12_serving.md). -/
def Obligations.RequestQueues : Prop :=
  ∀ (s : State) (p : Fin 16) (o : Orig) (v : Lane) (bad : List Nat),
    (s.mayWrite o (.part (some p)) = true → s.waitingRecords p = [] →
      (vbit v 31 = true → s.on (F.reqQCfg_en p) = false → Next (.reqQueueEnable p o v bad) s (fun t =>
        t.on (F.reqQCfg_en p) = true ∧ t.get (F.reqQCfg_vector p) = vbits v 20 16 ∧ t.get (F.reqQCfg_cq_log2n p) = vbits v 12 8 ∧
        t.get (F.reqQCfg_sq_log2n p) = vbits v 4 0 ∧ t.get (F.reqSqTail_tail p) = 0 ∧ t.get (F.reqSqHead_head p) = 0 ∧
        t.get (F.reqCqTail_tail p) = 0 ∧ t.get (F.reqCqHead_head p) = 0 ∧ t.get (F.reqQStat_state p) = 1 ∧
        KeepsRegsAt (fun a => 0x301000 + p * 0x40 ≤ a ∧ a < 0x301040 + p * 0x40) s t ∧
        t = { s with regs := t.regs, req := { s.req with bad := bad } })) ∧
      (vbit v 31 = false → s.on (F.reqQCfg_en p) = true → s.get (F.reqQStat_state p) = 1 → Next (.reqQueueDisable p o v) s (fun t =>
        t.on (F.reqQCfg_en p) = false ∧ t.get (F.reqQStat_state p) = 0 ∧ t = { s with regs := t.regs } ∧
        KeepsRegs [F.reqQCfg_en p, F.reqQCfg_irq_en p, F.reqQCfg_vector p, F.reqQStat_state p] s t)) ∧
      Next (.requestDoorbell p o v) s (fun t => t.get (F.reqSqTail_tail p) = vbits v 15 0 ∧
        KeepsRegs [F.reqSqTail_tail p] s t ∧ t = { s with regs := t.regs }) ∧
      Next (.reqCqHeadWrite p o v bad) s (fun t => t.get (F.reqCqHead_head p) = vbits v 15 0 ∧
        KeepsRegs [F.reqCqHead_head p] s t ∧ t = { s with regs := t.regs, req := { s.req with bad := bad } })) ∧
    (∀ (desc : BitVec 1024) (stop : Option (BitVec 2048)) (prompt : List Lane) (i : Nat),
      let d := desc.toNat
      let sd := s.svc (rdService d)
      let size := 2 ^ clampLog (s.get (F.reqQCfg_sq_log2n p))
      s.get (F.reqQStat_state p) = 1 → s.on (F.reqQCfg_en p) = true →
      s.get (F.reqSqHead_head p) % size ≠ s.get (F.reqSqTail_tail p) % size →
      ((List.range 65536).find? fun k => decide ((s.entryOf k).state = 0)) = some i →
      (s.admitCode p d (stop.map (·.toNat)) prompt = none → svFlag sd 1 = false → s.hostFails (rdRing d) 64 = false →
        Next (.requestAdmit p desc stop (some prompt)) s (fun t =>
          let e := t.entryOf i
          t.get (F.reqSqHead_head p) = (s.get (F.reqSqHead_head p) + 1) % size ∧ e.state = 2 ∧ e.desc = d ∧ e.part = p ∧
            e.service = rdService d ∧ e.tAccept = s.now ∧ e.gen ≠ 0 ∧ e.reused = 256 * (s.reuse d sd prompt).length ∧
            e.record = none ∧ t.get F.reqLive_live = (s.get F.reqLive_live + 1) % 2 ^ 17 ∧
            (∀ k, k < 4 → nget t.hostMem 0 (rdRing d + k) = (leBytes 4 (reqId i e)).getD k 0) ∧
            t.mem = s.mem ∧ t.quads = s.quads ∧ t.log = s.log)) ∧
      (∀ c, s.admitCode p d (stop.map (·.toNat)) prompt = some c → s.cqRoom p = true →
        (s.hostFails (s.cqAddr p) 128 = true → Next (.requestAdmit p desc stop (some prompt)) s (fun t =>
          t.get (F.reqQStat_state p) = 3 ∧ t.get (F.reqQStat_code p) = 0x80F0 ∧ Logs s t 0x80F0 clsN (some p) 0 0 ∧
          t = { s with regs := t.regs, log := t.log } ∧ KeepsRegs ([F.reqQStat_state p, F.reqQStat_code p] ++ logRegs) s t)) ∧
        (s.hostFails (s.cqAddr p) 128 = false → Next (.requestAdmit p desc stop (some prompt)) s (fun t =>
          t.get (F.reqSqHead_head p) = (s.get (F.reqSqHead_head p) + 1) % size ∧ t.req = s.req ∧
            Logs s t c clsN (some p) 0 0 ∧ t.get (F.reqCqTail_tail p) =
              (s.get (F.reqCqTail_tail p) + 1) % 2 ^ clampLog (s.get (F.reqQCfg_cq_log2n p)) ∧
            (∀ k, k < 2 → nget t.hostMem 0 (s.get (F.reqCqBase_addr p) * 4096 + s.get (F.reqCqTail_tail p) * 128 + 4 + k) =
              (leBytes 2 c).getD k 0) ∧ t.mem = s.mem ∧ t.quads = s.quads)))) ∧
    (nget s.req.tokenDue false p = true → s.on (F.reqQCfg_irq_en p) = true → Next (.tokenVectorInterval p) s (fun t =>
      t.msix = s.msix ++ [⟨p, (s.get (F.reqQCfg_vector p) + 1) % 32⟩] ∧ nget t.req.tokenDue false p = false ∧
      t = { s with msix := t.msix, req := t.req }))

/-- Commands reach the live request that they name (12_serving.md). -/
def Obligations.RequestCommands : Prop :=
  ∀ (s : State) (o : Orig) (v : Lane) (bad : List Nat), isPf o = true →
    let op := bits s.req.cmdLow.toNat 31 28
    let arg := bits s.req.cmdLow.toNat 15 0
    let id := v.toNat
    let i := id % 65536
    let e := s.entryOf i
    let stale := e.gen.toNat ≠ id / 65536 ∨ e.state < 2
    let turned := fun (t : State) => t.get F.reqCmdStat_status = 3 ∧
      t.get F.reqDrop_stale = (s.get F.reqDrop_stale + 1) % 2 ^ 32 ∧
      KeepsRegs [F.reqCmdStat_status, F.reqDrop_stale] s t ∧
      t = { s with regs := t.regs, req := { s.req with bad := t.req.bad } }
    (op = 1 → stale → Next (.requestCancel o v bad) s turned) ∧ (op = 2 → stale → Next (.ringHead o v) s turned) ∧
    (op = 1 → ¬ stale → e.state < 5 → Next (.requestCancel o v bad) s (fun t => t.get F.reqCmdStat_status = 1 ∧
      ((t.entryOf i).state = 5 ∨ (t.entryOf i).state = 1) ∧
      ((s.hostIs bad).hostFails (s.cqAddr e.part) 128 = false → Logs s t 0x80C0 clsR (some e.part) 0 id) ∧ t.mem = s.mem ∧
      t.quads = s.quads)) ∧
    (op = 2 → ¬ stale → let size := 2 ^ rdLog2ring e.desc
      arg < size → (arg + size - e.head) % size ≤ (e.tail + size - e.head) % size →
      Next (.ringHead o v) s (fun t => t.get F.reqCmdStat_status = 1 ∧ t.entryOf i = { e with head := arg } ∧
        (∀ k, k ≠ i → t.entryOf k = s.entryOf k) ∧ t = { s with regs := t.regs, req := t.req })) ∧
    (op = 3 → e.state < 2 → Next (.peek o v) s turned) ∧
    (op = 3 → 2 ≤ e.state → Next (.peek o v) s (fun t => t.get F.reqCmdStat_status = 1 ∧ t.req.peek.length = 16 ∧
      (t.req.peek.getD 0 0).toNat = reqId i e ∧ t = { s with regs := t.regs, req := { s.req with peek := t.req.peek } })) ∧
    (op = 4 → (∃ h ∈ s.req.handles, h.1 % 2 ^ 32 = id) → Next (.releaseHandle o v) s (fun t => t.get F.reqCmdStat_status = 1 ∧
      (∀ k, k % 2 ^ 32 = id → nget t.req.handles none k = none) ∧ t.mem = s.mem ∧ t.quads = s.quads ∧ t.log = s.log)) ∧
    (op = 4 → (∀ h ∈ s.req.handles, h.1 % 2 ^ 32 ≠ id) → Next (.releaseHandle o v) s (fun t =>
      t.get F.reqCmdStat_status = 3 ∧ t = { s with regs := t.regs })) ∧
    (∀ idx : BitVec 16, (s.entryOf idx.toNat).state = 1 → Next (.reqQuarantineExpire idx) s (fun t =>
      (t.entryOf idx.toNat).state = 0 ∧ (t.entryOf idx.toNat).gen ≠ 0 ∧
      ((s.entryOf idx.toNat).gen ≠ 0xFFFF → (t.entryOf idx.toNat).gen = (s.entryOf idx.toNat).gen + 1) ∧
      (∀ k, k ≠ idx.toNat → t.entryOf k = s.entryOf k) ∧ t = { s with req := t.req }))

/-- Services are installed and removed; groups reset; pools and the prefix area enabled (12_serving.md). -/
def Obligations.ServicesGroupsPools : Prop :=
  ∀ (s : State) (o : Orig) (v : Lane), isPf o = true →
    (∀ sv : Fin 64,
      let d := s.bytesAt (s.get (F.reqSvcAddr_addr sv) * 256) 2048
      (vbit v 31 = true → vbits v 27 24 = 1 → s.svc sv = [] →
        s.readable (s.get (F.reqSvcAddr_addr sv) * 256) 2048 (some (svPart d)) = true →
        (s.svcRefusal sv o d = none → Next (.serviceInstall sv o v) s (fun t => t.get (F.reqSvcCtl_status sv) = 1 ∧ t.svc sv = d ∧
          (∀ k, k ≠ sv.val → t.svc k = s.svc k) ∧ t.req.entries = s.req.entries ∧ t.mem = s.mem ∧ t.log = s.log ∧
          ∀ e ∈ svGroups d, t.get (F.reqGrpStat_state e.1) = 1 ∧ t.get (F.reqGrpStat_placed e.1) = 0 ∧
            t.get (F.reqGrpStat_service e.1) = sv ∧ (t.group e.1).service = sv ∧ (t.group e.1).batches = [])) ∧
        (∀ f, s.svcRefusal sv o d = some f → Next (.serviceInstall sv o v) s (fun t => t.get (F.reqSvcCtl_status sv) = 3 ∧
          t.get (F.reqSvcCtl_code sv) = 0x8040 ∧ Logs s t 0x8040 clsN (some (svPart d % 16)) 0 f ∧
          t = { s with regs := t.regs, log := t.log }))) ∧
      (vbit v 31 = true → vbits v 27 24 = 2 →
        (s.svcUsed sv = true → Next (.serviceRemove sv o v) s (fun t => t.get (F.reqSvcCtl_status sv) = 3 ∧
          t.get (F.reqSvcCtl_code sv) = 0x8041 ∧ Logs s t 0x8041 clsN (some (svPart (s.svc sv))) 0 0 ∧
          t = { s with regs := t.regs, log := t.log })) ∧
        (s.svcUsed sv = false → Next (.serviceRemove sv o v) s (fun t => t.get (F.reqSvcCtl_status sv) = 2 ∧ t.svc sv = [] ∧
          (∀ k, k ≠ sv.val → t.svc k = s.svc k) ∧ t.req.entries = s.req.entries ∧ t.mem = s.mem ∧ t.log = s.log ∧
          (s.svc sv ≠ [] → ∀ e ∈ svGroups (s.svc sv), t.get (F.reqGrpStat_state e.1) = 0))))) ∧
    (∀ g : Fin 256, vbit v 0 = true →
      ((∀ b ∈ (s.group g).batches, b.emitted = true) → Next (.groupReset g o v) s (fun t =>
        t.group g = { s.group g with placed := 0, counts := [], batches := [], emits := [] } ∧
        t.get (F.reqGrpStat_placed g) = 0 ∧
        t.get (F.reqGrpStat_state g) = (if s.get (F.reqGrpStat_state g) = 2 then 1 else s.get (F.reqGrpStat_state g)) ∧
        (∀ k, k ≠ g.val → t.group k = s.group k) ∧ t.mem = s.mem ∧ t.log = s.log)) ∧
      ((∃ b ∈ (s.group g).batches, b.emitted = false) → Next (.groupReset g o v) s (fun t => t = s))) ∧
    (∀ k : Fin 32,
      let base := s.get (F.reqPoolBase_addr k) * 256
      (s.on (F.reqPoolPage_en k) = false → vbit v 31 = true → Next (.poolEnable k o v) s (fun t =>
        t.on (F.reqPoolPage_en k) = true ∧ t.get (F.reqPoolPage_page_units k) = vbits v 23 0 ∧
        t.get (F.reqPoolFree_free k) = s.get (F.reqPoolN_npages k) - 1 - s.poolHeld k ∧
        t.mem = (s.writeAt base (List.replicate (256 * vbits v 23 0) 0)).mem ∧
        KeepsRegs [F.reqPoolPage_en k, F.reqPoolPage_page_units k, F.reqPoolFree_free k] s t ∧ t.quads = s.quads ∧
        t.pages = s.pages ∧ t.req = s.req)) ∧
      (s.on (F.reqPoolPage_en k) = true → vbit v 31 = false → Next (.poolEnable k o v) s (fun t =>
        if s.poolInUse k = false then
          t.on (F.reqPoolPage_en k) = false ∧ KeepsRegs [F.reqPoolPage_en k] s t ∧ t = { s with regs := t.regs }
        else t = s))) ∧
    (vbit v 31 = true → Next (.prefixEnableWrite o v) s (fun t => t.on F.reqPfxCfg_en = true ∧ t = { s with regs := t.regs } ∧
      t.get F.reqPfxCfg_log2nodes = if s.on F.reqPfxCfg_en then s.get F.reqPfxCfg_log2nodes else vbits v 4 0)) ∧
    (vbit v 31 = false → Next (.prefixEnableWrite o v) s (fun t => t.on F.reqPfxCfg_en = false ∧ t.req.handles = [] ∧
      (∀ i, nget t.req.nodes none i = none) ∧ t.mem = s.mem ∧ t.quads = s.quads ∧ t.log = s.log))

/-- Batches are placed, emitted tokens reach the output ring, and deadlines are noted (12_serving.md). -/
def Obligations.BatchesAndEmits : Prop :=
  (∀ (s : State) (g : Fin 256) (r : BatchReads) (full : Bool) (b : List (List Byte)),
    let u := s.settleReq.notePrompts r.prompts
    let x := u.group g
    let d := u.svc x.service
    let rows := u.nextRows g r.prompts full
    let y := if svEmb d = 0xFFFF then (u, Except.ok [], r.gather) else gatherRows d rows r.gather u
    let w := rows.foldl (fun t r => t.needPos (r.id.toNat % 65536) r.pos) y.1
    (∀ e ∈ batchParts d x.entry x.placed, u.migHolds e.1 e.2 = false) → rows ≠ [] → u.promptBad r.prompts rows = none →
    y.2.1 = .ok b → w.patchBad d x.entry = false →
    Next (if full then .batchPlace g r else .prefillWaitExpire g r) s (fun t =>
      (t.group g).placed = x.placed + 1 ∧ (t.group g).batches.getLast? = some ⟨x.placed, rows, false⟩ ∧
      t.get (F.reqGrpStat_placed g) = (x.placed + 1) % 2 ^ 24 ∧ t.mem = (w.writeBatch g x.placed d x.entry rows b).mem ∧
      t.log = y.1.log)) ∧
  (∀ (s : State) (g : Fin 256) (ringErr : List (BitVec 32)) (bad : List Nat),
    let x := s.group g
    let d := s.svc x.service
    (x.emits = [] → Next (.emit g ringErr bad) s (fun t => t = { s with req := { s.req with bad := bad } })) ∧
    (∀ (n : Nat) (rest : List Nat), x.emits = n :: rest → d ≠ [] →
      let a := grBase d x.entry + n % grNbuf d x.entry * grStride d x.entry + grEmitOff d x.entry
      let recs := ((List.range (grTmax d x.entry)).map fun k => s.bytesAt (a + 128 * k) 128).filter fun r => decide (emId r ≠ 0)
      ((∀ b ∈ x.batches, b.n = n → b.emitted = true) → Next (.emit g ringErr bad) s (fun t =>
        t.get F.reqDrop_discarded = (s.get F.reqDrop_discarded + recs.length) % 2 ^ 32 ∧
        t.group g = { x with emits := rest } ∧ t.req.entries = s.req.entries ∧ KeepsRegs [F.reqDrop_discarded] s t ∧
        t = { s with regs := t.regs, req := t.req })) ∧
      (∀ (b : Batch) (r : List Byte) (w : Row), (x.batches.find? fun b => decide (b.n = n) && !b.emitted) = some b → recs = [r] →
        let i := emId r % 65536
        let e := s.entryOf i
        let mine := b.rows.filter fun y => decide (y.id.toNat = emId r) && !y.dead
        let tok := emToken r 0
        let ring := rdRing e.desc
        let fails := fun (a n : Nat) => (s.hostIs bad).hostFails a n
        e.gen.toNat = emId r / 65536 → e.state = 4 → e.tFirst.isSome = true → mine.find? (·.sample) = some w →
        emPos r = w.pos + 1 → emN r = 1 → emNd r ≤ svDmax d → stopToken e.stop tok = false →
        stopSequence e.stop (e.tokens ++ [tok]) = none → e.written + 1 < rdMaxNew e.desc → rdTime e.desc = 0 →
        (∀ z ∈ ringErr, z.toNat ≠ emId r) → fails (ring + 64 + e.tail * 16) 16 = false → fails (ring + 4) 4 = false →
        Next (.emit g ringErr bad) s (fun t => (t.entryOf i).tail = (e.tail + 1) % 2 ^ rdLog2ring e.desc ∧
          (t.entryOf i).written = e.written + 1 ∧ (t.entryOf i).len = emPos r ∧ (t.entryOf i).input = some tok ∧
          (t.entryOf i).state = 4 ∧ (t.entryOf i).tLast = s.now ∧ (t.group g).emits = rest ∧
          (∀ y ∈ (t.group g).batches, y.n = n → y.emitted = true) ∧
          (∀ k, k < 4 → nget t.hostMem 0 (ring + 64 + e.tail * 16 + k) = (leBytes 4 tok.toNat).getD k 0) ∧
          t.mem = s.mem ∧ t.quads = s.quads)))) ∧
  (∀ (s : State) (bad : List Nat), Next (.deadlineScan bad) s (fun t => t.mem = s.mem ∧ t.quads = s.quads ∧
    ∀ i ∈ nkeys s.req.entries,
      let e := s.entryOf i
      2 ≤ e.state → e.state < 5 → rdTtft e.desc ≠ 0 → e.tFirst = none → rdTtft e.desc ≤ s.now - e.tAccept →
      (t.entryOf i).ttftMiss = true ∧
      (e.ttftMiss = false → rdPolicy e.desc % 4 = 1 → (t.entryOf i).state = 5 ∨ (t.entryOf i).state = 1)))

/-- Chords train through their states and fall back as the rules say (14_chords.md). -/
def Obligations.ChordTraining : Prop :=
  ∀ (s : State) (k : Fin 64) (o : Orig) (v : Lane), isPf o = true → NoRemote s → s.admitted = [] →
    let st := s.get (F.chdLinkStat_state k)
    let quiet := fun (n : Nat) (t : State) => t.get (F.chdLinkStat_state k) = n ∧ t.log = s.log ∧ t.mem = s.mem ∧
      t.quads = s.quads ∧ ∀ j : Fin 64, j ≠ k → t.get (F.chdLinkStat_state j) = s.get (F.chdLinkStat_state j)
    let drop := !vbit v 31 || vbit v 30 || decide (vbits v 29 28 = 1) || decide (vbits v 29 28 = 2)
    let ctl := fun (t : State) => t.get (F.chdLinkCtl_en k) = vbits v 31 31 ∧ t.get (F.chdLinkCtl_test k) = vbits v 29 28 ∧
      (drop = false → quiet st t) ∧
      (drop = true → t.get (F.chdLinkStat_state k) = 0 ∧ t.get (F.chdLinkStat_version k) = 0 ∧
        (st ≠ 5 → quiet 0 t) ∧
        (st = 5 → LogAt s t 0 0x9020 clsE none 0 k ∧ LogAt s t 1 0x9021 clsE none 0 0 ∧
          t.get F.ecuLogTail_seq = (s.get F.ecuLogTail_seq + 2) % 2 ^ 32 ∧ t.mem = s.mem ∧ t.quads = s.quads))
    Next (.chordLinkEnWrite k o v) s ctl ∧ Next (.retrain k o v) s ctl ∧ Next (.chordTestSelect k o v) s ctl ∧
    (vbit v 31 = true → Next (.chordCfgEnWrite o v) s (fun t => t.on F.chdCfg_en = true ∧ KeepsRegs [F.chdCfg_en] s t ∧
      t = { s with regs := t.regs })) ∧
    (vbit v 31 = false → Next (.chordCfgEnWrite o v) s (fun t => t.on F.chdCfg_en = false ∧
      ∀ j, j < 64 → t.get (F.chdLinkStat_state j) = 0 ∧ t.get (F.chdLinkStat_version j) = 0)) ∧
    (∀ lanes : Byte, s.mayTrain k = false → Next (.chordTrainAdvance k lanes) s (fun t => t = s)) ∧
    (∀ lanes : Byte, lanes ≠ 0xFF → s.mayTrain k = true → Next (.chordTrainAdvance k lanes) s (fun t => t =
      if st = 0 then s.set (F.chdLinkStat_lanes_ok k) lanes.toNat else s)) ∧
    (s.mayTrain k = true →
      (st < 3 → Next (.chordTrainAdvance k 0xFF) s (fun t => quiet (st + 1) t ∧
        t.get (F.chdLinkStat_trains k) = (if st = 0 then min (s.get (F.chdLinkStat_trains k) + 1) 255 else s.get (F.chdLinkStat_trains k)) ∧
        t = { s with regs := t.regs })) ∧
      (∀ n, (s.link k).version = some n → n = 3 →
        (st = 3 → Next (.chordTrainAdvance k 0xFF) s (quiet 4)) ∧
        (st = 4 → Next (.chordTrainAdvance k 0xFF) s (fun t => t.get (F.chdLinkStat_state k) = 5 ∧
          t.get (F.chdLinkStat_version k) = n ∧ Logs s t 0x9022 clsN none 0 k ∧ t.quads = s.quads)))) ∧
    (∀ (lo hi : Byte) (pkg : BitVec 12) (gen : Byte) (port : BitVec 6), st = 3 →
      let ok := fun (n : Nat) => decide (lo.toNat ≤ n) && decide (n ≤ hi.toNat) && decide (s.get F.chdCfg_ver_min ≤ n) &&
        decide (n ≤ s.get F.chdCfg_ver_max)
      Next (.capabilityFlit k lo hi pkg gen port) s (fun t =>
        if ok 3 || ok 2 then (t.link k).version = some (if ok 3 then 3 else 2) ∧ quiet 3 t
        else t.get (F.chdLinkStat_state k) = 6 ∧ Logs s t 0x9020 clsE none 0 k)) ∧
    (1 ≤ st → st < 5 → Next (.chordTrainBoundExpire k) s (fun t =>
      if (s.link k).bounds < 2 then quiet 0 t ∧ (t.link k).bounds = (s.link k).bounds + 1
      else t.get (F.chdLinkStat_state k) = 6 ∧ Logs s t 0x9020 clsE none 0 k)) ∧
    (st = 6 → Next (.chordFailedRetrain k) s (quiet 0)) ∧
    (∀ lane : Fin 8, 1 ≤ st → st < 5 → Next (.chordLightLoss k lane) s (fun t => quiet 0 t ∧
      ∀ i, i < 8 → bit (t.get (F.chdLinkStat_lanes_ok k)) i = (bit (s.get (F.chdLinkStat_lanes_ok k)) i && decide (i ≠ lane)))) ∧
    (∀ dist : BitVec 12, s.get (F.chdLinkCtl_test k) = 2 → Next (.reflectometryDone k dist) s (fun t =>
      t.get (F.chdRefl_dist k) = dist.toNat ∧ t.get (F.chdRefl_dist_valid k) = 1 ∧
      KeepsRegs [F.chdRefl_dist k, F.chdRefl_dist_valid k] s t ∧ t = { s with regs := t.regs })) ∧
    (∀ lane : Fin 512, Next (.prbsCheckEnable lane o v) s (fun t => t.on (F.chdPrbsCtl_chk_en lane) = vbit v 30 ∧
      t.get (F.chdPrbsCtl_poly lane) = vbits v 29 28 ∧ t.get (F.chdPrbsCtl_lock lane) = 0 ∧
      (vbit v 30 = true → t.get (F.chdPrbsErr_errors lane) = 0 ∧ t.get (F.chdPrbsBits_kbits lane) = 0) ∧
      KeepsRegsAt (fun a => 0x604000 + lane * 0x10 ≤ a ∧ a < 0x604010 + lane * 0x10) s t ∧ t = { s with regs := t.regs }) ∧
      ∀ e n : BitVec 32, s.get (F.chdLinkCtl_test (lane / 8)) = 1 → s.on (F.chdPrbsCtl_chk_en lane) = true →
        Next (.prbsCheckerLock lane e n (s.on (F.chdPrbsCtl_lock lane))) s (fun t => t.get (F.chdPrbsCtl_lock lane) = 1 ∧
          t.get (F.chdPrbsErr_errors lane) = (if s.on (F.chdPrbsCtl_lock lane) then
            min (s.get (F.chdPrbsErr_errors lane) + e.toNat) (2 ^ 32 - 1) else s.get (F.chdPrbsErr_errors lane)) ∧
          KeepsRegs [F.chdPrbsCtl_lock lane, F.chdPrbsErr_errors lane, F.chdPrbsBits_kbits lane] s t ∧ t = { s with regs := t.regs }))

/-- A WRITE packet is committed once, refused with its cause, or dropped (14_chords.md). -/
def Obligations.WritePackets : Prop :=
  ∀ (s : State) (k : Fin 64) (hdr : BitVec 512) (data : List (BitVec 2048)),
    let p := rxPkt hdr data
    s.get (F.chdLinkStat_state k) = 5 → s.on F.ecuStat_halted = false → p.type = 1 → p.dst = s.get F.chdPkgId_pkg →
    p.data.length = p.nwords * 256 →
    let room := (s.chordFor p.src (p.tag % 2 ^ 20) (s.on (F.chdPartCrypt_req p.part))).isSome
    let answered := fun (t : State) => t.mem = s.mem ∧ t.pages = s.pages ∧
      t.sent.length = s.sent.length + (if room then 1 else 0)
    (s.get (F.chdPeer_state p.src) = 2 → Next (.writePacket k hdr data) s (fun t =>
      t.get F.chdDrop_quarantined = (s.get F.chdDrop_quarantined + 1) % 2 ^ 32 ∧ KeepsRegs [F.chdDrop_quarantined] s t ∧
      t = { s with regs := t.regs })) ∧
    (s.get (F.chdPeer_state p.src) = 1 → s.genStale k p = false →
      (s.chord.kept.contains (p.src, p.tag) = true → Next (.writePacket k hdr data) s (fun t => answered t ∧ t.quads = s.quads ∧
        t.get F.chdErr_dup = (s.get F.chdErr_dup + 1) % 2 ^ 32 ∧ KeepsRegs [F.chdErr_dup] s t ∧ t.log = s.log)) ∧
      (s.chord.kept.contains (p.src, p.tag) = false →
        (s.writeCause k p = 0 → p.cnt = 1 → bit p.flags 2 = false → (s.quad p.quad).inbox = [] →
          (∀ r ∈ s.chord.rx, r.pkg ≠ p.src ∨ r.tag ≠ p.tag) →
          Next (.writePacket k hdr data) s (fun t => answered t ∧ t.regs = s.regs ∧ t.log = s.log ∧
            (p.src, p.tag) ∈ t.chord.kept ∧ KeepsQuads [p.quad] s t ∧
            t.quads = (s.commitPkt k p ((s.openPkt k p).getD [])).quads)) ∧
        (s.writeCause k p ≠ 0 → s.writeCause k p ≠ 4 → Next (.writePacket k hdr data) s (fun t => answered t ∧
          t.quads = s.quads ∧ t.regs = s.regs ∧ t.log = s.log ∧ t.chord.kept = s.chord.kept)) ∧
        (s.writeCause k p = 4 → Next (.writePacket k hdr data) s (fun t => answered t ∧ t.quads = s.quads ∧
          t.get F.chdErr_auth = (s.get F.chdErr_auth + 1) % 2 ^ 32 ∧
          ((s.peerOf p.src).adm ≠ 0 → (s.peerOf p.src).logged = false → Logs s t 0x9060 clsN (some p.part) 0 p.src)))))

/-- ACK, NACK, PROBE, MGMT and port packets act on what they name (14_chords.md). -/
def Obligations.AnswerPackets : Prop :=
  ∀ (s : State) (k : Fin 64) (hdr : BitVec 512),
    let p := rxPkt hdr []
    let g := p.tag % 2 ^ 20
    let here := s.get (F.chdLinkStat_state k) = 5 ∧ s.on F.ecuStat_halted = false ∧ p.dst = s.get F.chdPkgId_pkg ∧ p.nwords = 0
    let good := here ∧ s.get (F.chdPeer_state p.src) = 1 ∧ s.genStale k p = false ∧ (s.openPkt k p).isSome = true
    (∀ (x : Trans) (id : Nat) (d : Desc), good → p.type = 2 → s.chord.trans = [(g, some x)] → x.pkg = p.src →
      p.tag / 2 ^ 20 = nget s.chord.gens 0 g → (s.quad x.q).desc id = some d → d.remote = true → d.uid = x.uid → d.redo = [] →
      d.next = descTotal d.bits → d.acked + x.data.length = descTotal d.bits →
      (∀ q i e, (s.quad q).desc i = some e → e.remote = true → q = x.q ∧ i = id) →
      Next (.ackPacket k hdr) s (fun t => t.trans g = none ∧ nget t.chord.gens 0 g = (nget s.chord.gens 0 g + 1) % 256 ∧
        nget t.chord.holds false g = true ∧
        (t.quad x.q).desc id = some { d with acked := descTotal d.bits, pos := descPositions d.bits } ∧ KeepsQuads [x.q] s t ∧
        t = { s with quads := t.quads, chord := t.chord })) ∧
    (∀ x : Trans, good → p.type = 3 → s.trans g = some x → x.pkg = p.src → p.tag / 2 ^ 20 = nget s.chord.gens 0 g →
      (p.cause = 1 → s.get (F.seqPreStat_phase x.q) < 2 → Next (.nackPacket k hdr) s (fun t =>
        t.trans g = some { x with busy := true } ∧ (∀ j, j ≠ g → t.trans j = s.trans j) ∧ t = { s with chord := t.chord })) ∧
      (∀ code, (p.cause, code) ∈ [(2, 0x9051), (3, 0x9052), (4, 0x9060), (6, 0x9053)] → x.busy = false →
        Next (.nackPacket k hdr) s (fun t => t.cmdOf x.q x.slot = none ∧ t.mem = s.mem ∧
          ∀ c, s.cmdOf x.q x.slot = some c → s.consumerGroups x.q (s.image x.q) c = [] → s.partner x.q = none →
            Logs s t code clsR (some x.part) 0 x.pkg ∧ (x.slot < 8 → t.get (F.seqCqDone_code x.q x.slot) = code)))) ∧
    (good → p.type = 4 → NoRemote s → Next (.probePacket k hdr) s (fun t =>
      nget (t.peerOf p.src).out 0 (k / 32) = nget (s.peerOf p.src).out 0 (k / 32) - p.credits ∧
      (∀ j, j ≠ p.src → t.peerOf j = s.peerOf j) ∧ t = { s with chord := t.chord })) ∧
    (∀ (data : List (BitVec 2048)) (b : List Byte), s.get (F.chdLinkStat_state k) = 5 → s.on F.ecuStat_halted = false →
      (rxPkt hdr data).type = 5 → (rxPkt hdr data).dst = s.get F.chdPkgId_pkg →
      (rxPkt hdr data).data.length = (rxPkt hdr data).nwords * 256 → s.get (F.chdPeer_state p.src) ≠ 2 →
      s.openPkt k (rxPkt hdr data) = some b →
      Next (.mgmtPacket k hdr data) s (fun t => t.chord.mgmt = s.chord.mgmt ++ [(p.src, b)] ∧ t = { s with chord := t.chord })) ∧
    (s.get (F.chdLinkStat_state k) = 5 → s.on F.ecuStat_halted = false →
      let sw := p.fld 0xF 1 % 64
      (p.type = 6 → Next (.portDown k hdr) s (fun t => bit (nget t.chord.down 0 p.src) sw = true ∧ t.mem = s.mem)) ∧
      (p.type = 7 → NoRemote s → Next (.portUp k hdr) s (fun t => bit (nget t.chord.down 0 p.src) sw = false ∧
        (∀ i, i ≠ sw → bit (nget t.chord.down 0 p.src) i = bit (nget s.chord.down 0 p.src) i) ∧ t = { s with chord := t.chord }))) ∧
    (s.get (F.chdLinkStat_state k) = 5 → (s.link k).fails < 2 → Next (.codewordReceive k none 0) s (fun t =>
      t.get (F.chdFecCnt_uncorrectable k) = (s.get (F.chdFecCnt_uncorrectable k) + 1) % 2 ^ 32 ∧ (t.link k).replay = true ∧
      (t.link k).fails = (s.link k).fails + 1 ∧ t.quads = s.quads ∧
      ((s.link k).logged = false → Logs s t 0x9011 clsC none 0 ((s.link k).seq.getD 0)))) ∧
    (∀ (h : BitVec 20), s.get (F.chdLinkStat_state k) = 5 → (s.link k).flits = [] → crc8 (h.toNat / 256) = h.toNat % 256 →
      (s.link k).seq = none ∨ (s.link k).seq = some (h.toNat / 256) →
      Next (.codewordReceive k (some (h, List.replicate 10 0)) 0) s (fun t =>
        (t.link k).seq = some ((h.toNat / 256 + 1) % 4096) ∧ (t.link k).replay = false ∧ t = { s with chord := t.chord, regs := t.regs } ∧
        KeepsRegs [F.chdFecCnt_corrected k] s t))

/-- Transactions time out, and peers are admitted, lost and quarantined (14_chords.md). -/
def Obligations.ChordTimersAndPeers : Prop :=
  (∀ (s : State) (slot : BitVec 20) (x : Trans), s.trans slot.toNat = some x →
    (x.busy = false → x.chord.isSome = true → x.packets ≤ x.sent → 3 ≤ x.sends → Next (.transactionAckTimeout slot) s (fun t =>
      t.cmdOf x.q x.slot = none ∧ t.mem = s.mem ∧ ∀ c, s.cmdOf x.q x.slot = some c → s.consumerGroups x.q (s.image x.q) c = [] → s.partner x.q = none →
        Logs s t 0x9050 clsR (some x.part) 0 x.pkg ∧ (x.slot < 8 → t.get (F.seqCqDone_code x.q x.slot) = 0x9050))) ∧
    (∀ c, s.keyEmpty x.part x.key = false → s.chordFor x.pkg slot.toNat x.key.isSome = some c →
      (x.busy = false → x.chord.isSome = true → x.packets ≤ x.sent → x.sends < 3 → Next (.transactionAckTimeout slot) s (fun t =>
        (t.trans slot.toNat).map (fun y => (y.chord, y.sends, y.data)) = some (some c, x.sends + 1, x.data) ∧
        t = { s with chord := t.chord, sent := t.sent })) ∧
      (x.busy = true → Next (.busyResend slot) s (fun t =>
        (t.trans slot.toNat).map (fun y => (y.chord, y.sends, y.data)) = some (some c, x.sends, x.data) ∧
        t = { s with chord := t.chord, sent := t.sent })))) ∧
  (∀ (s : State) (slot : BitVec 20) (pkg : BitVec 12) (tag : BitVec 28),
    (NoRemote s → Next (.tagSlotHoldExpire slot) s (fun t => nget t.chord.holds false slot.toNat = false ∧
      t = { s with chord := { s.chord with holds := t.chord.holds } })) ∧
    Next (.keptTagExpire pkg tag) s (fun t => (pkg.toNat, tag.toNat) ∉ t.chord.kept ∧
      (∀ e ∈ s.chord.kept, e ≠ (pkg.toNat, tag.toNat) → e ∈ t.chord.kept) ∧
      t = { s with chord := { s.chord with kept := t.chord.kept } })) ∧
  (∀ (s : State) (rim : Fin 2) (p : Nat), NoRemote s → s.admitted = [p] → s.effMask p false ≠ [] →
    Next (.probeSend rim) s (fun t => (∃ m, t.sent = s.sent ++ [m] ∧ m.dest = p) ∧
      nget (t.peerOf p).owe 0 rim = nget (s.peerOf p).owe 0 rim - 255 ∧ t = { s with chord := t.chord, sent := t.sent })) ∧
  (∀ (s : State) (pkg : BitVec 12) (gen : Byte),
    let p := pkg.toNat
    let v := fun (op : Nat) => BitVec.ofNat 32 (2 ^ 31 + op * 2 ^ 28 + gen.toNat * 2 ^ 20 + p)
    let ctl := [F.chdPeerCtl_op, F.chdPeerCtl_gen, F.chdPeerCtl_pkg, F.chdPeerCtl_status]
    let lost := fun (t : State) => t.get (F.chdPeer_state p) = 2 ∧ (t.peerOf p).adm = 0 ∧ Logs s t 0x9030 clsN none 0 p ∧
      t.quads = s.quads ∧ t.mem = s.mem
    (s.get (F.chdPeer_state p) = 0 → s.get (F.secPeerAtt_result p) = 1 → s.get (F.secPeerAtt_age_ms p) ≤ 10000 →
      Next (.peerAdmit .pf (v 1)) s (fun t => t.get (F.chdPeer_state p) = 1 ∧ t.get (F.chdPeer_gen p) = gen.toNat ∧
        t.get F.chdPeerCtl_status = 1 ∧ (t.peerOf p).adm = s.chord.admissions + 1 ∧
        KeepsRegs (ctl ++ [F.chdPeer_state p, F.chdPeer_gen p]) s t ∧ t = { s with regs := t.regs, chord := t.chord })) ∧
    (s.get (F.chdPeer_state p) = 0 → s.get (F.secPeerAtt_result p) ≠ 1 ∨ 10000 < s.get (F.secPeerAtt_age_ms p) →
      Next (.peerAdmit .pf (v 1)) s (fun t => t.get F.chdPeerCtl_status = 3 ∧ KeepsRegs ctl s t ∧ t = { s with regs := t.regs })) ∧
    Next (.peerAdmit .mc (v 1)) s (fun t => t.get F.chdPeerCtl_status = 4 ∧ KeepsRegs ctl s t ∧ t = { s with regs := t.regs }) ∧
    (s.get (F.chdPeer_state p) = 1 → NoRemote s → s.boundTo p (s.peerOf p).adm = [] →
      Next (.peerSilenceTimeout pkg) s lost ∧
      Next (.peerEvict .pf (v 2)) s (fun t => lost t ∧ t.get F.chdPeerCtl_status = 1)) ∧
    (s.get (F.chdPeer_state p) ≠ 1 → Next (.peerEvict .pf (v 2)) s (fun t => t.get F.chdPeerCtl_status = 5 ∧
      KeepsRegs ctl s t ∧ t = { s with regs := t.regs })) ∧
    (s.get (F.chdPeer_state p) = 2 → Next (.peerQuarantineExpire pkg) s (fun t => t.get (F.chdPeer_state p) = 0 ∧
      KeepsRegs [F.chdPeer_state p] s t ∧ t = { s with regs := t.regs })))

/-- A fenced quadrant has no section and no command; readmission resets it (15_containment.md). -/
def Obligations.FencesAndReadmission : Prop :=
  ∀ (s : State) (o : Orig) (q : Fin 32) (op : Nat), isPf o = true → s.on F.ecuFenceCtl_busy = false →
    let v := BitVec.ofNat 32 (2 ^ 31 + op * 2 ^ 28 + q)
    let out := fun (t : State) => t.fenced q = true ∧ (t.quad q).committed = none ∧ (∀ n, t.cmdOf q n = none) ∧ t.mem = s.mem
    let turned := fun (t : State) => t.get F.ecuFenceCtl_status = 2 ∧ t = { s with regs := t.regs } ∧
      KeepsRegs [F.ecuFenceCtl_op, F.ecuFenceCtl_quadrant, F.ecuFenceCtl_status] s t
    (op = 1 → s.active q = true → s.fenced q = false → Next (.fence o v) s (fun t => out t ∧ t.get F.ecuFenceCtl_status = 1)) ∧
    (op = 1 → s.active q = false ∨ s.fenced q = true → Next (.fence o v) s turned) ∧
    (op = 2 → s.fenced q = false → Next (.readmit o v) s turned) ∧
    (op = 2 → s.fenced q = true → Next (.readmit o v) s (fun t => t.get F.ecuFenceCtl_busy = 1 ∧ t.get F.ecuFenceCtl_status = 0 ∧
      t.ecu = { s.ecu with readmit := some q.val } ∧ t = { s with regs := t.regs, ecu := t.ecu } ∧
      KeepsRegs [F.ecuFenceCtl_op, F.ecuFenceCtl_quadrant, F.ecuFenceCtl_status, F.ecuFenceCtl_busy] s t)) ∧
    (s.active q = true → s.fenced q = false → Next (.quadrantFault q) s out) ∧
    (s.active q = false ∨ s.fenced q = true → Next (.quadrantFault q) s (fun t => t = s)) ∧
    (s.ecu.readmit = some q.val → s.fenced q = true →
      Next (.readmitSelftestComplete q true) s (fun t => t.fenced q = false ∧ (t.quad q).committed = none ∧ (t.quad q).slots = [] ∧
        (t.quad q).fnStore = Quad.init.fnStore ∧ (∀ site, ((t.quad q).lat.sector site).sram = []) ∧
        t.get F.ecuFenceCtl_status = 1 ∧ t.ecu.readmit = none ∧ KeepsQuads [q.val] s t ∧ t.mem = s.mem ∧
        Logs s t 0xA011 clsN none 0 0) ∧
      Next (.readmitSelftestComplete q false) s (fun t => t.fenced q = true ∧ t.get F.ecuFenceCtl_status = 4 ∧
        t.ecu = { s.ecu with readmit := none } ∧ Logs s t 0xA012 clsN none 0 0 ∧
        t = { s with regs := t.regs, ecu := t.ecu, log := t.log }))

/-- A failed element is retired once, and what uses it ends (15_containment.md). -/
def Obligations.ElementFaults : Prop :=
  ∀ s : State,
    let unused := fun (u : Nat) => (∀ q n, s.cmdTouches q n (fun v _ => decide (v = u)) = false) ∧
      (∀ e ∈ s.req.entries, s.reqTouches e.2 (fun v _ => decide (v = u)) = false) ∧ s.migrations = [] ∧ s.ecu.tableFail = false
    (∀ n : Fin 14, bit (s.get F.ecuSeam_retired) n = false → (∀ q, q < 32 → s.sectionCrosses q (fun k => decide (k = n.val)) = false) →
      (s.retireSeam n).allRouted = true → Next (.seamFault n) s (fun t => Logs s t 0xA020 clsE none 0 n ∧
        (∀ k, k < 14 → bit (t.get F.ecuSeam_retired) k = (bit (s.get F.ecuSeam_retired) k || decide (k = n.val))) ∧
        KeepsRegs (F.ecuSeam_retired :: logRegs) s t ∧ t = { s with regs := t.regs, log := t.log })) ∧
    (∀ n : Fin 14, bit (s.get F.ecuSeam_retired) n = true → Next (.seamFault n) s (fun t => t = s)) ∧
    (∀ d : Fin 12, s.on (F.ecuStk_dev_retired d) = false → unused (8 + d) → d ≠ 6 → d ≠ 9 →
      Next (.stackDeviceFault d) s (fun t => t.on (F.ecuStk_dev_retired d) = true ∧ t.get (F.strFrameFree_total (8 + d)) = 0 ∧
        t.get (F.strFrameFree_free (8 + d)) = 0 ∧ Logs s t 0xA022 clsE none 0 d ∧
        t = { s with regs := t.regs, log := t.log, evict := t.evict } ∧
        KeepsRegs ([F.ecuStk_dev_retired d, F.strFrameFree_total (8 + d), F.strFrameFree_free (8 + d)] ++ logRegs) s t) ∧
      ∀ ch : Fin 32, (s.on (F.ecuStk_ch_retired d) = false → Next (.stackChannelFault d ch) s (fun t =>
          t.on (F.ecuStk_ch_retired d) = true ∧ t.get (F.ecuStk_channel d) = ch ∧ t.on (F.ecuStk_dev_retired d) = false ∧
          Logs s t 0xA021 clsE none 0 ch ∧ t = { s with regs := t.regs, log := t.log, evict := t.evict })) ∧
        (s.on (F.ecuStk_ch_retired d) = true → s.get (F.ecuStk_channel d) ≠ ch → Next (.stackChannelFault d ch) s (fun t =>
          t.on (F.ecuStk_dev_retired d) = true ∧ Logs s t 0xA022 clsE none 0 d)) ∧
        (s.on (F.ecuStk_ch_retired d) = true → s.get (F.ecuStk_channel d) = ch → Next (.stackChannelFault d ch) s (fun t => t = s))) ∧
    (∀ d : Fin 12, s.on (F.ecuStk_dev_retired d) = true → Next (.stackDeviceFault d) s (fun t => t = s)) ∧
    (∀ f : Fin 8, bit (s.get F.ecuFacet_retired) f = false → Next (.facetFault f) s (fun t =>
      bit (t.get F.ecuFacet_retired) f = true ∧ (∀ i, i < 4 → t.fenced (4 * f + i) = true ∧ (s.fenced (4 * f + i) = false → (t.quad (4 * f + i)).committed = none)) ∧
      t.get (F.strFrameFree_total f) = 0 ∧ t.get (F.strFrameFree_free f) = 0)) ∧
    (∀ f : Fin 8, bit (s.get F.ecuFacet_retired) f = true → Next (.facetFault f) s (fun t => t = s)) ∧
    (s.ecu.rimS = false → NoRemote s → s.admitted = [] → Next .rimSFault s (fun t => t.ecu.rimS = true ∧ t.ing.failed = true ∧
      (∀ k, 32 ≤ k → k < 64 → t.get (F.chdLinkStat_state k) = 0) ∧
      ∀ p, 4 ≤ p → p < 8 → t.unitFailed (20 + p) = true ∧
        (s.unitFailed (20 + p) = false → t.get (F.strFrameFree_total (20 + p)) = 0))) ∧
    (s.ecu.rimS = true → Next .rimSFault s (fun t => t = s)) ∧
    (∀ c : Code, s.on F.ecuStat_halted = false → Next (.packageFault c) s (fun t => t.on F.ecuStat_halted = true ∧
      (∀ q n, q < 32 → n < 8 → t.cmdOf q n = none) ∧
      (c.toNat / 4096 ≠ 8 → ∀ i, (t.entryOf i).state < 2 ∨ 5 ≤ (t.entryOf i).state))) ∧
    (∀ c : Code, s.on F.ecuStat_halted = true → Next (.packageFault c) s (fun t => t = s))

/-- Rows move to spare ones; log copies take what the ring holds; a mailbox write can end a cut (15_containment.md). -/
def Obligations.RepairsAndLog : Prop :=
  ∀ (s : State),
    (∀ (q : Fin 32) (site : BitVec 8) (row : BitVec 6), s.active q = true → s.fenced q = false → s.idle q = true →
      isSector q site.toNat = true → ((s.quad q).lat.sector site.toNat).spare ≠ 0 →
      Next (.sectorRowRepair q site row) s (fun t =>
        let x := (s.quad q).lat.sector site.toNat
        let y := (t.quad q).lat.sector site.toNat
        y.spare = x.spare - 1 ∧ y.sram = x.sram ∧ nget y.corrections 0 row.toNat = 0 ∧ KeepsQuads [q.val] s t ∧
          (∀ w, x.isBad w = true → y.isBad w = true) ∧ Logs s t 0xA024 clsE none 0 row.toNat ∧
          t = { s with quads := t.quads, regs := t.regs, log := t.log } ∧ KeepsRegs logRegs s t)) ∧
    (∀ (f : Fin 8) (frame : BitVec 12) (row : BitVec 8), bit (s.get F.ecuFacet_retired) f = false →
      frame.toNat < s.unitFrames f →
      (s.get (F.ecuSpare_base_rows f) ≠ 0 → Next (.baseRowRepair f frame row) s (fun t =>
        t.get (F.ecuSpare_base_rows f) = s.get (F.ecuSpare_base_rows f) - 1 ∧ t.mem = s.mem ∧
        Logs s t 0x3020 clsE none 0 (frame.toNat * 2 ^ 21 + row.toNat * 8192) ∧
        KeepsRegs (F.ecuSpare_base_rows f :: logRegs) s t ∧ t = { s with regs := t.regs, log := t.log, memBad := t.memBad })) ∧
      (s.get (F.ecuSpare_base_rows f) = 0 → nget s.ecu.badFrames false (frameKey f frame.toNat) = false →
        s.useOf f frame.toNat = .free → Next (.baseRowRepair f frame row) s (fun t => t.useOf f frame.toNat = .reserved ∧
          t.get (F.strFrameFree_total f) = s.get (F.strFrameFree_total f) - 1 ∧
          t.get (F.strFrameFree_free f) = s.get (F.strFrameFree_free f) - 1 ∧
          nget t.ecu.badFrames false (frameKey f frame.toNat) = true ∧ t.mem = s.mem ∧ t.log = s.log))) ∧
    (s.ticks / 25000 % 4 = 2 → s.ecu.copyB.busy = none → Next .logCommitB s (fun t =>
      t = { s with ecu := { s.ecu with copyB := { s.ecu.copyB with busy := some (s.get F.ecuLogTail_seq) } } })) ∧
    (s.ticks / 25000 % 4 ≠ 2 → Next .logCommitB s (fun t => t = s)) ∧
    (∀ (b : Bool) (e : Nat), (s.logCopy b).busy = some e →
      Next (.logCommitComplete b true) s (fun t => (t.logCopy b).busy = none ∧ (t.logCopy b).next = e ∧
        (t.logCopy b).commits = (s.logCopy b).commits + 1 ∧ t.logCopy (!b) = s.logCopy (!b) ∧
        t.get F.ecuLogDur_seq = min e (s.logCopy (!b)).next % 2 ^ 32 ∧
        (t.logCopy b).entries.length ≤ 131072 ∧ KeepsRegs [F.ecuLogDur_seq] s t ∧ t = { s with regs := t.regs, ecu := t.ecu }) ∧
      Next (.logCommitComplete b false) s (fun t => (t.logCopy b) = { s.logCopy b with busy := none } ∧
        t.logCopy (!b) = s.logCopy (!b) ∧ Logs s t 0xA0E0 clsN none 0 (if b then 1 else 0) ∧ KeepsRegs logRegs s t ∧
        t = { s with regs := t.regs, log := t.log, ecu := t.ecu })) ∧
    (∀ (q : Fin 32) (m : Fin 16) (o : Orig) (v : Lane), MayQuad s o q → Next (.seqMboxWrite q m o v) s (fun t =>
      t.get (F.seqMbox_value q m) = v.toNat ∧ KeepsRegs [F.seqMbox_value q m, F.ecuCutCtl_state] s t ∧ t = { s with regs := t.regs } ∧
      t.get F.ecuCutCtl_state = (if s.get F.ecuCutCtl_state = 4 ∧ bit (s.get F.ecuCutSet_quadrants) q = true ∧
        s.get F.ecuCutCtl_mailbox = m then 0 else s.get F.ecuCutCtl_state)))

/-- A cut waits at its gate, quiesces, is written and restored (15_containment.md). -/
def Obligations.ConsistentCut : Prop :=
  ∀ (s : State) (o : Orig) (v : Lane), isPf o = true → vbit v 31 = true →
    let op := vbits v 30 28
    let ctl := [F.ecuCutCtl_op, F.ecuCutCtl_mailbox, F.ecuCutCtl_state, F.ecuCutCtl_status, F.ecuCutCtl_code]
    let st := s.get F.ecuCutCtl_state
    let region := s.get F.ecuCutAddr_addr * 2 ^ 21
    let failed := fun (t : State) => t.get F.ecuCutCtl_state = 0 ∧ t.get F.ecuCutCtl_status = 3 ∧ t.get F.ecuCutCtl_code = 0xA041 ∧
      Logs s t 0xA041 clsN none 0 region ∧ KeepsRegs (ctl ++ logRegs) s t ∧
      (∀ e ∈ s.cutParts, nget t.ecu.cuts none e.2 = none) ∧
      t = { s with regs := t.regs, log := t.log, ecu := { s.ecu with cuts := t.ecu.cuts } }
    let refused := fun (t : State) => t.get F.ecuCutCtl_state = st ∧ t.get F.ecuCutCtl_status = 2 ∧
      t.get F.ecuCutCtl_code = 0xA041 ∧ Logs s t 0xA041 clsN none o.code.toNat region ∧ KeepsRegs (ctl ++ logRegs) s t ∧
      t = { s with regs := t.regs, log := t.log }
    (op = 1 → s.cutRefused o = true → Next (.cut o v) s refused) ∧
    (op = 1 → s.cutRefused o = false → Next (.cut o v) s (fun t => t.get F.ecuCutCtl_state = 1 ∧ t.get F.ecuCutCtl_status = 0 ∧
      t.get F.ecuCutCtl_code = 0 ∧ t.get F.ecuCutCtl_mailbox = vbits v 27 24 ∧ KeepsRegs ctl s t ∧ t = { s with regs := t.regs })) ∧
    (op = 3 → 1 ≤ st → Next (.cutAbandon o v) s failed) ∧ (op = 3 → st = 0 → Next (.cutAbandon o v) s refused) ∧
    (op = 2 → st ≠ 0 → Next (.cutRestore o v) s refused) ∧
    (∀ (e : Nat × Nat) (x : CutPart), op = 2 → st = 0 → s.cutParts = [e] → s.cutAt e.2 = some x →
      (s.set F.ecuCutCtl_mailbox (vbits v 27 24)).cutFits o x = true → Next (.cutRestore o v) s (fun t => t.get F.ecuCutCtl_status = 1 ∧
        (t.quad x.quad).chanArr = x.saved.chanArr ∧ (t.quad x.quad).chanRcp = x.saved.chanRcp ∧
        (∀ n ∈ gateSlots x.quad x.saved (vbits v 27 24), (t.cmdOf x.quad n).isSome = true) ∧
        (∀ n, n ∉ gateSlots x.quad x.saved (vbits v 27 24) → (t.quad x.quad).slot n = (s.quad x.quad).slot n) ∧
        KeepsQuads [x.quad] s t ∧ t.mem = s.mem ∧ t.log = s.log)) ∧
    (st = 1 → (∀ e ∈ s.cutParts, s.atCut e.1 = true) → Next .cutAllAtGate s (fun t => t.get F.ecuCutCtl_state = 2 ∧
      KeepsRegs ctl s t ∧ t = { s with regs := t.regs })) ∧
    (st = 2 → (∀ e ∈ s.cutParts, (s.quad e.1).descs = [] ∧ (s.quad e.1).timed = []) → s.chord.trans = [] → Next .cutQuiesced s (fun t => t.get F.ecuCutCtl_state = 3 ∧
      KeepsRegs ctl s t ∧ t = { s with regs := t.regs })) ∧
    (st = 3 → Next (.cutWritten true) s failed ∧ Next (.cutWritten false) s (fun t => t.get F.ecuCutCtl_state = 4 ∧
      t.get F.ecuCutCtl_status = 1 ∧ Logs s t 0xA040 clsN none 0 region ∧ KeepsRegs (ctl ++ logRegs) s t ∧
      (∀ e, s.cutParts = [e] → nget t.ecu.cuts none e.2 = s.cutPart e.1) ∧
      (∀ e x, s.cutParts = [e] → s.cutPart e.1 = some x →
        (∀ i, i < 256 → nget t.mem 0 (memKey (s.page e.2).unit (s.page e.2).frame i) = x.header.getD i 0) ∧
        KeepsMem (fun a => memKey (s.page e.2).unit (s.page e.2).frame 0 ≤ a ∧
          a < memKey (s.page e.2).unit (s.page e.2).frame 256) s t) ∧
      t = { s with regs := t.regs, log := t.log, mem := t.mem, ecu := { s.ecu with cuts := t.ecu.cuts } })) ∧
    ((st = 0 ∨ st = 4) → Next .cutAllAtGate s (fun t => t = s) ∧ Next .cutQuiesced s (fun t => t = s) ∧
      Next (.cutWritten false) s (fun t => t = s))

/-- Offsets without a register, and the block of a disabled quadrant, read as zero and drop writes (R7, R29). -/
def Obligations.UnlistedAndDisabledOffsets : Prop :=
  ∀ (s : State) (o : Orig) (v : Lane) (also : Option (Orig × Lane)),
    (∀ (q : Fin 32) (r : Nat) (n : Fin 8) (m : Fin 16) (w : Fin 2), r < 0x40000 → s.active q = false →
      let off := BitVec.ofNat 25 (quadBlock q + r)
      Next (.wideLowRead off o) s (fun t => t.readData = 0 ∧ t = { s with readData := 0 }) ∧
      (∀ p, p ≠ .chord → s.answering = true → Next (.mctpRegisterRead p off) s (fun t =>
        t = { s with sent := s.sent ++ [⟨pathCode p, 0, vdmHead ++ [0, 0, 0, 0]⟩] })) ∧
      Next (.registerWrite off o v also) s (fun t => t = { s with wideLatch := t.wideLatch }) ∧
      ∀ c ∈ [Instr.slotBind q n o v, .cqPush q n o v, .seqNflagWrite q n o v, .sectionLoad q o v, .hostCommit q o v,
          .sectionDiscard q o v, .fnInstall q o v, .seqMboxWrite q m o v, .wheelWrite q w o v, .saveOcc q o v, .restoreOcc q o v,
          .swapOcc q o v, .freeArea q o v, .digRingEnable q o v, .snap q o v], Next c s (fun t => t = s)) ∧
    (∀ off : BitVec 25, findReg off.toNat = none → ¬ (0x100200 ≤ off.toNat ∧ off.toNat < 0x100630) →
      ¬ (0x100700 ≤ off.toNat ∧ off.toNat < 0x100790) → ¬ (0x280000 ≤ off.toNat ∧ off.toNat < 0x2C0000) →
      ¬ (0x300040 ≤ off.toNat ∧ off.toNat < 0x300080) →
      Next (.wideLowRead off o) s (fun t => t.readData = 0 ∧ t = { s with readData := 0 }) ∧
      Next (.registerWrite off o v also) s (fun t => t = s))

/-- A quadrant changes owner only when empty, and is scrubbed before it does (16_security.md). -/
def Obligations.OwnersAndScrubs : Prop :=
  ∀ (s : State) (q : Fin 32) (o : Orig) (v : Lane), isPf o = true →
    let en := s.get (F.secQuadOwn_en q)
    let part := s.get (F.secQuadOwn_part q)
    let changes := vbits v 31 31 ≠ en ∨ vbits v 3 0 ≠ part
    let empty := (∀ n, n < 8 → s.ctxOf q n = none) ∧ (s.quad q).committed = none ∧ s.get (F.seqSecStat_shadow q) = 0 ∧
      (s.quad q).pre = none
    (s.on F.secLock_part_map = true → Next (.quadOwnerWrite q o v) s (fun t =>
      Logs s t 0xB0A1 clsN none o.code.toNat (0x1000C0 + q * 4) ∧ t.get F.secViol_count = min (s.get F.secViol_count + 1) 0xFFFF ∧
      t.get F.secViol_originator = o.code.toNat ∧ t.get F.secViolAddr_addr = 0x1000C0 + q * 4 ∧
      KeepsRegs ([F.secViol_count, F.secViol_originator, F.secViolAddr_addr] ++ logRegs) s t ∧
      t = { s with regs := t.regs, log := t.log, busViol := s.busViol ++ [(o.code.toNat, 0x1000C0 + q.val * 4)] })) ∧
    (s.on F.secLock_part_map = false → (s.quad q).scrub.isSome = true → Next (.quadOwnerWrite q o v) s (fun t =>
      t.quad q = { s.quad q with deferred := (s.quad q).deferred ++ [.quadOwnerWrite q o v] } ∧ KeepsQuads [q.val] s t ∧
      t = { s with quads := t.quads })) ∧
    (s.on F.secLock_part_map = false → (s.quad q).scrub = none →
      (changes → ¬ empty → Next (.quadOwnerWrite q o v) s (fun t => Logs s t 0xB0B1 clsN (s.owner q) o.code.toNat 0 ∧
        KeepsRegs logRegs s t ∧ t = { s with regs := t.regs, log := t.log })) ∧
      (changes → empty → en = 1 → Next (.quadOwnerWrite q o v) s (fun t =>
        t.quad q = { s.quad q with scrub := some v.toNat } ∧ KeepsQuads [q.val] s t ∧ t = { s with quads := t.quads })) ∧
      (¬ changes ∨ (empty ∧ en = 0) → Next (.quadOwnerWrite q o v) s (fun t => t.get (F.secQuadOwn_en q) = vbits v 31 31 ∧
        t.get (F.secQuadOwn_part q) = vbits v 3 0 ∧ KeepsRegs [F.secQuadOwn_en q, F.secQuadOwn_part q] s t ∧
        t = { s with regs := t.regs }))) ∧
    ((s.quad q).scrub = none → Next (.scrubComplete q) s (fun t => t = s)) ∧
    (∀ w, (s.quad q).scrub = some w → (s.quad q).deferred = [] → Next (.scrubComplete q) s (fun t =>
      t.get (F.secQuadOwn_en q) = bits w 31 31 ∧ t.get (F.secQuadOwn_part q) = bits w 3 0 ∧ (t.quad q).scrub = none ∧
      (∀ site, let x := (t.quad q).lat.sector site; x.sram = [] ∧ x.regs = [] ∧ x.base0 = 0 ∧ x.base1 = 0) ∧
      (∀ site, let p := (t.quad q).lat.prism site; p.acc = [] ∧ p.rf = []) ∧ (t.quad q).lat.edgeQ = [] ∧
      (∀ n, ((t.quad q).slot n).digD = 0 ∧ ((t.quad q).slot n).digN = 0) ∧ (t.quad q).chanArr = [] ∧ (t.quad q).chanRcp = [] ∧
      (∀ n, n < 8 → t.get (F.seqNflag_flags q n) = 0 ∧ ∀ i, i < 8 → t.get (F.seqShape_value q n i) = 0) ∧
      (∀ site ∈ prismSites q, t.get (F.latNflag_flags q site) = 0) ∧ (t.quad q).ctr = (s.quad q).ctr ∧
      (t.quad q).fnStore = (s.quad q).fnStore ∧ KeepsQuads [q.val] s t ∧ t = { s with quads := t.quads, regs := t.regs }))

/-- The rollback counter, the measurements, the key slots and far encryption change only as their commands say (16_security.md). -/
def Obligations.CountersMeasurementsAndKeys : Prop :=
  ∀ (s : State) (o : Orig) (v : Lane) (p : Fin 16) (n : Fin 64),
    (isPf o = true → vbit v 31 = true → Next (.svnCommit o v) s (fun t =>
      t.fuses.svn = max s.fuses.svn (min 64 (s.get F.secSvn_running)) ∧ (∀ i, s.fuses.svnBit i = true → t.fuses.svnBit i = true) ∧
      t.get F.secSvn_fused = t.fuses.svn ∧ KeepsRegs [F.secSvn_fused] s t ∧
      t = { s with regs := t.regs, fuses := { s.fuses with svnData := t.fuses.svnData, svnMark := t.fuses.svnMark } })) ∧
    (isPf o = true → vbit v 31 = true → 8 ≤ vbits v 3 0 → Next (.measExtend o v) s (fun t =>
      nget t.sec.meas 0 (vbits v 3 0) = Config.sha384 (leBytes 48 (nget s.sec.meas 0 (vbits v 3 0)).toNat ++ s.extBytes) ∧
      (∀ i, i ≠ vbits v 3 0 → nget t.sec.meas 0 i = nget s.sec.meas 0 i) ∧ KeepsRegs [F.secExtCtl_index] s t ∧
      t = { s with regs := t.regs, sec := { s.sec with meas := t.sec.meas } })) ∧
    (isPf o = true → vbit v 31 = true → vbits v 3 0 < 8 → Next (.measExtend o v) s (fun t =>
      Logs s t 0xB0B2 clsN none o.code.toNat (vbits v 3 0) ∧ KeepsRegs (F.secExtCtl_index :: logRegs) s t ∧
      t = { s with regs := t.regs, log := t.log })) ∧
    (let w := fun (op : Nat) => BitVec.ofNat 32 (2 ^ 31 + op * 2 ^ 28 + p * 256 + n)
     let ctl := [F.secKeyCtl_op, F.secKeyCtl_part, F.secKeyCtl_slot, F.secKeyCtl_status, F.secKeyAttr_kind n, F.secKeyAttr_part n]
     let holds := fun (t : State) (kind part : Nat) (k : BitVec 512) => t.get F.secKeyCtl_status = 1 ∧
       t.get (F.secKeyAttr_kind n) = kind ∧ t.get (F.secKeyAttr_part n) = part ∧ nget t.sec.keys 0 n = k ∧
       (∀ j, j ≠ n.val → nget t.sec.keys 0 j = nget s.sec.keys 0 j) ∧ (∀ e ∈ t.chord.counters, e.1 % 64 ≠ n.val) ∧
       KeepsRegs ctl s t ∧ t = { s with
         regs := t.regs, sec := { s.sec with keys := t.sec.keys }, chord := { s.chord with counters := t.chord.counters } }
     let fails := fun (t : State) (st : Nat) => t.get F.secKeyCtl_status = st ∧ Logs s t 0xB0E0 clsN (some p.val) o.code.toNat n ∧
       KeepsRegs ([F.secKeyCtl_op, F.secKeyCtl_part, F.secKeyCtl_slot, F.secKeyCtl_status] ++ logRegs) s t ∧
       t = { s with regs := t.regs, log := t.log }
     (s.actsFor o p = true → n.val ≠ 0 → s.keyBusy n p = false →
       (∀ k, s.unwrap p 32 = some k → Next (.installGcmKey o (w 1)) s (fun t => holds t 1 p (BitVec.ofNat 512 k))) ∧
       (∀ k, s.unwrap p 64 = some k → Next (.installXtsKey o (w 2)) s (fun t => holds t 2 p (BitVec.ofNat 512 k))) ∧
       (s.unwrap p 32 = none → Next (.installGcmKey o (w 1)) s (fun t => fails t 2)) ∧
       (s.unwrap p 64 = none → Next (.installXtsKey o (w 2)) s (fun t => fails t 2)) ∧
       Next (.eraseSlot o (w 3)) s (fun t => holds t 0 0 0)) ∧
     (s.actsFor o p = true → n.val ≠ 0 → s.keyBusy n p = true →
       ∀ c ∈ [Instr.installGcmKey o (w 1), .installXtsKey o (w 2), .eraseSlot o (w 3)], Next c s (fun t => fails t 3)) ∧
     (s.mayWrite o .perOp = true → s.actsFor o p = false ∨ n.val = 0 →
       ∀ c ∈ [Instr.installGcmKey o (w 1), .installXtsKey o (w 2), .eraseSlot o (w 3)], Next c s (fun t => fails t 4)) ∧
     (s.mayWrite o .perOp = true → isPf o = false → Next (.installKek o (w 4)) s (fun t => fails t 4)) ∧
     (isPf o = true → s.on F.secLock_kek = true → Next (.installKek o (w 4)) s (fun t => fails t 5)) ∧
     (isPf o = true → s.on F.secLock_kek = false →
       let key := Config.keyUnwrap (Config.ecdhDerive s.bootMeas (s.blob 0 96)) (s.blob 96 40)
       (key = none → Next (.installKek o (w 4)) s (fun t => fails t 2)) ∧
       ∀ b, key = some b → b.length = 32 → Next (.installKek o (w 4)) s (fun t => t.get F.secKeyCtl_status = 1 ∧
         nget t.sec.keks none p = some (BitVec.ofNat 256 (leNat b)) ∧
         (∀ j, j ≠ p.val → nget t.sec.keks none j = nget s.sec.keks none j) ∧
         (∀ k, k < 64 → if s.get (F.secKeyAttr_kind k) ≠ 0 ∧ s.get (F.secKeyAttr_part k) = p
           then t.get (F.secKeyAttr_kind k) = 0 ∧ nget t.sec.keys 0 k = 0
           else t.get (F.secKeyAttr_kind k) = s.get (F.secKeyAttr_kind k) ∧ nget t.sec.keys 0 k = nget s.sec.keys 0 k) ∧
         t.log = s.log ∧ t.mem = s.mem ∧ t.quads = s.quads))) ∧
    (let j := vbits v 5 0
     let open_ := s.farMapped p = false ∧ s.get (F.secKeyAttr_kind j) = 2 ∧ s.get (F.secKeyAttr_part j) = p
     (s.mayWrite o (.part (some p.val)) = true → s.on F.secLock_far_crypt = false →
       (open_ → Next (.farCryptWrite p o v) s (fun t => t.get (F.secFarCrypt_en p) = vbits v 31 31 ∧ t.get (F.secFarCrypt_slot p) = j ∧
         KeepsRegs [F.secFarCrypt_en p, F.secFarCrypt_slot p] s t ∧ t = { s with regs := t.regs })) ∧
       (¬ open_ → Next (.farCryptWrite p o v) s (fun t => Logs s t 0xB0E1 clsN (some p.val) o.code.toNat p ∧
         KeepsRegs logRegs s t ∧ t = { s with regs := t.regs, log := t.log }))) ∧
     (s.mayWrite o (.part (some p.val)) = true → s.on F.secLock_far_crypt = true → Next (.farCryptWrite p o v) s (fun t =>
       Logs s t 0xB0A1 clsN (s.onlyPart o) o.code.toNat (0x100140 + p * 4) ∧ t.get (F.secFarCrypt_en p) = s.get (F.secFarCrypt_en p) ∧
       t.get (F.secFarCrypt_slot p) = s.get (F.secFarCrypt_slot p) ∧ t.busViol = s.busViol ++ [(o.code.toNat, 0x100140 + p.val * 4)])))

/-- The responder answers in the order of the protocol, and a peer's attestation has one result (16_security.md). -/
def Obligations.AttestationMessages : Prop :=
  (∀ (s : State) (p : MsgPath) (asym hash : BitVec 32) (slot index : Byte) (off len : BitVec 16) (nonce : BitVec 256),
    let one := fun (t : State) (b : List Byte) => t = { s with sec := t.sec, sent := s.sent ++ [⟨pathCode p, 0, b⟩] }
    let err := fun (t : State) => ∃ e, t = { s with sent := s.sent ++ [⟨pathCode p, 0, [0x13, 0x7F, e, 0]⟩] }
    let signed := fun (t : State) (head mid : List Byte) => ∃ body, mid <:+: body ∧
      t = { s with sent := s.sent ++ [⟨pathCode p, 0, head ++ body ++ leBytes 96 (Config.identitySign s.bootMeas body).toNat⟩] }
    (s.answering = false → ∀ c ∈ [Instr.getVersion p, .getCapabilities p, .negotiateAlgorithms p asym hash, .getDigests p,
      .getCertificate p slot off len, .challenge p slot nonce, .getMeasurements p index nonce], Next c s (fun t => t = s)) ∧
    (s.answering = true →
      Next (.getVersion p) s (fun t => one t [0x13, 0x04, 0, 0, 0, 1, 0x00, 0x13] ∧
        t.sec = { s.sec with spdmVersion := true, spdmAlgs := false }) ∧
      (s.sec.spdmVersion = false → Next (.getCapabilities p) s err ∧ Next (.negotiateAlgorithms p asym hash) s err) ∧
      (s.sec.spdmVersion = true → Next (.getCapabilities p) s (fun t => one t ([0x13, 0x61, 0, 0] ++ [0x16, 0, 0, 0]) ∧ t.sec = s.sec) ∧
        Next (.negotiateAlgorithms p asym hash) s (fun t => if bit asym.toNat 7 && bit hash.toNat 1
          then t.sec = { s.sec with spdmVersion := true, spdmAlgs := true } ∧ (∃ b, one t b) else err t)) ∧
      (s.sec.spdmAlgs = false → ∀ c ∈ [Instr.getDigests p, .getCertificate p slot off len, .challenge p slot nonce,
        .getMeasurements p index nonce], Next c s err) ∧
      (s.sec.spdmAlgs = true →
        Next (.getDigests p) s (fun t => one t ([0x13, 0x01, 0, 1] ++ leBytes 48 (Config.sha384 s.chain).toNat) ∧ t.sec = s.sec) ∧
        (slot ≠ 0 → Next (.getCertificate p slot off len) s err ∧ Next (.challenge p slot nonce) s err) ∧
        (slot = 0 → s.chain.length ≤ off.toNat → Next (.getCertificate p slot off len) s err) ∧
        (slot = 0 → off.toNat < s.chain.length → Next (.getCertificate p slot off len) s (fun t => ∃ h,
          one t (h ++ (s.chain.drop off.toNat).take len.toNat) ∧ h.length = 8 ∧ t.sec = s.sec)) ∧
        (slot = 0 → Next (.challenge p slot nonce) s (fun t => signed t [0x13, 0x03, 0, 1] (leBytes 32 nonce.toNat))) ∧
        (∀ i ∈ measBlocks, index.toNat = i + 1 → Next (.getMeasurements p index nonce) s (fun t =>
          signed t [0x13, 0x60, 0, 0] (s.measBytes i ++ leBytes 32 nonce.toNat))) ∧
        (index = 0 → Next (.getMeasurements p index nonce) s (fun t => signed t [0x13, 0x60, 12, 0] (leBytes 32 nonce.toNat))) ∧
        (index = 0xFF → Next (.getMeasurements p index nonce) s (fun t =>
          signed t [0x13, 0x60, 0, 0] (measBlocks.flatMap s.measBlock ++ leBytes 32 nonce.toNat))) ∧
        (index ≠ 0 → index ≠ 0xFF → (∀ i ∈ measBlocks, i + 1 ≠ index.toNat) → Next (.getMeasurements p index nonce) s err)))) ∧
  (∀ (s : State) (o : Orig) (v : Lane) (chain sig locked : Bool) (svn : Byte),
    (isPf o = true → s.on F.secAttCtl_busy = true → Next (.peerAttest o v) s (fun t => t = s)) ∧
    (isPf o = true → s.on F.secAttCtl_busy = false → vbit v 31 = true → Next (.peerAttest o v) s (fun t =>
      t.get F.secAttCtl_busy = 1 ∧ t.get F.secAttCtl_pkg = vbits v 11 0 ∧ t.sec = { s.sec with att := some (vbits v 11 0, s.now) } ∧
      KeepsRegs [F.secAttCtl_busy, F.secAttCtl_pkg] s t ∧ t = { s with regs := t.regs, sec := t.sec })) ∧
    (∀ k b, s.sec.att = some (k, b) → k < 4096 →
      let regs := [F.secAttCtl_busy, F.secPeerAtt_result k, F.secPeerAtt_age_ms k]
      let ended := fun (t : State) (r : Nat) => t.get F.secAttCtl_busy = 0 ∧ t.get (F.secPeerAtt_result k) = r ∧
        t.get (F.secPeerAtt_age_ms k) = 0 ∧ t.sec = { s.sec with att := none }
      Next (.peerAttestComplete chain sig locked svn) s (fun t => t.get (F.secPeerAtt_svn k) = svn.toNat ∧
        if chain && sig && locked && decide (s.get F.secPeerMinsvn_min ≤ svn.toNat)
        then ended t 1 ∧ KeepsRegs (F.secPeerAtt_svn k :: regs) s t ∧ t = { s with regs := t.regs, sec := t.sec }
        else ended t 2 ∧ Logs s t 0xB0F0 clsN none 0 k ∧ KeepsRegs (F.secPeerAtt_svn k :: (regs ++ logRegs)) s t ∧
          t = { s with regs := t.regs, sec := t.sec, log := t.log }) ∧
      Next .peerAttestTimeout s (fun t => ended t 2 ∧ Logs s t 0xB0F0 clsN none 0 k ∧ KeepsRegs (regs ++ logRegs) s t ∧
        t = { s with regs := t.regs, sec := t.sec, log := t.log })) ∧
    (s.sec.att = none → Next (.peerAttestComplete chain sig locked svn) s (fun t => t = s) ∧
      Next .peerAttestTimeout s (fun t => t = s)))

/-- The test access port takes its instructions, and a debug token is accepted once (16_security.md). -/
def Obligations.TestAccess : Prop :=
  ∀ (s : State) (cells : List Bool) (sig : BitVec 768) (nonce : BitVec 256),
    let port := fun (t : State) (i : Nat) (c : List Bool) => t = { s with mgmt := { s.mgmt with tap := ⟨i, c⟩ } }
    let taken := fun (c : Instr) (i : Nat) (b : List Bool) =>
      Next c s (fun t => if s.mgmt.perst = true then port t i b else port t tapBypass s.mgmt.tap.cells)
    Next .idcode s (fun t => t.readData.toNat % 2 ^ 12 = 0xB9B ∧ t.readData.toNat / 2 ^ 12 % 2 ^ 16 = s.fuses.deviceId.toNat ∧
      t.readData.toNat / 2 ^ 28 = Config.tapStepping.toNat ∧
      t = { s with readData := t.readData, mgmt := { s.mgmt with tap := ⟨tapIdcode, s.mgmt.tap.cells⟩ } }) ∧
    Next .bypass s (fun t => port t tapBypass s.mgmt.tap.cells) ∧ Next (.samplePreload cells) s (fun t => port t tapSample cells) ∧
    taken (.extest cells) tapExtest cells ∧ taken .clamp tapClamp s.mgmt.tap.cells ∧ taken .highz tapHighz s.mgmt.tap.cells ∧
    (let valid := s.get F.secStat_debug = 0 ∧ s.on F.secLock_debug = false ∧ Config.tokenValid s.fuses.serial nonce sig = true
     (valid → Next (.debugUnlockToken sig nonce) s (fun t => t.get F.secStat_debug = 1 ∧ t.sec = { s.sec with debugPending := true } ∧
       Logs s t 0xB0D0 clsN none Orig.tap.code.toNat 0 ∧ KeepsRegs (F.secStat_debug :: logRegs) s t ∧
       t = { s with regs := t.regs, sec := t.sec, log := t.log })) ∧
     (¬ valid → Next (.debugUnlockToken sig nonce) s (fun t => Logs s t 0xB0D1 clsN none Orig.tap.code.toNat 0 ∧
       KeepsRegs logRegs s t ∧ t = { s with regs := t.regs, log := t.log })))

/-- The pending target is written, added to, and clamped at each boundary (R519). -/
def Obligations.PendingTarget : Prop :=
  ∀ (s : State) (o : Orig) (v : Lane) (r : EpochReadings),
    let wrote := fun (t : State) (p : Int) => t.mgmt = { s.mgmt with pending := p, source := targetSource o } ∧
      KeepsRegs [F.mgtPwrSet_op, F.mgtPwrSet_value] s t ∧ t = { s with regs := t.regs, mgmt := t.mgmt }
    (isPf o = true → vbits v 31 30 = 1 → Next (.pwrSetAbsolute o v) s (fun t => wrote t (vbits v 15 0))) ∧
    (isPf o = true → vbits v 31 30 = 2 → Next (.pwrSetRelative o v) s (fun t =>
      wrote t (s.mgmt.pending + signed 16 (vbits v 15 0)))) ∧
    (s.mgmt.resetting = false → (∀ x ∈ r.laser, 1300 ≤ signed 16 x.toNat) → Next (.epochBoundary r) s (fun t =>
      let c : Int := max 700 (min 2800 s.mgmt.pending)
      t.mgmt.pending = c ∧ (t.mgmt.target : Int) = c ∧ t.mgmt.clamped = decide (c ≠ s.mgmt.pending) ∧
      (c ≠ s.mgmt.pending → ∃ (e : Ev) (n : Nat), e.code = 0xC010 ∧ e.cls = clsN ∧ (e.arg : Int) = c ∧
        nget t.log [] (n % 4096) = e.entry n s.boot t.now) ∧
      t.ticks = (s.ticks / 25000 + 1) * 25000 ∧ t.get F.mgtEpoch_epoch = (s.ticks / 25000 + 1) % 2 ^ 64))

/-- The clocks follow the commanded level, the pins and the readings (17_management.md, 18_package.md). -/
def Obligations.PowerAndTemperature : Prop :=
  ∀ s : State,
    let steady := fun (t : State) => ∀ k, 1 ≤ k → k ≤ 3 → bit s.acct.causes k = t.causeOn k
    let lowest := fun (t : State) => ∀ f, f < 8 → nget t.mgmt.step 0x30 f = 0 ∧ nget t.mgmt.duty 16 f = 1 ∧ nget t.mgmt.volt 0x30 f = 0
    (∀ r : EpochReadings, s.mgmt.resetting = false → s.on F.mgtStartStat_ready = true → s.mgmt.shed = false → s.mgmt.hot = false →
      s.mgmt.throt = false → s.mgmt.latchShed = false → s.mgmt.latchThrot = false →
      (∀ x ∈ r.laser, 1300 ≤ signed 16 x.toNat) → Next (.epochBoundary r) s (fun t =>
        let m := t.mgmt
        let ramp := max 50 (min 1000 (s.get F.mgtPwrCfg_ramp))
        let within := fun (st : Nat) => ∀ f, f < 8 → st ≤ min 56 (s.get (F.mgtClkCap_cap f))
        let power := Config.predictedPower (s.ticks / 25000 + 1)
        m.cmd = (if s.on F.mgtPwrCfg_follow = false then 2800 else if s.mgmt.cmd < m.target then min m.target (s.mgmt.cmd + ramp)
          else max m.target (s.mgmt.cmd - ramp)) ∧
        m.excess = (if s.mgmt.cmd * 102 < s.mgmt.mean * 100 then s.mgmt.mean - s.mgmt.cmd else 0) ∧
        m.powerSum = 0 ∧ m.powerN = 0 ∧ t.get F.mgtPwrAch_mean = s.mgmt.mean % 2 ^ 16 ∧ t.get F.mgtPwrStat_cmd = s.mgmt.cmd % 2 ^ 16 ∧
        ∃ st d, within st ∧ (∀ u, st < u → within u → m.cmd - m.excess < power u 16) ∧
          (d = 16 ∧ power st 16 ≤ m.cmd - m.excess ∨ st = 0 ∧ 1 ≤ d ∧ d ≤ 16 ∧ m.cmd - m.excess < power 0 16) ∧
          ∀ f, f < 8 → nget m.step 0x30 f = min st (nget m.tcap 56 f) ∧ nget m.duty 16 f = min d (nget m.tduty 16 f))) ∧
    (∀ w : BitVec 16, Next (.powerSample w) s (fun t => t = { s with mgmt := { s.mgmt with
      powerSum := s.mgmt.powerSum + w.toNat, powerN := s.mgmt.powerN + 1, powerPeak := max s.mgmt.powerPeak w.toNat } })) ∧
    (∀ f : Fin 8, Next (.dutyPeriod f) s (fun t =>
      nget t.mgmt.budget 0 f = (if nget s.mgmt.duty 16 f = 16 then 0 else nget s.mgmt.duty 16 f) ∧
      (∀ g, g ≠ f.val → nget t.mgmt.budget 0 g = nget s.mgmt.budget 0 g) ∧
      t = { s with mgmt := { s.mgmt with budget := t.mgmt.budget } })) ∧
    (s.mgmt.off = false → s.mgmt.shedPin = false → Next .shedAssert s (fun t => t.mgmt.shedPin = true ∧ t.get F.mgtSideband_shed = 1 ∧
      t.get F.mgtSideband_sheds = min (s.get F.mgtSideband_sheds + 1) 0xFFFF ∧
      (if s.on F.mgtStartStat_ready = true
        then t.mgmt.shed = true ∧ lowest t ∧ LogAt s t 0 0xC020 clsN none 0 1 ∧ (steady t → Logs s t 0xC020 clsN none 0 1) ∧ t = { s with regs := t.regs, log := t.log, mgmt := t.mgmt, acct := t.acct }
        else t = { s with regs := t.regs, mgmt := { s.mgmt with shedPin := true, latchShed := true } }))) ∧
    (s.mgmt.off = false → s.mgmt.throtPin = false → Next .throtAssert s (fun t => t.mgmt.throtPin = true ∧ t.get F.mgtSideband_throt = 1 ∧
      (if s.on F.mgtStartStat_ready = true
        then t.mgmt.throt = true ∧ (∀ f, f < 8 → nget t.mgmt.step 0x30 f = min (nget s.mgmt.step 0x30 f) s.mgmt.throtStep ∧
            nget t.mgmt.duty 16 f = nget s.mgmt.duty 16 f) ∧ t.mgmt.volt = s.mgmt.volt ∧ LogAt s t 0 0xC021 clsN none 0 1 ∧ (steady t → Logs s t 0xC021 clsN none 0 1) ∧
          t = { s with regs := t.regs, log := t.log, mgmt := t.mgmt, acct := t.acct }
        else t = { s with regs := t.regs, mgmt := { s.mgmt with throtPin := true, latchThrot := true } }))) ∧
    (s.mgmt.off = true ∨ s.mgmt.shedPin = true → Next .shedAssert s (fun t => t = s)) ∧
    (s.mgmt.off = true ∨ s.mgmt.throtPin = true → Next .throtAssert s (fun t => t = s)) ∧
    (s.mgmt.shedPin = true → Next .shedRelease s (fun t => t.mgmt = { s.mgmt with shedPin := false } ∧ t.get F.mgtSideband_shed = 0 ∧
      (s.on F.mgtStartStat_ready = true → Logs s t 0xC020 clsN none 0 0) ∧ KeepsRegs (F.mgtSideband_shed :: logRegs) s t ∧
      t = { s with regs := t.regs, mgmt := t.mgmt, log := t.log })) ∧
    (s.mgmt.throtPin = true → Next .throtRelease s (fun t => t.mgmt = { s.mgmt with throtPin := false } ∧
      t.get F.mgtSideband_throt = 0 ∧ (s.on F.mgtStartStat_ready = true → Logs s t 0xC021 clsN none 0 0) ∧
      KeepsRegs (F.mgtSideband_throt :: logRegs) s t ∧ t = { s with regs := t.regs, mgmt := t.mgmt, log := t.log })) ∧
    (s.mgmt.shedPin = false → Next .shedRelease s (fun t => t = s)) ∧ (s.mgmt.throtPin = false → Next .throtRelease s (fun t => t = s)) ∧
    (∀ temps : List (BitVec 16), temps.length ≤ 22 →
      ((∀ x ∈ temps, signed 16 x.toNat < 1050) → Next (.thermalSample temps) s (fun t =>
        (∀ i, i < 22 → match temps[i]? with
          | some x => if x = 0x8000 then nget t.mgmt.tj 0x8000 i = nget s.mgmt.tj 0x8000 i
            else nget t.mgmt.tj 0x8000 i = x.toNat ∧ signed 16 (nget t.mgmt.tjMax 0x8000 i) =
              max (signed 16 (nget s.mgmt.tjMax 0x8000 i)) (signed 16 x.toNat)
          | none => nget t.mgmt.tj 0x8000 i = nget s.mgmt.tj 0x8000 i ∧ nget t.mgmt.tjMax 0x8000 i = nget s.mgmt.tjMax 0x8000 i) ∧
        t = { s with mgmt := { s.mgmt with tj := t.mgmt.tj, tjMax := t.mgmt.tjMax, warm := t.mgmt.warm } })) ∧
      (s.mgmt.hot = false → (∃ x ∈ temps, 1050 ≤ signed 16 x.toNat) → (∀ x ∈ temps, signed 16 x.toNat < 1120) →
        Next (.thermalSample temps) s (fun t => t.mgmt.hot = true ∧ t.mgmt.wasHot = true ∧ lowest t ∧
          bit (t.get F.mgtAlert_cause) 1 = true ∧
          (∃ d x, temps[d]? = some x ∧ 1050 ≤ signed 16 x.toNat ∧ LogAt s t 0 0xC031 clsN none 0 d ∧
            (steady t → Logs s t 0xC031 clsN none 0 d)) ∧ KeepsRegs logRegs s t ∧
          t = { s with regs := t.regs, log := t.log, mgmt := t.mgmt, acct := t.acct })) ∧
      ((∃ x ∈ temps, 1120 ≤ signed 16 x.toNat) → Next (.thermalSample temps) s (fun t => t.on F.ecuStat_halted = true))) ∧
    (∀ (rail : Byte) (status : BitVec 16),
      (2 ≤ s.get F.mgtStartStat_step → bit status.toNat 5 = true ∨ bit status.toNat 4 = true →
        Next (.regulatorFault rail status) s (fun t => t.on F.ecuStat_halted = true)) ∧
      (s.get F.mgtStartStat_step < 2 ∨ (bit status.toNat 5 = false ∧ bit status.toNat 4 = false) →
        Next (.regulatorFault rail status) s (fun t => t = s)) ∧
      Next (.railOutOfWindow rail) s (fun t => t.on F.ecuStat_halted = true) ∧
      (s.on F.ecuStat_halted = true → Next (.railOutOfWindow rail) s (fun t => t = s))) ∧
    (∀ (o : Orig) (v : Lane), isPf o = true → vbit v 31 = true → s.on F.mgtRecalCtl_busy = false →
      let d := vbits v 8 5
      let ctl := [F.mgtRecalCtl_auto, F.mgtRecalCtl_device, F.mgtRecalCtl_channel, F.mgtRecalCtl_status, F.mgtRecalCtl_busy]
      let free := d < 12 ∧ s.chanGone d (vbits v 4 0) = false ∧ nget s.mgmt.recal none d = none
      (free → Next (.recalibrate o v) s (fun t => nget t.mgmt.recal none d = some (vbits v 4 0, true) ∧ t.get F.mgtRecalCtl_busy = 1 ∧
        t.get F.mgtRecalCtl_status = 0 ∧ KeepsRegs ctl s t ∧ t = { s with regs := t.regs, mgmt := { s.mgmt with recal := t.mgmt.recal } })) ∧
      (¬ free → Next (.recalibrate o v) s (fun t => t.get F.mgtRecalCtl_status = 2 ∧ t.get F.mgtRecalCtl_busy = 0 ∧ KeepsRegs ctl s t ∧
        t = { s with regs := t.regs }))) ∧
    (∀ d : Fin 12, (nget s.mgmt.recal none d = none → ∀ ok, Next (.recalComplete d ok) s (fun t => t = s)) ∧
      ∀ ch asked, nget s.mgmt.recal none d = some (ch, asked) →
        Next (.recalComplete d true) s (fun t => nget t.mgmt.recal none d = none ∧
          t.get F.mgtRecalStat_count = (s.get F.mgtRecalStat_count + 1) % 2 ^ 32 ∧
          (asked = true → t.get F.mgtRecalCtl_busy = 0 ∧ t.get F.mgtRecalCtl_status = 1) ∧
          (nget t.mgmt.calibrated (0, 0x8000) (d * 32 + ch)).1 = s.epochNo ∧
          KeepsRegs [F.mgtRecalStat_count, F.mgtRecalCtl_busy, F.mgtRecalCtl_status] s t ∧
          t = { s with regs := t.regs, mgmt := { s.mgmt with recal := t.mgmt.recal, calibrated := t.mgmt.calibrated } }) ∧
        (ch < 32 → Next (.recalComplete d false) s (fun t => t.chanGone d ch = true)))

/-- The firmware slots are written, tried, confirmed and booted (16_security.md, 17_management.md). -/
def Obligations.FirmwareOperations : Prop :=
  ∀ (s : State) (o : Orig) (ok : Bool),
    let v := fun (op : Nat) => BitVec.ofNat 32 (2 ^ 31 + op * 2 ^ 28)
    let ctl := [F.mgtFwCtl_op, F.mgtFwCtl_status, F.mgtFwCtl_busy, F.mgtFwCtl_trial]
    let other := !s.runsB
    let resets := fun (t : State) => t.mgmt.resetting = true ∧ t.mgmt.writing = none ∧ t.get F.mgtFwCtl_busy = 0 ∧
      (∀ i, nget t.sec.meas 0 i = if 1 ≤ i ∧ i ≤ 3 then 0 else nget s.sec.meas 0 i) ∧ KeepsRegs ctl s t ∧
      t = { s with regs := t.regs, mgmt := t.mgmt, sec := { s.sec with meas := t.sec.meas, spdmVersion := false, spdmAlgs := false } }
    (isPf o = true → s.on F.mgtFwCtl_busy = true → ∀ c ∈ [Instr.fwWrite o (v 1), .activate o (v 2), .confirm o (v 3), .restart o (v 4)],
      Next c s (fun t => KeepsRegs [F.mgtFwCtl_op] s t ∧ t = { s with regs := t.regs })) ∧
    (isPf o = true → s.on F.mgtFwCtl_busy = false →
      Next (.fwWrite o (v 1)) s (fun t => t.mgmt.writing = some (s.bytesAt (s.get F.mgtFwAddr_addr * 4096) (2 ^ 22)) ∧
        t.mgmt.flash = s.mgmt.flash.setSlot other .erased ∧ t.mgmt.written = false ∧ t.get F.mgtFwCtl_busy = 1 ∧
        t.get F.mgtFwCtl_status = 0 ∧ KeepsRegs ctl s t ∧ t = { s with regs := t.regs, mgmt := t.mgmt }) ∧
      (s.mgmt.written = true → Next (.activate o (v 2)) s (fun t => resets t ∧ t.get F.mgtFwCtl_status = 1 ∧
        t.mgmt.flash.current = ⟨s.mgmt.flash.current.seq + 1, other, true, 0⟩ ∧ t.mgmt.flash.slotA = s.mgmt.flash.slotA ∧
        t.mgmt.flash.slotB = s.mgmt.flash.slotB)) ∧
      (s.mgmt.written = false → Next (.activate o (v 2)) s (fun t => t.get F.mgtFwCtl_status = 2 ∧ KeepsRegs ctl s t ∧
        t = { s with regs := t.regs })) ∧
      (s.on F.mgtFwCtl_trial = true → Next (.confirm o (v 3)) s (fun t => t.get F.mgtFwCtl_status = 1 ∧ t.get F.mgtFwCtl_trial = 0 ∧
        t.mgmt.flash.current = ⟨s.mgmt.flash.current.seq + 1, s.mgmt.flash.current.slotB, false, 0⟩ ∧ KeepsRegs ctl s t ∧
        t = { s with regs := t.regs, mgmt := { s.mgmt with flash := t.mgmt.flash } })) ∧
      (s.on F.mgtFwCtl_trial = false → Next (.confirm o (v 3)) s (fun t => t.get F.mgtFwCtl_status = 2 ∧ KeepsRegs ctl s t ∧
        t = { s with regs := t.regs })) ∧
      Next (.restart o (v 4)) s (fun t => resets t ∧ t.get F.mgtFwCtl_status = 1 ∧ t.mgmt.flash = s.mgmt.flash)) ∧
    (∀ b, s.mgmt.writing = some b →
      (ok = false → Next (.fwWriteComplete ok) s (fun t => t.get F.mgtFwCtl_status = 4 ∧ t.get F.mgtFwCtl_busy = 0 ∧
        Logs s t 0xC041 clsN none 1 0 ∧ t.mgmt = { s.mgmt with writing := none } ∧ KeepsRegs (ctl ++ logRegs) s t ∧
        t = { s with regs := t.regs, mgmt := t.mgmt, log := t.log })) ∧
      (ok = true → Next (.fwWriteComplete ok) s (fun t => t.get F.mgtFwCtl_busy = 0 ∧ KeepsRegs ctl s t ∧
        t = { s with regs := t.regs, mgmt := t.mgmt } ∧
        if Config.imageSigned b = true ∧ s.fuses.svn ≤ Config.imageSvn b
        then t.get F.mgtFwCtl_status = 1 ∧ t.mgmt.flash = s.mgmt.flash.setSlot other (.image b) ∧ t.mgmt.written = true
        else t.get F.mgtFwCtl_status = 3 ∧ t.mgmt = { s.mgmt with writing := none }))) ∧
    (s.mgmt.writing = none → Next (.fwWriteComplete ok) s (fun t => t = s)) ∧
    (s.mgmt.off = false → s.on F.mgtStartStat_ready = true → Next .watchdogTimeout s (fun t => resets t ∧
      t.mgmt.lastDog = some s.ticks ∧ t.mgmt.otherSlot = (match s.mgmt.lastDog with
        | some a => decide (s.ticks ≤ a + 250000000) | none => false))) ∧
    (s.mgmt.off = true → Next .watchdogTimeout s (fun t => t = s)) ∧
    (s.mgmt.resetting = false → Next .managementResetComplete s (fun t => t = s)) ∧
    (s.mgmt.resetting = true → s.mgmt.flash.current.trial = false → s.mgmt.otherSlot = false →
      let good := fun (b : Bool) => (s.mgmt.flash.slot b).signed = true ∧ s.fuses.svn ≤ (s.mgmt.flash.slot b).svn
      let runs := fun (t : State) (b : Bool) => t.mgmt.resetting = false ∧ t.runsB = b ∧ t.mgmt.stuck = s.mgmt.stuck ∧
        t.get F.secSvn_running = (s.mgmt.flash.slot b).svn % 256 ∧ t.get F.mgtFwCtl_trial = 0 ∧ t.mgmt.flash = s.mgmt.flash ∧
        t.quads = s.quads ∧ t.mem = s.mem
      let first := s.mgmt.flash.current.slotB
      s.mgmt.stuck = false →
        (good first → Next .managementResetComplete s (fun t => runs t first ∧ t.log = s.log ∧
          nget t.sec.meas 0 1 = Config.sha384 (s.measBytes 1 ++ leBytes 48 ((s.mgmt.flash.slot first).digest first).toNat))) ∧
        (¬ good first → good (!first) → Next .managementResetComplete s (fun t => runs t (!first) ∧
          bit (t.get F.mgtAlert_cause) 3 = true)) ∧
        (¬ good first → ¬ good (!first) → Next .managementResetComplete s (fun t => t.mgmt.stuck = true ∧ t.mem = s.mem)))

/-- A reset of the package leaves what Table 128 keeps; a quadrant reset touches its quadrant only (17_management.md, 18_package.md, 15_containment.md). -/
def Obligations.Resets : Prop :=
  ∀ (s : State) (o : Orig) (q : Fin 32),
    let wiped := fun (t : State) => t = { State.reset with
      pending := s.pending, boot := t.boot, freeCtr := s.freeCtr, readData := s.readData, hostMem := s.hostMem, msix := s.msix
      sent := s.sent, fuses := s.fuses, regs := t.regs, mgmt := t.mgmt
      ecu := { Ecu.init with copyA := t.ecu.copyA, copyB := t.ecu.copyB }
      sec := { Secure.init with debugPending := t.sec.debugPending } } ∧ t.mgmt.flash = s.mgmt.flash ∧
      ∀ b, (t.logCopy b).next = 0 ∧ (t.logCopy b).busy = none
    let reset := fun (t : State) => wiped t ∧ t.boot = s.boot ∧ t.sec.debugPending = s.sec.debugPending ∧
      KeepsRegs [F.secViol_count, F.secViol_originator, F.secViolAddr_addr, F.mgtSaveCfg_areas, F.secStat_debug, F.mgtStartStat_step,
        F.mgtSideband_shed, F.mgtSideband_throt] State.reset t ∧
      (∀ f ∈ [F.secViol_count, F.secViol_originator, F.secViolAddr_addr, F.mgtSaveCfg_areas], t.get f = s.get f) ∧
      t.get F.secStat_debug = (if s.get F.secStat_debug = 3 then 0 else s.get F.secStat_debug) ∧ t.get F.mgtStartStat_step = 1 ∧
      t.on F.mgtSideband_shed = s.mgmt.shedPin ∧ t.on F.mgtSideband_throt = s.mgmt.throtPin ∧
      t.mgmt.shedPin = s.mgmt.shedPin ∧ t.mgmt.throtPin = s.mgmt.throtPin ∧ t.mgmt.off = false ∧ t.mgmt.stuck = false ∧
      (s.on F.mgtStartStat_ready = true → ∀ b,
        s.logRange (s.logCopy b).next (s.get F.ecuLogTail_seq) <:+ (t.logCopy b).entries)
    let v := fun (op : Nat) => BitVec.ofNat 32 (2 ^ 31 + op * 2 ^ 28 + q)
    (isPf o = true → Next (.packageReset o (v 1)) s (fun t => reset t ∧ t.mgmt.perst = s.mgmt.perst)) ∧
    (s.mgmt.off = false → Next .pfFlr s (fun t => reset t ∧ t.mgmt.perst = s.mgmt.perst ∧ t.mgmt.hostLink = s.mgmt.hostLink) ∧
      Next .hostLinkReset s (fun t => reset t ∧ t.mgmt.hostLink = false) ∧
      Next (.refclkLoss .host) s (fun t => reset t ∧ t.mgmt.hostLink = false) ∧
      (s.mgmt.perst = false → Next .perstAssert s (fun t => reset t ∧ t.mgmt.perst = true ∧ t.mgmt.hostLink = false))) ∧
    (s.mgmt.off = true → ∀ c ∈ [Instr.pfFlr, .hostLinkReset, .refclkLoss .host], Next c s (fun t => t = s)) ∧
    (s.mgmt.off = true ∨ s.mgmt.perst = true → Next .perstAssert s (fun t =>
      t = { s with mgmt := { s.mgmt with perst := true, hostLink := false } })) ∧
    Next .perstRelease s (fun t => t = { s with mgmt := { s.mgmt with perst := false, hostLink := !s.mgmt.off } }) ∧
    Next .powerLoss s (fun t => wiped t ∧ t.boot = s.boot ∧ t.sec = Secure.init ∧ t.regs = [] ∧ t.mgmt.off = true ∧
      ∀ b, (t.logCopy b).entries = (s.logCopy b).entries) ∧
    Next .powerOn s (fun t => wiped t ∧ t.boot = (s.boot + 1) % 2 ^ 32 ∧ t.sec = Secure.init ∧ t.get F.mgtStartStat_step = 1 ∧
      KeepsRegs [F.mgtStartStat_step] State.reset t ∧ t.mgmt.off = false ∧ t.mgmt.hostLink = !s.mgmt.perst ∧
      ∀ b, (t.logCopy b).entries = (s.logCopy b).entries) ∧
    (isPf o = true →
      let may := s.active q = true ∧ (s.fenced q = true ∨ (s.idle q = true ∧ ∀ n, n < 8 → s.ctxOf q n = none)) ∧
        (s.quad q).pre = none ∧ ∀ a, a < 7 → s.get (F.seqPreArea_state q a) = 0
      (may → Next (.quadrantReset o (v 2)) s (fun t => t.get F.mgtRst_status = 1 ∧ (t.quad q).committed = none ∧
        (t.quad q).shadow = none ∧ (t.quad q).slots = [] ∧ (t.quad q).fnStore = Quad.init.fnStore ∧ (t.quad q).ctr = [] ∧
        (∀ site, ((t.quad q).lat.sector site).sram = []) ∧ KeepsQuads [q.val] s t ∧ t.mem = s.mem ∧ t.log = s.log)) ∧
      (¬ may → Next (.quadrantReset o (v 2)) s (fun t => t.get F.mgtRst_status = 2 ∧ Logs s t 0xC0C1 clsN (s.owner q) o.code.toNat 0 ∧
        KeepsRegs ([F.mgtRst_op, F.mgtRst_quadrant, F.mgtRst_status] ++ logRegs) s t ∧ t = { s with regs := t.regs, log := t.log }))) ∧
    Next (.refclkLoss .mgt) s (fun t => t.on F.ecuStat_halted = true) ∧
    (NoRemote s → s.admitted = [] → Next (.refclkLoss .chd) s (fun t => ∀ k, k < 64 → t.get (F.chdLinkStat_state k) = 0)) ∧
    (let fails := fun (t : State) (p : Nat) => t.unitFailed (20 + p) = true ∧
        (s.unitFailed (20 + p) = false → t.get (F.strFrameFree_total (20 + p)) = 0)
     Next (.refclkLoss .fn) s (fun t => ∀ p, p < 4 → fails t p) ∧ Next (.refclkLoss .fs) s (fun t => ∀ p, 4 ≤ p → p < 8 → fails t p))

/-- Start-up runs its six steps, and a function's reset ends its partition's work (17_management.md, 18_package.md, 16_security.md, 07_tiers.md). -/
def Obligations.StartUp : Prop :=
  (∀ (s : State) (r : StartupReport) (rail : Byte), s.mgmt.off = false → s.on F.mgtStartStat_ready = false → s.mgmt.stuck = false →
    s.on F.ecuStat_halted = false →
    let n := s.get F.mgtStartStat_step
    let stops := fun (t : State) (arg : Nat) => t.mgmt = { s.mgmt with stuck := true } ∧ Logs s t 0xC060 clsN none 0 arg ∧
      KeepsRegs logRegs s t ∧ t = { s with regs := t.regs, log := t.log, mgmt := t.mgmt }
    let c := Instr.startupStepComplete r
    (r.rimNFail = true → Next c s (fun t => stops t 8)) ∧
    (r.rimNFail = false →
      (n = 1 → Next c s (fun t => t.fuses.torn = [] ∧ t.get F.secStat_torn = min 255 s.fuses.torn.length ∧ t.sec.keys = [] ∧
        t.sec.keks = [] ∧ t.get F.secSvn_fused = t.fuses.svn ∧ t.sec.debugPending = false ∧
        (∀ i, s.fuses.svnData.getLsbD i = true ∨ s.fuses.svnMark.getLsbD i = true → t.fuses.svnBit i = true) ∧
        if ∃ b, (s.mgmt.flash.slot b).signed = true ∧ t.fuses.svn ≤ (s.mgmt.flash.slot b).svn
        then t.get F.mgtStartStat_step = 2 ∧ t.mgmt.stuck = false else t.get F.mgtStartStat_step = 1 ∧ t.mgmt.stuck = true)) ∧
      (n = 2 → Next c s (fun t => t.get F.mgtStartStat_step = 3 ∧ KeepsRegs [F.mgtStartStat_step] s t ∧ t = { s with regs := t.regs })) ∧
      (n = 3 → Next c s (fun t => t.get F.mgtStartStat_step = 4 ∧ (∀ m ∈ r.badSeams, bit (t.get F.ecuSeam_retired) m = true) ∧
        ∀ i x, r.spareRows[i]? = some x → i < 8 → t.get (F.ecuSpare_base_rows i) = x.toNat)) ∧
      (n = 4 → Next c s (fun t => t.get F.mgtStartStat_step = 5 ∧ (∀ d ∈ r.badStacks, t.on (F.ecuStk_dev_retired d) = true) ∧
        ∀ i, i < 8 → nget t.farFrames 0 i = min ((r.farFrames[i]?).elim 0 BitVec.toNat) (2 ^ 20))) ∧
      (n = 5 → Next c s (fun t => t.get F.mgtStartStat_step = 6 ∧ t.pages = [] ∧ t.mem = s.mem ∧
        (∀ k, k < 28 → t.get (F.strFrameFree_free k) = t.get (F.strFrameFree_total k)) ∧
        (∀ k, k < 8 → t.get (F.strFrameFree_total k) = s.unitFrames k) ∧
        ∀ d, d < 12 → t.get (F.strFrameFree_total (8 + d)) =
          (if s.on (F.ecuStk_dev_retired d) = true then 0 else 24576 - (s.reservedFrames d).length))) ∧
      (n = 6 → Next c s (fun t => t.on F.mgtStartStat_ready = true ∧ (∀ q ∈ r.badQuads, s.active q = true → t.fenced q = true) ∧
        (∀ q, q < 32 → s.active q = true → (t.quad q).committed = none ∧ (t.quad q).slots = [] ∧
          (t.quad q).fnStore = Quad.init.fnStore) ∧ t.logPrev.length ≤ 4096 ∧ t.get F.ecuLogPrev_n = t.logPrev.length ∧ t.mem = s.mem))) ∧
    (n = 2 → Next (.startupRailTimeout rail) s (fun t => stops t rail.toNat)) ∧
    (n ≠ 2 → Next (.startupRailTimeout rail) s (fun t => t = s))) ∧
  (∀ (s : State) (r : StartupReport) (rail : Byte), s.mgmt.off = true ∨ s.on F.mgtStartStat_ready = true ∨ s.mgmt.stuck = true →
    Next (.startupStepComplete r) s (fun t => t = s) ∧ Next (.startupRailTimeout rail) s (fun t => t = s)) ∧
  (∀ (s : State) (v : Fin 32), (s.on (F.secVfPart_en v) = false → Next (.vfFlr v) s (fun t => t = s)) ∧
    (s.on (F.secVfPart_en v) = true →
      let p := s.get (F.secVfPart_part v)
      Next (.vfFlr v) s (fun t => t.on (F.strHqCfg_en p) = false ∧ t.on (F.reqQCfg_en p) = false ∧
        (∀ i, (t.entryOf i).part = p → (t.entryOf i).state < 2 ∨ 5 ≤ (t.entryOf i).state) ∧
        ∀ c, c < 64 → s.on (F.mgtCtxCfg_en c) = true → s.get (F.mgtCtxCfg_part c) = p →
          t.get (F.mgtCtxCfg_ended c) = 1 ∧ t.get (F.mgtCtxCfg_code c) = 0xC0C0))) ∧
  (∀ (s : State) (addr size : Dword), Next (.atsInvalidationRequest addr size) s (fun t =>
    t = { s with sent := s.sent ++ [⟨3, 0, leBytes 8 addr.toNat ++ leBytes 8 size.toNat⟩] }))
end

