-- ==== Sys2Proof/Laws/NMap.lean ====
section
/-! SUPPORT. Sparse maps: a read after a write, and every operation keeps the canonical form. -/

set_option Elab.async false

namespace Sys2Proof.Machine

@[simp] theorem nget_nil {α : Type} (d : α) (k : Nat) : nget ([] : NMap α) d k = d := rfl

theorem nget_cons {α : Type} (e : Nat × α) (m : NMap α) (d : α) (k : Nat) :
    nget (e :: m) d k = if e.1 = k then e.2 else nget m d k := by
  obtain ⟨a, v⟩ := e
  rfl

@[simp] theorem nget_nput_same {α : Type} (m : NMap α) (d : α) (k : Nat) (v : α) : nget (nput m k v) d k = v := by
  induction m with
  | nil => simp [nput, nget_cons]
  | cons e r ih =>
    obtain ⟨a, w⟩ := e
    simp only [nput]
    split
    · simp [nget_cons]
    · split
      · simp [nget_cons]
      · next h => simp [nget_cons, Ne.symm h, ih]

theorem nget_nput_ne {α : Type} (m : NMap α) (d : α) (k j : Nat) (v : α) (h : j ≠ k) :
    nget (nput m k v) d j = nget m d j := by
  induction m with
  | nil => simp [nput, nget_cons, Ne.symm h]
  | cons e r ih =>
    obtain ⟨a, w⟩ := e
    simp only [nput]
    split
    · simp [nget_cons, Ne.symm h]
    · split
      · next h1 => subst h1; simp [nget_cons, Ne.symm h]
      · simp only [nget_cons, ih]

theorem nget_nerase_same {α : Type} (m : NMap α) (d : α) (k : Nat) : nget (nerase m k) d k = d := by
  induction m with
  | nil => rfl
  | cons e r ih =>
    simp only [nerase] at ih ⊢
    by_cases h : e.1 = k
    · simp [h, ih]
    · simp [h, nget_cons, ih]

theorem nget_nerase_ne {α : Type} (m : NMap α) (d : α) (k j : Nat) (h : j ≠ k) : nget (nerase m k) d j = nget m d j := by
  induction m with
  | nil => rfl
  | cons e r ih =>
    simp only [nerase] at ih ⊢
    by_cases h1 : e.1 = k
    · simp [h1, nget_cons, Ne.symm h, ih]
    · simp [h1, nget_cons, ih]

/-- A read of the key just written gives the value written. -/
@[simp] theorem nget_nset_same {α : Type} [DecidableEq α] (m : NMap α) (d : α) (k : Nat) (v : α) :
    nget (nset m d k v) d k = v := by
  unfold nset
  split
  · next h => rw [nget_nerase_same, h]
  · exact nget_nput_same m d k v

/-- A write leaves every other key as it was, whatever an unlisted key is taken to read as. -/
theorem nget_nset_ne {α : Type} [DecidableEq α] (m : NMap α) (d e : α) (k j : Nat) (v : α) (h : j ≠ k) :
    nget (nset m d k v) e j = nget m e j := by
  unfold nset
  split
  · exact nget_nerase_ne m e k j h
  · exact nget_nput_ne m e k j v h

theorem nget_nset {α : Type} [DecidableEq α] (m : NMap α) (d : α) (k j : Nat) (v : α) :
    nget (nset m d k v) d j = if j = k then v else nget m d j := by
  split
  · next h => subst h; simp
  · next h => exact nget_nset_ne m d d k j v h

@[simp] theorem nget_nmod_same {α : Type} [DecidableEq α] (m : NMap α) (d : α) (k : Nat) (f : α → α) :
    nget (nmod m d k f) d k = f (nget m d k) := by simp [nmod]

theorem nget_nmod_ne {α : Type} [DecidableEq α] (m : NMap α) (d e : α) (k j : Nat) (f : α → α) (h : j ≠ k) :
    nget (nmod m d k f) e j = nget m e j := nget_nset_ne m d e k j _ h

/-! ## The canonical form -/

/-- Every key of a map lies above k. -/
def keysAbove {α : Type} (k : Nat) (m : NMap α) : Prop := ∀ e ∈ m, k < e.1

theorem keysRise_cons {α : Type} (e : Nat × α) (m : NMap α) :
    keysRise (e :: m) = true ↔ keysAbove e.1 m ∧ keysRise m = true := by
  induction m generalizing e with
  | nil => simp [keysRise, keysAbove]
  | cons f r ih =>
    obtain ⟨a, v⟩ := e
    obtain ⟨b, w⟩ := f
    simp only [keysRise, Bool.and_eq_true, decide_eq_true_eq]
    constructor
    · rintro ⟨h, hr⟩
      refine ⟨fun x hx => ?_, hr⟩
      rcases List.mem_cons.1 hx with rfl | hx
      · exact h
      · exact Nat.lt_trans h (((ih (b, w)).1 hr).1 x hx)
    · rintro ⟨h, hr⟩
      exact ⟨h _ (List.mem_cons_self ..), hr⟩

theorem mem_nput {α : Type} (m : NMap α) (k : Nat) (v : α) (e : Nat × α) (h : e ∈ nput m k v) : e = (k, v) ∨ e ∈ m := by
  induction m with
  | nil => simpa [nput] using h
  | cons f r ih =>
    obtain ⟨a, w⟩ := f
    simp only [nput] at h
    split at h
    · rcases List.mem_cons.1 h with h | h
      · exact .inl h
      · exact .inr h
    · split at h
      · rcases List.mem_cons.1 h with h | h
        · exact .inl h
        · exact .inr (List.mem_cons_of_mem _ h)
      · rcases List.mem_cons.1 h with h | h
        · exact .inr (h ▸ List.mem_cons_self ..)
        · rcases ih h with h | h
          · exact .inl h
          · exact .inr (List.mem_cons_of_mem _ h)

theorem keysRise_nput {α : Type} (m : NMap α) (k : Nat) (v : α) (h : keysRise m = true) : keysRise (nput m k v) = true := by
  induction m with
  | nil => rfl
  | cons f r ih =>
    obtain ⟨a, w⟩ := f
    have hr := (keysRise_cons (a, w) r).1 h
    simp only [nput]
    split
    · next hk =>
      refine (keysRise_cons _ _).2 ⟨fun x hx => ?_, h⟩
      rcases List.mem_cons.1 hx with rfl | hx
      · exact hk
      · exact Nat.lt_trans hk (hr.1 x hx)
    · split
      · next hk => subst hk; exact (keysRise_cons _ _).2 hr
      · next h1 h2 =>
        refine (keysRise_cons _ _).2 ⟨fun x hx => ?_, ih hr.2⟩
        rcases mem_nput r k v x hx with rfl | hx
        · show a < k
          omega
        · exact hr.1 x hx

theorem keysRise_filter {α : Type} (m : NMap α) (p : Nat × α → Bool) (h : keysRise m = true) :
    keysRise (m.filter p) = true := by
  induction m with
  | nil => rfl
  | cons f r ih =>
    have hr := (keysRise_cons f r).1 h
    rw [List.filter_cons]
    split
    · exact (keysRise_cons _ _).2 ⟨fun x hx => hr.1 x (List.mem_filter.1 hx).1, ih hr.2⟩
    · exact ih hr.2

theorem keysRise_map {α β : Type} (m : NMap α) (f : Nat × α → β) (h : keysRise m = true) :
    keysRise (m.map fun e => (e.1, f e)) = true := by
  induction m with
  | nil => rfl
  | cons g r ih =>
    have hr := (keysRise_cons g r).1 h
    refine (keysRise_cons _ _).2 ⟨fun x hx => ?_, ih hr.2⟩
    obtain ⟨y, hy, rfl⟩ := List.mem_map.1 hx
    exact hr.1 y hy

theorem nwf_iff {α : Type} [DecidableEq α] (m : NMap α) (d : α) :
    nwf m d = true ↔ keysRise m = true ∧ ∀ e ∈ m, e.2 ≠ d := by
  simp [nwf, List.all_eq_true]

@[simp] theorem nwf_nil {α : Type} [DecidableEq α] (d : α) : nwf ([] : NMap α) d = true := rfl

theorem nwf_filter {α : Type} [DecidableEq α] (m : NMap α) (d : α) (p : Nat × α → Bool) (h : nwf m d = true) :
    nwf (m.filter p) d = true := by
  rw [nwf_iff] at h ⊢
  exact ⟨keysRise_filter m p h.1, fun e he => h.2 e (List.mem_filter.1 he).1⟩

/-- A write keeps the canonical form. -/
theorem nwf_nset {α : Type} [DecidableEq α] (m : NMap α) (d : α) (k : Nat) (v : α) (h : nwf m d = true) :
    nwf (nset m d k v) d = true := by
  unfold nset
  split
  · exact nwf_filter m d _ h
  · next hv =>
    rw [nwf_iff] at h ⊢
    refine ⟨keysRise_nput m k v h.1, fun e he => ?_⟩
    rcases mem_nput m k v e he with rfl | he
    · exact hv
    · exact h.2 e he

theorem nwf_nmod {α : Type} [DecidableEq α] (m : NMap α) (d : α) (k : Nat) (f : α → α) (h : nwf m d = true) :
    nwf (nmod m d k f) d = true := nwf_nset m d k _ h

theorem nwf_nmapv {α : Type} [DecidableEq α] (m : NMap α) (d : α) (f : α → α) (h : nwf m d = true) :
    nwf (nmapv m d f) d = true := by
  rw [nwf_iff] at h ⊢
  refine ⟨keysRise_filter _ _ (keysRise_map m (fun e => f e.2) h.1), fun e he => ?_⟩
  simpa using (List.mem_filter.1 he).2

/-- Two canonical maps that read alike are the same map. -/
theorem nget_of_mem {α : Type} (m : NMap α) (d : α) (e : Nat × α) (h : keysRise m = true) (he : e ∈ m) :
    nget m d e.1 = e.2 := by
  induction m with
  | nil => cases he
  | cons f r ih =>
    have hr := (keysRise_cons f r).1 h
    rcases List.mem_cons.1 he with rfl | he
    · simp [nget_cons]
    · have := hr.1 e he
      rw [nget_cons, if_neg (by omega), ih hr.2 he]

end Sys2Proof.Machine
end

