-- ==== Sys2Proof/Laws/State.lean ====
section
/-! SUPPORT. One lemma for each field of State under each elementary update, true by rfl, so that no proof unfolds a record
update; and reads after writes of registers, quadrants and tables. -/

set_option Elab.async false

namespace Sys2Proof.Machine

variable (s : State)

/-! ## set -/

@[simp] theorem State.set_pending (f : Fld) (v : Nat) : (s.set f v).pending = s.pending := rfl
@[simp] theorem State.set_ticks (f : Fld) (v : Nat) : (s.set f v).ticks = s.ticks := rfl
@[simp] theorem State.set_boot (f : Fld) (v : Nat) : (s.set f v).boot = s.boot := rfl
@[simp] theorem State.set_freeCtr (f : Fld) (v : Nat) : (s.set f v).freeCtr = s.freeCtr := rfl
@[simp] theorem State.set_readData (f : Fld) (v : Nat) : (s.set f v).readData = s.readData := rfl
@[simp] theorem State.set_busViol (f : Fld) (v : Nat) : (s.set f v).busViol = s.busViol := rfl
@[simp] theorem State.set_wideLatch (f : Fld) (v : Nat) : (s.set f v).wideLatch = s.wideLatch := rfl
@[simp] theorem State.set_regs (f : Fld) (v : Nat) : (s.set f v).regs = nset s.regs f.reset f.key (v % 2 ^ f.len) := rfl
@[simp] theorem State.set_mem (f : Fld) (v : Nat) : (s.set f v).mem = s.mem := rfl
@[simp] theorem State.set_memBad (f : Fld) (v : Nat) : (s.set f v).memBad = s.memBad := rfl
@[simp] theorem State.set_hostMem (f : Fld) (v : Nat) : (s.set f v).hostMem = s.hostMem := rfl
@[simp] theorem State.set_msix (f : Fld) (v : Nat) : (s.set f v).msix = s.msix := rfl
@[simp] theorem State.set_sent (f : Fld) (v : Nat) : (s.set f v).sent = s.sent := rfl
@[simp] theorem State.set_fuses (f : Fld) (v : Nat) : (s.set f v).fuses = s.fuses := rfl
@[simp] theorem State.set_pages (f : Fld) (v : Nat) : (s.set f v).pages = s.pages := rfl
@[simp] theorem State.set_tableLost (f : Fld) (v : Nat) : (s.set f v).tableLost = s.tableLost := rfl
@[simp] theorem State.set_frames (f : Fld) (v : Nat) : (s.set f v).frames = s.frames := rfl
@[simp] theorem State.set_farFrames (f : Fld) (v : Nat) : (s.set f v).farFrames = s.farFrames := rfl
@[simp] theorem State.set_mapOp (f : Fld) (v : Nat) : (s.set f v).mapOp = s.mapOp := rfl
@[simp] theorem State.set_migrations (f : Fld) (v : Nat) : (s.set f v).migrations = s.migrations := rfl
@[simp] theorem State.set_drains (f : Fld) (v : Nat) : (s.set f v).drains = s.drains := rfl
@[simp] theorem State.set_evict (f : Fld) (v : Nat) : (s.set f v).evict = s.evict := rfl
@[simp] theorem State.set_tierCorr (f : Fld) (v : Nat) : (s.set f v).tierCorr = s.tierCorr := rfl
@[simp] theorem State.set_hqs (f : Fld) (v : Nat) : (s.set f v).hqs = s.hqs := rfl
@[simp] theorem State.set_quads (f : Fld) (v : Nat) : (s.set f v).quads = s.quads := rfl
@[simp] theorem State.set_ing (f : Fld) (v : Nat) : (s.set f v).ing = s.ing := rfl
@[simp] theorem State.set_req (f : Fld) (v : Nat) : (s.set f v).req = s.req := rfl
@[simp] theorem State.set_acct (f : Fld) (v : Nat) : (s.set f v).acct = s.acct := rfl
@[simp] theorem State.set_chord (f : Fld) (v : Nat) : (s.set f v).chord = s.chord := rfl
@[simp] theorem State.set_ecu (f : Fld) (v : Nat) : (s.set f v).ecu = s.ecu := rfl
@[simp] theorem State.set_sec (f : Fld) (v : Nat) : (s.set f v).sec = s.sec := rfl
@[simp] theorem State.set_mgmt (f : Fld) (v : Nat) : (s.set f v).mgmt = s.mgmt := rfl
@[simp] theorem State.set_log (f : Fld) (v : Nat) : (s.set f v).log = s.log := rfl
@[simp] theorem State.set_logPrev (f : Fld) (v : Nat) : (s.set f v).logPrev = s.logPrev := rfl

/-! ## inc -/

@[simp] theorem State.inc_pending (f : Fld) (n : Nat) : (s.inc f n).pending = s.pending := rfl
@[simp] theorem State.inc_ticks (f : Fld) (n : Nat) : (s.inc f n).ticks = s.ticks := rfl
@[simp] theorem State.inc_boot (f : Fld) (n : Nat) : (s.inc f n).boot = s.boot := rfl
@[simp] theorem State.inc_freeCtr (f : Fld) (n : Nat) : (s.inc f n).freeCtr = s.freeCtr := rfl
@[simp] theorem State.inc_readData (f : Fld) (n : Nat) : (s.inc f n).readData = s.readData := rfl
@[simp] theorem State.inc_busViol (f : Fld) (n : Nat) : (s.inc f n).busViol = s.busViol := rfl
@[simp] theorem State.inc_wideLatch (f : Fld) (n : Nat) : (s.inc f n).wideLatch = s.wideLatch := rfl
theorem State.inc_regs (f : Fld) (n : Nat) : (s.inc f n).regs = (s.set f (s.get f + n)).regs := rfl
@[simp] theorem State.inc_mem (f : Fld) (n : Nat) : (s.inc f n).mem = s.mem := rfl
@[simp] theorem State.inc_memBad (f : Fld) (n : Nat) : (s.inc f n).memBad = s.memBad := rfl
@[simp] theorem State.inc_hostMem (f : Fld) (n : Nat) : (s.inc f n).hostMem = s.hostMem := rfl
@[simp] theorem State.inc_msix (f : Fld) (n : Nat) : (s.inc f n).msix = s.msix := rfl
@[simp] theorem State.inc_sent (f : Fld) (n : Nat) : (s.inc f n).sent = s.sent := rfl
@[simp] theorem State.inc_fuses (f : Fld) (n : Nat) : (s.inc f n).fuses = s.fuses := rfl
@[simp] theorem State.inc_pages (f : Fld) (n : Nat) : (s.inc f n).pages = s.pages := rfl
@[simp] theorem State.inc_tableLost (f : Fld) (n : Nat) : (s.inc f n).tableLost = s.tableLost := rfl
@[simp] theorem State.inc_frames (f : Fld) (n : Nat) : (s.inc f n).frames = s.frames := rfl
@[simp] theorem State.inc_farFrames (f : Fld) (n : Nat) : (s.inc f n).farFrames = s.farFrames := rfl
@[simp] theorem State.inc_mapOp (f : Fld) (n : Nat) : (s.inc f n).mapOp = s.mapOp := rfl
@[simp] theorem State.inc_migrations (f : Fld) (n : Nat) : (s.inc f n).migrations = s.migrations := rfl
@[simp] theorem State.inc_drains (f : Fld) (n : Nat) : (s.inc f n).drains = s.drains := rfl
@[simp] theorem State.inc_evict (f : Fld) (n : Nat) : (s.inc f n).evict = s.evict := rfl
@[simp] theorem State.inc_tierCorr (f : Fld) (n : Nat) : (s.inc f n).tierCorr = s.tierCorr := rfl
@[simp] theorem State.inc_hqs (f : Fld) (n : Nat) : (s.inc f n).hqs = s.hqs := rfl
@[simp] theorem State.inc_quads (f : Fld) (n : Nat) : (s.inc f n).quads = s.quads := rfl
@[simp] theorem State.inc_ing (f : Fld) (n : Nat) : (s.inc f n).ing = s.ing := rfl
@[simp] theorem State.inc_req (f : Fld) (n : Nat) : (s.inc f n).req = s.req := rfl
@[simp] theorem State.inc_acct (f : Fld) (n : Nat) : (s.inc f n).acct = s.acct := rfl
@[simp] theorem State.inc_chord (f : Fld) (n : Nat) : (s.inc f n).chord = s.chord := rfl
@[simp] theorem State.inc_ecu (f : Fld) (n : Nat) : (s.inc f n).ecu = s.ecu := rfl
@[simp] theorem State.inc_sec (f : Fld) (n : Nat) : (s.inc f n).sec = s.sec := rfl
@[simp] theorem State.inc_mgmt (f : Fld) (n : Nat) : (s.inc f n).mgmt = s.mgmt := rfl
@[simp] theorem State.inc_log (f : Fld) (n : Nat) : (s.inc f n).log = s.log := rfl
@[simp] theorem State.inc_logPrev (f : Fld) (n : Nat) : (s.inc f n).logPrev = s.logPrev := rfl

/-! ## incSat -/

@[simp] theorem State.incSat_pending (f : Fld) (n : Nat) : (s.incSat f n).pending = s.pending := rfl
@[simp] theorem State.incSat_ticks (f : Fld) (n : Nat) : (s.incSat f n).ticks = s.ticks := rfl
@[simp] theorem State.incSat_boot (f : Fld) (n : Nat) : (s.incSat f n).boot = s.boot := rfl
@[simp] theorem State.incSat_freeCtr (f : Fld) (n : Nat) : (s.incSat f n).freeCtr = s.freeCtr := rfl
@[simp] theorem State.incSat_readData (f : Fld) (n : Nat) : (s.incSat f n).readData = s.readData := rfl
@[simp] theorem State.incSat_busViol (f : Fld) (n : Nat) : (s.incSat f n).busViol = s.busViol := rfl
@[simp] theorem State.incSat_wideLatch (f : Fld) (n : Nat) : (s.incSat f n).wideLatch = s.wideLatch := rfl
theorem State.incSat_regs (f : Fld) (n : Nat) : (s.incSat f n).regs = (s.set f (min (s.get f + n) (2 ^ f.len - 1))).regs := rfl
@[simp] theorem State.incSat_mem (f : Fld) (n : Nat) : (s.incSat f n).mem = s.mem := rfl
@[simp] theorem State.incSat_memBad (f : Fld) (n : Nat) : (s.incSat f n).memBad = s.memBad := rfl
@[simp] theorem State.incSat_hostMem (f : Fld) (n : Nat) : (s.incSat f n).hostMem = s.hostMem := rfl
@[simp] theorem State.incSat_msix (f : Fld) (n : Nat) : (s.incSat f n).msix = s.msix := rfl
@[simp] theorem State.incSat_sent (f : Fld) (n : Nat) : (s.incSat f n).sent = s.sent := rfl
@[simp] theorem State.incSat_fuses (f : Fld) (n : Nat) : (s.incSat f n).fuses = s.fuses := rfl
@[simp] theorem State.incSat_pages (f : Fld) (n : Nat) : (s.incSat f n).pages = s.pages := rfl
@[simp] theorem State.incSat_tableLost (f : Fld) (n : Nat) : (s.incSat f n).tableLost = s.tableLost := rfl
@[simp] theorem State.incSat_frames (f : Fld) (n : Nat) : (s.incSat f n).frames = s.frames := rfl
@[simp] theorem State.incSat_farFrames (f : Fld) (n : Nat) : (s.incSat f n).farFrames = s.farFrames := rfl
@[simp] theorem State.incSat_mapOp (f : Fld) (n : Nat) : (s.incSat f n).mapOp = s.mapOp := rfl
@[simp] theorem State.incSat_migrations (f : Fld) (n : Nat) : (s.incSat f n).migrations = s.migrations := rfl
@[simp] theorem State.incSat_drains (f : Fld) (n : Nat) : (s.incSat f n).drains = s.drains := rfl
@[simp] theorem State.incSat_evict (f : Fld) (n : Nat) : (s.incSat f n).evict = s.evict := rfl
@[simp] theorem State.incSat_tierCorr (f : Fld) (n : Nat) : (s.incSat f n).tierCorr = s.tierCorr := rfl
@[simp] theorem State.incSat_hqs (f : Fld) (n : Nat) : (s.incSat f n).hqs = s.hqs := rfl
@[simp] theorem State.incSat_quads (f : Fld) (n : Nat) : (s.incSat f n).quads = s.quads := rfl
@[simp] theorem State.incSat_ing (f : Fld) (n : Nat) : (s.incSat f n).ing = s.ing := rfl
@[simp] theorem State.incSat_req (f : Fld) (n : Nat) : (s.incSat f n).req = s.req := rfl
@[simp] theorem State.incSat_acct (f : Fld) (n : Nat) : (s.incSat f n).acct = s.acct := rfl
@[simp] theorem State.incSat_chord (f : Fld) (n : Nat) : (s.incSat f n).chord = s.chord := rfl
@[simp] theorem State.incSat_ecu (f : Fld) (n : Nat) : (s.incSat f n).ecu = s.ecu := rfl
@[simp] theorem State.incSat_sec (f : Fld) (n : Nat) : (s.incSat f n).sec = s.sec := rfl
@[simp] theorem State.incSat_mgmt (f : Fld) (n : Nat) : (s.incSat f n).mgmt = s.mgmt := rfl
@[simp] theorem State.incSat_log (f : Fld) (n : Nat) : (s.incSat f n).log = s.log := rfl
@[simp] theorem State.incSat_logPrev (f : Fld) (n : Nat) : (s.incSat f n).logPrev = s.logPrev := rfl

/-! ## dec -/

@[simp] theorem State.dec_pending (f : Fld) (n : Nat) : (s.dec f n).pending = s.pending := rfl
@[simp] theorem State.dec_ticks (f : Fld) (n : Nat) : (s.dec f n).ticks = s.ticks := rfl
@[simp] theorem State.dec_boot (f : Fld) (n : Nat) : (s.dec f n).boot = s.boot := rfl
@[simp] theorem State.dec_freeCtr (f : Fld) (n : Nat) : (s.dec f n).freeCtr = s.freeCtr := rfl
@[simp] theorem State.dec_readData (f : Fld) (n : Nat) : (s.dec f n).readData = s.readData := rfl
@[simp] theorem State.dec_busViol (f : Fld) (n : Nat) : (s.dec f n).busViol = s.busViol := rfl
@[simp] theorem State.dec_wideLatch (f : Fld) (n : Nat) : (s.dec f n).wideLatch = s.wideLatch := rfl
theorem State.dec_regs (f : Fld) (n : Nat) : (s.dec f n).regs = (s.set f (s.get f - n)).regs := rfl
@[simp] theorem State.dec_mem (f : Fld) (n : Nat) : (s.dec f n).mem = s.mem := rfl
@[simp] theorem State.dec_memBad (f : Fld) (n : Nat) : (s.dec f n).memBad = s.memBad := rfl
@[simp] theorem State.dec_hostMem (f : Fld) (n : Nat) : (s.dec f n).hostMem = s.hostMem := rfl
@[simp] theorem State.dec_msix (f : Fld) (n : Nat) : (s.dec f n).msix = s.msix := rfl
@[simp] theorem State.dec_sent (f : Fld) (n : Nat) : (s.dec f n).sent = s.sent := rfl
@[simp] theorem State.dec_fuses (f : Fld) (n : Nat) : (s.dec f n).fuses = s.fuses := rfl
@[simp] theorem State.dec_pages (f : Fld) (n : Nat) : (s.dec f n).pages = s.pages := rfl
@[simp] theorem State.dec_tableLost (f : Fld) (n : Nat) : (s.dec f n).tableLost = s.tableLost := rfl
@[simp] theorem State.dec_frames (f : Fld) (n : Nat) : (s.dec f n).frames = s.frames := rfl
@[simp] theorem State.dec_farFrames (f : Fld) (n : Nat) : (s.dec f n).farFrames = s.farFrames := rfl
@[simp] theorem State.dec_mapOp (f : Fld) (n : Nat) : (s.dec f n).mapOp = s.mapOp := rfl
@[simp] theorem State.dec_migrations (f : Fld) (n : Nat) : (s.dec f n).migrations = s.migrations := rfl
@[simp] theorem State.dec_drains (f : Fld) (n : Nat) : (s.dec f n).drains = s.drains := rfl
@[simp] theorem State.dec_evict (f : Fld) (n : Nat) : (s.dec f n).evict = s.evict := rfl
@[simp] theorem State.dec_tierCorr (f : Fld) (n : Nat) : (s.dec f n).tierCorr = s.tierCorr := rfl
@[simp] theorem State.dec_hqs (f : Fld) (n : Nat) : (s.dec f n).hqs = s.hqs := rfl
@[simp] theorem State.dec_quads (f : Fld) (n : Nat) : (s.dec f n).quads = s.quads := rfl
@[simp] theorem State.dec_ing (f : Fld) (n : Nat) : (s.dec f n).ing = s.ing := rfl
@[simp] theorem State.dec_req (f : Fld) (n : Nat) : (s.dec f n).req = s.req := rfl
@[simp] theorem State.dec_acct (f : Fld) (n : Nat) : (s.dec f n).acct = s.acct := rfl
@[simp] theorem State.dec_chord (f : Fld) (n : Nat) : (s.dec f n).chord = s.chord := rfl
@[simp] theorem State.dec_ecu (f : Fld) (n : Nat) : (s.dec f n).ecu = s.ecu := rfl
@[simp] theorem State.dec_sec (f : Fld) (n : Nat) : (s.dec f n).sec = s.sec := rfl
@[simp] theorem State.dec_mgmt (f : Fld) (n : Nat) : (s.dec f n).mgmt = s.mgmt := rfl
@[simp] theorem State.dec_log (f : Fld) (n : Nat) : (s.dec f n).log = s.log := rfl
@[simp] theorem State.dec_logPrev (f : Fld) (n : Nat) : (s.dec f n).logPrev = s.logPrev := rfl

/-! ## clearFld -/

@[simp] theorem State.clearFld_pending (f : Fld) : (s.clearFld f).pending = s.pending := rfl
@[simp] theorem State.clearFld_ticks (f : Fld) : (s.clearFld f).ticks = s.ticks := rfl
@[simp] theorem State.clearFld_boot (f : Fld) : (s.clearFld f).boot = s.boot := rfl
@[simp] theorem State.clearFld_freeCtr (f : Fld) : (s.clearFld f).freeCtr = s.freeCtr := rfl
@[simp] theorem State.clearFld_readData (f : Fld) : (s.clearFld f).readData = s.readData := rfl
@[simp] theorem State.clearFld_busViol (f : Fld) : (s.clearFld f).busViol = s.busViol := rfl
@[simp] theorem State.clearFld_wideLatch (f : Fld) : (s.clearFld f).wideLatch = s.wideLatch := rfl
theorem State.clearFld_regs (f : Fld) : (s.clearFld f).regs = (s.set f f.reset).regs := rfl
@[simp] theorem State.clearFld_mem (f : Fld) : (s.clearFld f).mem = s.mem := rfl
@[simp] theorem State.clearFld_memBad (f : Fld) : (s.clearFld f).memBad = s.memBad := rfl
@[simp] theorem State.clearFld_hostMem (f : Fld) : (s.clearFld f).hostMem = s.hostMem := rfl
@[simp] theorem State.clearFld_msix (f : Fld) : (s.clearFld f).msix = s.msix := rfl
@[simp] theorem State.clearFld_sent (f : Fld) : (s.clearFld f).sent = s.sent := rfl
@[simp] theorem State.clearFld_fuses (f : Fld) : (s.clearFld f).fuses = s.fuses := rfl
@[simp] theorem State.clearFld_pages (f : Fld) : (s.clearFld f).pages = s.pages := rfl
@[simp] theorem State.clearFld_tableLost (f : Fld) : (s.clearFld f).tableLost = s.tableLost := rfl
@[simp] theorem State.clearFld_frames (f : Fld) : (s.clearFld f).frames = s.frames := rfl
@[simp] theorem State.clearFld_farFrames (f : Fld) : (s.clearFld f).farFrames = s.farFrames := rfl
@[simp] theorem State.clearFld_mapOp (f : Fld) : (s.clearFld f).mapOp = s.mapOp := rfl
@[simp] theorem State.clearFld_migrations (f : Fld) : (s.clearFld f).migrations = s.migrations := rfl
@[simp] theorem State.clearFld_drains (f : Fld) : (s.clearFld f).drains = s.drains := rfl
@[simp] theorem State.clearFld_evict (f : Fld) : (s.clearFld f).evict = s.evict := rfl
@[simp] theorem State.clearFld_tierCorr (f : Fld) : (s.clearFld f).tierCorr = s.tierCorr := rfl
@[simp] theorem State.clearFld_hqs (f : Fld) : (s.clearFld f).hqs = s.hqs := rfl
@[simp] theorem State.clearFld_quads (f : Fld) : (s.clearFld f).quads = s.quads := rfl
@[simp] theorem State.clearFld_ing (f : Fld) : (s.clearFld f).ing = s.ing := rfl
@[simp] theorem State.clearFld_req (f : Fld) : (s.clearFld f).req = s.req := rfl
@[simp] theorem State.clearFld_acct (f : Fld) : (s.clearFld f).acct = s.acct := rfl
@[simp] theorem State.clearFld_chord (f : Fld) : (s.clearFld f).chord = s.chord := rfl
@[simp] theorem State.clearFld_ecu (f : Fld) : (s.clearFld f).ecu = s.ecu := rfl
@[simp] theorem State.clearFld_sec (f : Fld) : (s.clearFld f).sec = s.sec := rfl
@[simp] theorem State.clearFld_mgmt (f : Fld) : (s.clearFld f).mgmt = s.mgmt := rfl
@[simp] theorem State.clearFld_log (f : Fld) : (s.clearFld f).log = s.log := rfl
@[simp] theorem State.clearFld_logPrev (f : Fld) : (s.clearFld f).logPrev = s.logPrev := rfl

/-! ## setQuad -/

@[simp] theorem State.setQuad_pending (q : Nat) (x : Quad) : (s.setQuad q x).pending = s.pending := rfl
@[simp] theorem State.setQuad_ticks (q : Nat) (x : Quad) : (s.setQuad q x).ticks = s.ticks := rfl
@[simp] theorem State.setQuad_boot (q : Nat) (x : Quad) : (s.setQuad q x).boot = s.boot := rfl
@[simp] theorem State.setQuad_freeCtr (q : Nat) (x : Quad) : (s.setQuad q x).freeCtr = s.freeCtr := rfl
@[simp] theorem State.setQuad_readData (q : Nat) (x : Quad) : (s.setQuad q x).readData = s.readData := rfl
@[simp] theorem State.setQuad_busViol (q : Nat) (x : Quad) : (s.setQuad q x).busViol = s.busViol := rfl
@[simp] theorem State.setQuad_wideLatch (q : Nat) (x : Quad) : (s.setQuad q x).wideLatch = s.wideLatch := rfl
@[simp] theorem State.setQuad_regs (q : Nat) (x : Quad) : (s.setQuad q x).regs = s.regs := rfl
@[simp] theorem State.setQuad_mem (q : Nat) (x : Quad) : (s.setQuad q x).mem = s.mem := rfl
@[simp] theorem State.setQuad_memBad (q : Nat) (x : Quad) : (s.setQuad q x).memBad = s.memBad := rfl
@[simp] theorem State.setQuad_hostMem (q : Nat) (x : Quad) : (s.setQuad q x).hostMem = s.hostMem := rfl
@[simp] theorem State.setQuad_msix (q : Nat) (x : Quad) : (s.setQuad q x).msix = s.msix := rfl
@[simp] theorem State.setQuad_sent (q : Nat) (x : Quad) : (s.setQuad q x).sent = s.sent := rfl
@[simp] theorem State.setQuad_fuses (q : Nat) (x : Quad) : (s.setQuad q x).fuses = s.fuses := rfl
@[simp] theorem State.setQuad_pages (q : Nat) (x : Quad) : (s.setQuad q x).pages = s.pages := rfl
@[simp] theorem State.setQuad_tableLost (q : Nat) (x : Quad) : (s.setQuad q x).tableLost = s.tableLost := rfl
@[simp] theorem State.setQuad_frames (q : Nat) (x : Quad) : (s.setQuad q x).frames = s.frames := rfl
@[simp] theorem State.setQuad_farFrames (q : Nat) (x : Quad) : (s.setQuad q x).farFrames = s.farFrames := rfl
@[simp] theorem State.setQuad_mapOp (q : Nat) (x : Quad) : (s.setQuad q x).mapOp = s.mapOp := rfl
@[simp] theorem State.setQuad_migrations (q : Nat) (x : Quad) : (s.setQuad q x).migrations = s.migrations := rfl
@[simp] theorem State.setQuad_drains (q : Nat) (x : Quad) : (s.setQuad q x).drains = s.drains := rfl
@[simp] theorem State.setQuad_evict (q : Nat) (x : Quad) : (s.setQuad q x).evict = s.evict := rfl
@[simp] theorem State.setQuad_tierCorr (q : Nat) (x : Quad) : (s.setQuad q x).tierCorr = s.tierCorr := rfl
@[simp] theorem State.setQuad_hqs (q : Nat) (x : Quad) : (s.setQuad q x).hqs = s.hqs := rfl
@[simp] theorem State.setQuad_quads (q : Nat) (x : Quad) : (s.setQuad q x).quads = nset s.quads Quad.init q x := rfl
@[simp] theorem State.setQuad_ing (q : Nat) (x : Quad) : (s.setQuad q x).ing = s.ing := rfl
@[simp] theorem State.setQuad_req (q : Nat) (x : Quad) : (s.setQuad q x).req = s.req := rfl
@[simp] theorem State.setQuad_acct (q : Nat) (x : Quad) : (s.setQuad q x).acct = s.acct := rfl
@[simp] theorem State.setQuad_chord (q : Nat) (x : Quad) : (s.setQuad q x).chord = s.chord := rfl
@[simp] theorem State.setQuad_ecu (q : Nat) (x : Quad) : (s.setQuad q x).ecu = s.ecu := rfl
@[simp] theorem State.setQuad_sec (q : Nat) (x : Quad) : (s.setQuad q x).sec = s.sec := rfl
@[simp] theorem State.setQuad_mgmt (q : Nat) (x : Quad) : (s.setQuad q x).mgmt = s.mgmt := rfl
@[simp] theorem State.setQuad_log (q : Nat) (x : Quad) : (s.setQuad q x).log = s.log := rfl
@[simp] theorem State.setQuad_logPrev (q : Nat) (x : Quad) : (s.setQuad q x).logPrev = s.logPrev := rfl

/-! ## modQuad -/

@[simp] theorem State.modQuad_pending (q : Nat) (f : Quad → Quad) : (s.modQuad q f).pending = s.pending := rfl
@[simp] theorem State.modQuad_ticks (q : Nat) (f : Quad → Quad) : (s.modQuad q f).ticks = s.ticks := rfl
@[simp] theorem State.modQuad_boot (q : Nat) (f : Quad → Quad) : (s.modQuad q f).boot = s.boot := rfl
@[simp] theorem State.modQuad_freeCtr (q : Nat) (f : Quad → Quad) : (s.modQuad q f).freeCtr = s.freeCtr := rfl
@[simp] theorem State.modQuad_readData (q : Nat) (f : Quad → Quad) : (s.modQuad q f).readData = s.readData := rfl
@[simp] theorem State.modQuad_busViol (q : Nat) (f : Quad → Quad) : (s.modQuad q f).busViol = s.busViol := rfl
@[simp] theorem State.modQuad_wideLatch (q : Nat) (f : Quad → Quad) : (s.modQuad q f).wideLatch = s.wideLatch := rfl
@[simp] theorem State.modQuad_regs (q : Nat) (f : Quad → Quad) : (s.modQuad q f).regs = s.regs := rfl
@[simp] theorem State.modQuad_mem (q : Nat) (f : Quad → Quad) : (s.modQuad q f).mem = s.mem := rfl
@[simp] theorem State.modQuad_memBad (q : Nat) (f : Quad → Quad) : (s.modQuad q f).memBad = s.memBad := rfl
@[simp] theorem State.modQuad_hostMem (q : Nat) (f : Quad → Quad) : (s.modQuad q f).hostMem = s.hostMem := rfl
@[simp] theorem State.modQuad_msix (q : Nat) (f : Quad → Quad) : (s.modQuad q f).msix = s.msix := rfl
@[simp] theorem State.modQuad_sent (q : Nat) (f : Quad → Quad) : (s.modQuad q f).sent = s.sent := rfl
@[simp] theorem State.modQuad_fuses (q : Nat) (f : Quad → Quad) : (s.modQuad q f).fuses = s.fuses := rfl
@[simp] theorem State.modQuad_pages (q : Nat) (f : Quad → Quad) : (s.modQuad q f).pages = s.pages := rfl
@[simp] theorem State.modQuad_tableLost (q : Nat) (f : Quad → Quad) : (s.modQuad q f).tableLost = s.tableLost := rfl
@[simp] theorem State.modQuad_frames (q : Nat) (f : Quad → Quad) : (s.modQuad q f).frames = s.frames := rfl
@[simp] theorem State.modQuad_farFrames (q : Nat) (f : Quad → Quad) : (s.modQuad q f).farFrames = s.farFrames := rfl
@[simp] theorem State.modQuad_mapOp (q : Nat) (f : Quad → Quad) : (s.modQuad q f).mapOp = s.mapOp := rfl
@[simp] theorem State.modQuad_migrations (q : Nat) (f : Quad → Quad) : (s.modQuad q f).migrations = s.migrations := rfl
@[simp] theorem State.modQuad_drains (q : Nat) (f : Quad → Quad) : (s.modQuad q f).drains = s.drains := rfl
@[simp] theorem State.modQuad_evict (q : Nat) (f : Quad → Quad) : (s.modQuad q f).evict = s.evict := rfl
@[simp] theorem State.modQuad_tierCorr (q : Nat) (f : Quad → Quad) : (s.modQuad q f).tierCorr = s.tierCorr := rfl
@[simp] theorem State.modQuad_hqs (q : Nat) (f : Quad → Quad) : (s.modQuad q f).hqs = s.hqs := rfl
@[simp] theorem State.modQuad_quads (q : Nat) (f : Quad → Quad) : (s.modQuad q f).quads = nset s.quads Quad.init q (f (s.quad q)) := rfl
@[simp] theorem State.modQuad_ing (q : Nat) (f : Quad → Quad) : (s.modQuad q f).ing = s.ing := rfl
@[simp] theorem State.modQuad_req (q : Nat) (f : Quad → Quad) : (s.modQuad q f).req = s.req := rfl
@[simp] theorem State.modQuad_acct (q : Nat) (f : Quad → Quad) : (s.modQuad q f).acct = s.acct := rfl
@[simp] theorem State.modQuad_chord (q : Nat) (f : Quad → Quad) : (s.modQuad q f).chord = s.chord := rfl
@[simp] theorem State.modQuad_ecu (q : Nat) (f : Quad → Quad) : (s.modQuad q f).ecu = s.ecu := rfl
@[simp] theorem State.modQuad_sec (q : Nat) (f : Quad → Quad) : (s.modQuad q f).sec = s.sec := rfl
@[simp] theorem State.modQuad_mgmt (q : Nat) (f : Quad → Quad) : (s.modQuad q f).mgmt = s.mgmt := rfl
@[simp] theorem State.modQuad_log (q : Nat) (f : Quad → Quad) : (s.modQuad q f).log = s.log := rfl
@[simp] theorem State.modQuad_logPrev (q : Nat) (f : Quad → Quad) : (s.modQuad q f).logPrev = s.logPrev := rfl

/-! ## sendMsix -/

@[simp] theorem State.sendMsix_pending (p v : Nat) : (s.sendMsix p v).pending = s.pending := rfl
@[simp] theorem State.sendMsix_ticks (p v : Nat) : (s.sendMsix p v).ticks = s.ticks := rfl
@[simp] theorem State.sendMsix_boot (p v : Nat) : (s.sendMsix p v).boot = s.boot := rfl
@[simp] theorem State.sendMsix_freeCtr (p v : Nat) : (s.sendMsix p v).freeCtr = s.freeCtr := rfl
@[simp] theorem State.sendMsix_readData (p v : Nat) : (s.sendMsix p v).readData = s.readData := rfl
@[simp] theorem State.sendMsix_busViol (p v : Nat) : (s.sendMsix p v).busViol = s.busViol := rfl
@[simp] theorem State.sendMsix_wideLatch (p v : Nat) : (s.sendMsix p v).wideLatch = s.wideLatch := rfl
@[simp] theorem State.sendMsix_regs (p v : Nat) : (s.sendMsix p v).regs = s.regs := rfl
@[simp] theorem State.sendMsix_mem (p v : Nat) : (s.sendMsix p v).mem = s.mem := rfl
@[simp] theorem State.sendMsix_memBad (p v : Nat) : (s.sendMsix p v).memBad = s.memBad := rfl
@[simp] theorem State.sendMsix_hostMem (p v : Nat) : (s.sendMsix p v).hostMem = s.hostMem := rfl
@[simp] theorem State.sendMsix_msix (p v : Nat) : (s.sendMsix p v).msix = s.msix ++ [⟨p, v⟩] := rfl
@[simp] theorem State.sendMsix_sent (p v : Nat) : (s.sendMsix p v).sent = s.sent := rfl
@[simp] theorem State.sendMsix_fuses (p v : Nat) : (s.sendMsix p v).fuses = s.fuses := rfl
@[simp] theorem State.sendMsix_pages (p v : Nat) : (s.sendMsix p v).pages = s.pages := rfl
@[simp] theorem State.sendMsix_tableLost (p v : Nat) : (s.sendMsix p v).tableLost = s.tableLost := rfl
@[simp] theorem State.sendMsix_frames (p v : Nat) : (s.sendMsix p v).frames = s.frames := rfl
@[simp] theorem State.sendMsix_farFrames (p v : Nat) : (s.sendMsix p v).farFrames = s.farFrames := rfl
@[simp] theorem State.sendMsix_mapOp (p v : Nat) : (s.sendMsix p v).mapOp = s.mapOp := rfl
@[simp] theorem State.sendMsix_migrations (p v : Nat) : (s.sendMsix p v).migrations = s.migrations := rfl
@[simp] theorem State.sendMsix_drains (p v : Nat) : (s.sendMsix p v).drains = s.drains := rfl
@[simp] theorem State.sendMsix_evict (p v : Nat) : (s.sendMsix p v).evict = s.evict := rfl
@[simp] theorem State.sendMsix_tierCorr (p v : Nat) : (s.sendMsix p v).tierCorr = s.tierCorr := rfl
@[simp] theorem State.sendMsix_hqs (p v : Nat) : (s.sendMsix p v).hqs = s.hqs := rfl
@[simp] theorem State.sendMsix_quads (p v : Nat) : (s.sendMsix p v).quads = s.quads := rfl
@[simp] theorem State.sendMsix_ing (p v : Nat) : (s.sendMsix p v).ing = s.ing := rfl
@[simp] theorem State.sendMsix_req (p v : Nat) : (s.sendMsix p v).req = s.req := rfl
@[simp] theorem State.sendMsix_acct (p v : Nat) : (s.sendMsix p v).acct = s.acct := rfl
@[simp] theorem State.sendMsix_chord (p v : Nat) : (s.sendMsix p v).chord = s.chord := rfl
@[simp] theorem State.sendMsix_ecu (p v : Nat) : (s.sendMsix p v).ecu = s.ecu := rfl
@[simp] theorem State.sendMsix_sec (p v : Nat) : (s.sendMsix p v).sec = s.sec := rfl
@[simp] theorem State.sendMsix_mgmt (p v : Nat) : (s.sendMsix p v).mgmt = s.mgmt := rfl
@[simp] theorem State.sendMsix_log (p v : Nat) : (s.sendMsix p v).log = s.log := rfl
@[simp] theorem State.sendMsix_logPrev (p v : Nat) : (s.sendMsix p v).logPrev = s.logPrev := rfl

/-! ## send -/

@[simp] theorem State.send_pending (p d : Nat) (b : List Byte) : (s.send p d b).pending = s.pending := rfl
@[simp] theorem State.send_ticks (p d : Nat) (b : List Byte) : (s.send p d b).ticks = s.ticks := rfl
@[simp] theorem State.send_boot (p d : Nat) (b : List Byte) : (s.send p d b).boot = s.boot := rfl
@[simp] theorem State.send_freeCtr (p d : Nat) (b : List Byte) : (s.send p d b).freeCtr = s.freeCtr := rfl
@[simp] theorem State.send_readData (p d : Nat) (b : List Byte) : (s.send p d b).readData = s.readData := rfl
@[simp] theorem State.send_busViol (p d : Nat) (b : List Byte) : (s.send p d b).busViol = s.busViol := rfl
@[simp] theorem State.send_wideLatch (p d : Nat) (b : List Byte) : (s.send p d b).wideLatch = s.wideLatch := rfl
@[simp] theorem State.send_regs (p d : Nat) (b : List Byte) : (s.send p d b).regs = s.regs := rfl
@[simp] theorem State.send_mem (p d : Nat) (b : List Byte) : (s.send p d b).mem = s.mem := rfl
@[simp] theorem State.send_memBad (p d : Nat) (b : List Byte) : (s.send p d b).memBad = s.memBad := rfl
@[simp] theorem State.send_hostMem (p d : Nat) (b : List Byte) : (s.send p d b).hostMem = s.hostMem := rfl
@[simp] theorem State.send_msix (p d : Nat) (b : List Byte) : (s.send p d b).msix = s.msix := rfl
@[simp] theorem State.send_sent (p d : Nat) (b : List Byte) : (s.send p d b).sent = s.sent ++ [⟨p, d, b⟩] := rfl
@[simp] theorem State.send_fuses (p d : Nat) (b : List Byte) : (s.send p d b).fuses = s.fuses := rfl
@[simp] theorem State.send_pages (p d : Nat) (b : List Byte) : (s.send p d b).pages = s.pages := rfl
@[simp] theorem State.send_tableLost (p d : Nat) (b : List Byte) : (s.send p d b).tableLost = s.tableLost := rfl
@[simp] theorem State.send_frames (p d : Nat) (b : List Byte) : (s.send p d b).frames = s.frames := rfl
@[simp] theorem State.send_farFrames (p d : Nat) (b : List Byte) : (s.send p d b).farFrames = s.farFrames := rfl
@[simp] theorem State.send_mapOp (p d : Nat) (b : List Byte) : (s.send p d b).mapOp = s.mapOp := rfl
@[simp] theorem State.send_migrations (p d : Nat) (b : List Byte) : (s.send p d b).migrations = s.migrations := rfl
@[simp] theorem State.send_drains (p d : Nat) (b : List Byte) : (s.send p d b).drains = s.drains := rfl
@[simp] theorem State.send_evict (p d : Nat) (b : List Byte) : (s.send p d b).evict = s.evict := rfl
@[simp] theorem State.send_tierCorr (p d : Nat) (b : List Byte) : (s.send p d b).tierCorr = s.tierCorr := rfl
@[simp] theorem State.send_hqs (p d : Nat) (b : List Byte) : (s.send p d b).hqs = s.hqs := rfl
@[simp] theorem State.send_quads (p d : Nat) (b : List Byte) : (s.send p d b).quads = s.quads := rfl
@[simp] theorem State.send_ing (p d : Nat) (b : List Byte) : (s.send p d b).ing = s.ing := rfl
@[simp] theorem State.send_req (p d : Nat) (b : List Byte) : (s.send p d b).req = s.req := rfl
@[simp] theorem State.send_acct (p d : Nat) (b : List Byte) : (s.send p d b).acct = s.acct := rfl
@[simp] theorem State.send_chord (p d : Nat) (b : List Byte) : (s.send p d b).chord = s.chord := rfl
@[simp] theorem State.send_ecu (p d : Nat) (b : List Byte) : (s.send p d b).ecu = s.ecu := rfl
@[simp] theorem State.send_sec (p d : Nat) (b : List Byte) : (s.send p d b).sec = s.sec := rfl
@[simp] theorem State.send_mgmt (p d : Nat) (b : List Byte) : (s.send p d b).mgmt = s.mgmt := rfl
@[simp] theorem State.send_log (p d : Nat) (b : List Byte) : (s.send p d b).log = s.log := rfl
@[simp] theorem State.send_logPrev (p d : Nat) (b : List Byte) : (s.send p d b).logPrev = s.logPrev := rfl

/-! ## answer -/

@[simp] theorem State.answer_pending (v : Nat) : (s.answer v).pending = s.pending := rfl
@[simp] theorem State.answer_ticks (v : Nat) : (s.answer v).ticks = s.ticks := rfl
@[simp] theorem State.answer_boot (v : Nat) : (s.answer v).boot = s.boot := rfl
@[simp] theorem State.answer_freeCtr (v : Nat) : (s.answer v).freeCtr = s.freeCtr := rfl
@[simp] theorem State.answer_readData (v : Nat) : (s.answer v).readData = BitVec.ofNat 64 v := rfl
@[simp] theorem State.answer_wideLatch (v : Nat) : (s.answer v).wideLatch = s.wideLatch := rfl
@[simp] theorem State.answer_regs (v : Nat) : (s.answer v).regs = s.regs := rfl
@[simp] theorem State.answer_mem (v : Nat) : (s.answer v).mem = s.mem := rfl
@[simp] theorem State.answer_memBad (v : Nat) : (s.answer v).memBad = s.memBad := rfl
@[simp] theorem State.answer_hostMem (v : Nat) : (s.answer v).hostMem = s.hostMem := rfl
@[simp] theorem State.answer_msix (v : Nat) : (s.answer v).msix = s.msix := rfl
@[simp] theorem State.answer_sent (v : Nat) : (s.answer v).sent = s.sent := rfl
@[simp] theorem State.answer_fuses (v : Nat) : (s.answer v).fuses = s.fuses := rfl
@[simp] theorem State.answer_pages (v : Nat) : (s.answer v).pages = s.pages := rfl
@[simp] theorem State.answer_tableLost (v : Nat) : (s.answer v).tableLost = s.tableLost := rfl
@[simp] theorem State.answer_frames (v : Nat) : (s.answer v).frames = s.frames := rfl
@[simp] theorem State.answer_farFrames (v : Nat) : (s.answer v).farFrames = s.farFrames := rfl
@[simp] theorem State.answer_mapOp (v : Nat) : (s.answer v).mapOp = s.mapOp := rfl
@[simp] theorem State.answer_migrations (v : Nat) : (s.answer v).migrations = s.migrations := rfl
@[simp] theorem State.answer_drains (v : Nat) : (s.answer v).drains = s.drains := rfl
@[simp] theorem State.answer_evict (v : Nat) : (s.answer v).evict = s.evict := rfl
@[simp] theorem State.answer_tierCorr (v : Nat) : (s.answer v).tierCorr = s.tierCorr := rfl
@[simp] theorem State.answer_hqs (v : Nat) : (s.answer v).hqs = s.hqs := rfl
@[simp] theorem State.answer_quads (v : Nat) : (s.answer v).quads = s.quads := rfl
@[simp] theorem State.answer_ing (v : Nat) : (s.answer v).ing = s.ing := rfl
@[simp] theorem State.answer_req (v : Nat) : (s.answer v).req = s.req := rfl
@[simp] theorem State.answer_acct (v : Nat) : (s.answer v).acct = s.acct := rfl
@[simp] theorem State.answer_chord (v : Nat) : (s.answer v).chord = s.chord := rfl
@[simp] theorem State.answer_ecu (v : Nat) : (s.answer v).ecu = s.ecu := rfl
@[simp] theorem State.answer_sec (v : Nat) : (s.answer v).sec = s.sec := rfl
@[simp] theorem State.answer_mgmt (v : Nat) : (s.answer v).mgmt = s.mgmt := rfl
@[simp] theorem State.answer_log (v : Nat) : (s.answer v).log = s.log := rfl
@[simp] theorem State.answer_logPrev (v : Nat) : (s.answer v).logPrev = s.logPrev := rfl

/-! ## setPage -/

@[simp] theorem State.setPage_pending (p : Nat) (e : Pte) : (s.setPage p e).pending = s.pending := rfl
@[simp] theorem State.setPage_ticks (p : Nat) (e : Pte) : (s.setPage p e).ticks = s.ticks := rfl
@[simp] theorem State.setPage_boot (p : Nat) (e : Pte) : (s.setPage p e).boot = s.boot := rfl
@[simp] theorem State.setPage_freeCtr (p : Nat) (e : Pte) : (s.setPage p e).freeCtr = s.freeCtr := rfl
@[simp] theorem State.setPage_readData (p : Nat) (e : Pte) : (s.setPage p e).readData = s.readData := rfl
@[simp] theorem State.setPage_busViol (p : Nat) (e : Pte) : (s.setPage p e).busViol = s.busViol := rfl
@[simp] theorem State.setPage_wideLatch (p : Nat) (e : Pte) : (s.setPage p e).wideLatch = s.wideLatch := rfl
@[simp] theorem State.setPage_regs (p : Nat) (e : Pte) : (s.setPage p e).regs = s.regs := rfl
@[simp] theorem State.setPage_mem (p : Nat) (e : Pte) : (s.setPage p e).mem = s.mem := rfl
@[simp] theorem State.setPage_memBad (p : Nat) (e : Pte) : (s.setPage p e).memBad = s.memBad := rfl
@[simp] theorem State.setPage_hostMem (p : Nat) (e : Pte) : (s.setPage p e).hostMem = s.hostMem := rfl
@[simp] theorem State.setPage_msix (p : Nat) (e : Pte) : (s.setPage p e).msix = s.msix := rfl
@[simp] theorem State.setPage_sent (p : Nat) (e : Pte) : (s.setPage p e).sent = s.sent := rfl
@[simp] theorem State.setPage_fuses (p : Nat) (e : Pte) : (s.setPage p e).fuses = s.fuses := rfl
@[simp] theorem State.setPage_pages (p : Nat) (e : Pte) : (s.setPage p e).pages = nset s.pages 0 p e := rfl
@[simp] theorem State.setPage_tableLost (p : Nat) (e : Pte) : (s.setPage p e).tableLost = s.tableLost := rfl
@[simp] theorem State.setPage_frames (p : Nat) (e : Pte) : (s.setPage p e).frames = s.frames := rfl
@[simp] theorem State.setPage_farFrames (p : Nat) (e : Pte) : (s.setPage p e).farFrames = s.farFrames := rfl
@[simp] theorem State.setPage_mapOp (p : Nat) (e : Pte) : (s.setPage p e).mapOp = s.mapOp := rfl
@[simp] theorem State.setPage_migrations (p : Nat) (e : Pte) : (s.setPage p e).migrations = s.migrations := rfl
@[simp] theorem State.setPage_drains (p : Nat) (e : Pte) : (s.setPage p e).drains = s.drains := rfl
@[simp] theorem State.setPage_evict (p : Nat) (e : Pte) : (s.setPage p e).evict = s.evict := rfl
@[simp] theorem State.setPage_tierCorr (p : Nat) (e : Pte) : (s.setPage p e).tierCorr = s.tierCorr := rfl
@[simp] theorem State.setPage_hqs (p : Nat) (e : Pte) : (s.setPage p e).hqs = s.hqs := rfl
@[simp] theorem State.setPage_quads (p : Nat) (e : Pte) : (s.setPage p e).quads = s.quads := rfl
@[simp] theorem State.setPage_ing (p : Nat) (e : Pte) : (s.setPage p e).ing = s.ing := rfl
@[simp] theorem State.setPage_req (p : Nat) (e : Pte) : (s.setPage p e).req = s.req := rfl
@[simp] theorem State.setPage_acct (p : Nat) (e : Pte) : (s.setPage p e).acct = s.acct := rfl
@[simp] theorem State.setPage_chord (p : Nat) (e : Pte) : (s.setPage p e).chord = s.chord := rfl
@[simp] theorem State.setPage_ecu (p : Nat) (e : Pte) : (s.setPage p e).ecu = s.ecu := rfl
@[simp] theorem State.setPage_sec (p : Nat) (e : Pte) : (s.setPage p e).sec = s.sec := rfl
@[simp] theorem State.setPage_mgmt (p : Nat) (e : Pte) : (s.setPage p e).mgmt = s.mgmt := rfl
@[simp] theorem State.setPage_log (p : Nat) (e : Pte) : (s.setPage p e).log = s.log := rfl
@[simp] theorem State.setPage_logPrev (p : Nat) (e : Pte) : (s.setPage p e).logPrev = s.logPrev := rfl

/-! ## setUse -/

@[simp] theorem State.setUse_pending (u fr : Nat) (x : FrameUse) : (s.setUse u fr x).pending = s.pending := rfl
@[simp] theorem State.setUse_ticks (u fr : Nat) (x : FrameUse) : (s.setUse u fr x).ticks = s.ticks := rfl
@[simp] theorem State.setUse_boot (u fr : Nat) (x : FrameUse) : (s.setUse u fr x).boot = s.boot := rfl
@[simp] theorem State.setUse_freeCtr (u fr : Nat) (x : FrameUse) : (s.setUse u fr x).freeCtr = s.freeCtr := rfl
@[simp] theorem State.setUse_readData (u fr : Nat) (x : FrameUse) : (s.setUse u fr x).readData = s.readData := rfl
@[simp] theorem State.setUse_busViol (u fr : Nat) (x : FrameUse) : (s.setUse u fr x).busViol = s.busViol := rfl
@[simp] theorem State.setUse_wideLatch (u fr : Nat) (x : FrameUse) : (s.setUse u fr x).wideLatch = s.wideLatch := rfl
@[simp] theorem State.setUse_regs (u fr : Nat) (x : FrameUse) : (s.setUse u fr x).regs = s.regs := rfl
@[simp] theorem State.setUse_mem (u fr : Nat) (x : FrameUse) : (s.setUse u fr x).mem = s.mem := rfl
@[simp] theorem State.setUse_memBad (u fr : Nat) (x : FrameUse) : (s.setUse u fr x).memBad = s.memBad := rfl
@[simp] theorem State.setUse_hostMem (u fr : Nat) (x : FrameUse) : (s.setUse u fr x).hostMem = s.hostMem := rfl
@[simp] theorem State.setUse_msix (u fr : Nat) (x : FrameUse) : (s.setUse u fr x).msix = s.msix := rfl
@[simp] theorem State.setUse_sent (u fr : Nat) (x : FrameUse) : (s.setUse u fr x).sent = s.sent := rfl
@[simp] theorem State.setUse_fuses (u fr : Nat) (x : FrameUse) : (s.setUse u fr x).fuses = s.fuses := rfl
@[simp] theorem State.setUse_pages (u fr : Nat) (x : FrameUse) : (s.setUse u fr x).pages = s.pages := rfl
@[simp] theorem State.setUse_tableLost (u fr : Nat) (x : FrameUse) : (s.setUse u fr x).tableLost = s.tableLost := rfl
@[simp] theorem State.setUse_frames (u fr : Nat) (x : FrameUse) : (s.setUse u fr x).frames = nset s.frames .free (frameKey u fr) x := rfl
@[simp] theorem State.setUse_farFrames (u fr : Nat) (x : FrameUse) : (s.setUse u fr x).farFrames = s.farFrames := rfl
@[simp] theorem State.setUse_mapOp (u fr : Nat) (x : FrameUse) : (s.setUse u fr x).mapOp = s.mapOp := rfl
@[simp] theorem State.setUse_migrations (u fr : Nat) (x : FrameUse) : (s.setUse u fr x).migrations = s.migrations := rfl
@[simp] theorem State.setUse_drains (u fr : Nat) (x : FrameUse) : (s.setUse u fr x).drains = s.drains := rfl
@[simp] theorem State.setUse_evict (u fr : Nat) (x : FrameUse) : (s.setUse u fr x).evict = s.evict := rfl
@[simp] theorem State.setUse_tierCorr (u fr : Nat) (x : FrameUse) : (s.setUse u fr x).tierCorr = s.tierCorr := rfl
@[simp] theorem State.setUse_hqs (u fr : Nat) (x : FrameUse) : (s.setUse u fr x).hqs = s.hqs := rfl
@[simp] theorem State.setUse_quads (u fr : Nat) (x : FrameUse) : (s.setUse u fr x).quads = s.quads := rfl
@[simp] theorem State.setUse_ing (u fr : Nat) (x : FrameUse) : (s.setUse u fr x).ing = s.ing := rfl
@[simp] theorem State.setUse_req (u fr : Nat) (x : FrameUse) : (s.setUse u fr x).req = s.req := rfl
@[simp] theorem State.setUse_acct (u fr : Nat) (x : FrameUse) : (s.setUse u fr x).acct = s.acct := rfl
@[simp] theorem State.setUse_chord (u fr : Nat) (x : FrameUse) : (s.setUse u fr x).chord = s.chord := rfl
@[simp] theorem State.setUse_ecu (u fr : Nat) (x : FrameUse) : (s.setUse u fr x).ecu = s.ecu := rfl
@[simp] theorem State.setUse_sec (u fr : Nat) (x : FrameUse) : (s.setUse u fr x).sec = s.sec := rfl
@[simp] theorem State.setUse_mgmt (u fr : Nat) (x : FrameUse) : (s.setUse u fr x).mgmt = s.mgmt := rfl
@[simp] theorem State.setUse_log (u fr : Nat) (x : FrameUse) : (s.setUse u fr x).log = s.log := rfl
@[simp] theorem State.setUse_logPrev (u fr : Nat) (x : FrameUse) : (s.setUse u fr x).logPrev = s.logPrev := rfl

/-! ## setEntry -/

@[simp] theorem State.setEntry_pending (i : Nat) (e : ReqEntry) : (s.setEntry i e).pending = s.pending := rfl
@[simp] theorem State.setEntry_ticks (i : Nat) (e : ReqEntry) : (s.setEntry i e).ticks = s.ticks := rfl
@[simp] theorem State.setEntry_boot (i : Nat) (e : ReqEntry) : (s.setEntry i e).boot = s.boot := rfl
@[simp] theorem State.setEntry_freeCtr (i : Nat) (e : ReqEntry) : (s.setEntry i e).freeCtr = s.freeCtr := rfl
@[simp] theorem State.setEntry_readData (i : Nat) (e : ReqEntry) : (s.setEntry i e).readData = s.readData := rfl
@[simp] theorem State.setEntry_busViol (i : Nat) (e : ReqEntry) : (s.setEntry i e).busViol = s.busViol := rfl
@[simp] theorem State.setEntry_wideLatch (i : Nat) (e : ReqEntry) : (s.setEntry i e).wideLatch = s.wideLatch := rfl
@[simp] theorem State.setEntry_regs (i : Nat) (e : ReqEntry) : (s.setEntry i e).regs = s.regs := rfl
@[simp] theorem State.setEntry_mem (i : Nat) (e : ReqEntry) : (s.setEntry i e).mem = s.mem := rfl
@[simp] theorem State.setEntry_memBad (i : Nat) (e : ReqEntry) : (s.setEntry i e).memBad = s.memBad := rfl
@[simp] theorem State.setEntry_hostMem (i : Nat) (e : ReqEntry) : (s.setEntry i e).hostMem = s.hostMem := rfl
@[simp] theorem State.setEntry_msix (i : Nat) (e : ReqEntry) : (s.setEntry i e).msix = s.msix := rfl
@[simp] theorem State.setEntry_sent (i : Nat) (e : ReqEntry) : (s.setEntry i e).sent = s.sent := rfl
@[simp] theorem State.setEntry_fuses (i : Nat) (e : ReqEntry) : (s.setEntry i e).fuses = s.fuses := rfl
@[simp] theorem State.setEntry_pages (i : Nat) (e : ReqEntry) : (s.setEntry i e).pages = s.pages := rfl
@[simp] theorem State.setEntry_tableLost (i : Nat) (e : ReqEntry) : (s.setEntry i e).tableLost = s.tableLost := rfl
@[simp] theorem State.setEntry_frames (i : Nat) (e : ReqEntry) : (s.setEntry i e).frames = s.frames := rfl
@[simp] theorem State.setEntry_farFrames (i : Nat) (e : ReqEntry) : (s.setEntry i e).farFrames = s.farFrames := rfl
@[simp] theorem State.setEntry_mapOp (i : Nat) (e : ReqEntry) : (s.setEntry i e).mapOp = s.mapOp := rfl
@[simp] theorem State.setEntry_migrations (i : Nat) (e : ReqEntry) : (s.setEntry i e).migrations = s.migrations := rfl
@[simp] theorem State.setEntry_drains (i : Nat) (e : ReqEntry) : (s.setEntry i e).drains = s.drains := rfl
@[simp] theorem State.setEntry_evict (i : Nat) (e : ReqEntry) : (s.setEntry i e).evict = s.evict := rfl
@[simp] theorem State.setEntry_tierCorr (i : Nat) (e : ReqEntry) : (s.setEntry i e).tierCorr = s.tierCorr := rfl
@[simp] theorem State.setEntry_hqs (i : Nat) (e : ReqEntry) : (s.setEntry i e).hqs = s.hqs := rfl
@[simp] theorem State.setEntry_quads (i : Nat) (e : ReqEntry) : (s.setEntry i e).quads = s.quads := rfl
@[simp] theorem State.setEntry_ing (i : Nat) (e : ReqEntry) : (s.setEntry i e).ing = s.ing := rfl
@[simp] theorem State.setEntry_req (i : Nat) (e : ReqEntry) : (s.setEntry i e).req = { s.req with entries := nset s.req.entries ReqEntry.init i e } := rfl
@[simp] theorem State.setEntry_acct (i : Nat) (e : ReqEntry) : (s.setEntry i e).acct = s.acct := rfl
@[simp] theorem State.setEntry_chord (i : Nat) (e : ReqEntry) : (s.setEntry i e).chord = s.chord := rfl
@[simp] theorem State.setEntry_ecu (i : Nat) (e : ReqEntry) : (s.setEntry i e).ecu = s.ecu := rfl
@[simp] theorem State.setEntry_sec (i : Nat) (e : ReqEntry) : (s.setEntry i e).sec = s.sec := rfl
@[simp] theorem State.setEntry_mgmt (i : Nat) (e : ReqEntry) : (s.setEntry i e).mgmt = s.mgmt := rfl
@[simp] theorem State.setEntry_log (i : Nat) (e : ReqEntry) : (s.setEntry i e).log = s.log := rfl
@[simp] theorem State.setEntry_logPrev (i : Nat) (e : ReqEntry) : (s.setEntry i e).logPrev = s.logPrev := rfl

/-! ## setGroup -/

@[simp] theorem State.setGroup_pending (g : Nat) (x : Group) : (s.setGroup g x).pending = s.pending := rfl
@[simp] theorem State.setGroup_ticks (g : Nat) (x : Group) : (s.setGroup g x).ticks = s.ticks := rfl
@[simp] theorem State.setGroup_boot (g : Nat) (x : Group) : (s.setGroup g x).boot = s.boot := rfl
@[simp] theorem State.setGroup_freeCtr (g : Nat) (x : Group) : (s.setGroup g x).freeCtr = s.freeCtr := rfl
@[simp] theorem State.setGroup_readData (g : Nat) (x : Group) : (s.setGroup g x).readData = s.readData := rfl
@[simp] theorem State.setGroup_busViol (g : Nat) (x : Group) : (s.setGroup g x).busViol = s.busViol := rfl
@[simp] theorem State.setGroup_wideLatch (g : Nat) (x : Group) : (s.setGroup g x).wideLatch = s.wideLatch := rfl
@[simp] theorem State.setGroup_regs (g : Nat) (x : Group) : (s.setGroup g x).regs = s.regs := rfl
@[simp] theorem State.setGroup_mem (g : Nat) (x : Group) : (s.setGroup g x).mem = s.mem := rfl
@[simp] theorem State.setGroup_memBad (g : Nat) (x : Group) : (s.setGroup g x).memBad = s.memBad := rfl
@[simp] theorem State.setGroup_hostMem (g : Nat) (x : Group) : (s.setGroup g x).hostMem = s.hostMem := rfl
@[simp] theorem State.setGroup_msix (g : Nat) (x : Group) : (s.setGroup g x).msix = s.msix := rfl
@[simp] theorem State.setGroup_sent (g : Nat) (x : Group) : (s.setGroup g x).sent = s.sent := rfl
@[simp] theorem State.setGroup_fuses (g : Nat) (x : Group) : (s.setGroup g x).fuses = s.fuses := rfl
@[simp] theorem State.setGroup_pages (g : Nat) (x : Group) : (s.setGroup g x).pages = s.pages := rfl
@[simp] theorem State.setGroup_tableLost (g : Nat) (x : Group) : (s.setGroup g x).tableLost = s.tableLost := rfl
@[simp] theorem State.setGroup_frames (g : Nat) (x : Group) : (s.setGroup g x).frames = s.frames := rfl
@[simp] theorem State.setGroup_farFrames (g : Nat) (x : Group) : (s.setGroup g x).farFrames = s.farFrames := rfl
@[simp] theorem State.setGroup_mapOp (g : Nat) (x : Group) : (s.setGroup g x).mapOp = s.mapOp := rfl
@[simp] theorem State.setGroup_migrations (g : Nat) (x : Group) : (s.setGroup g x).migrations = s.migrations := rfl
@[simp] theorem State.setGroup_drains (g : Nat) (x : Group) : (s.setGroup g x).drains = s.drains := rfl
@[simp] theorem State.setGroup_evict (g : Nat) (x : Group) : (s.setGroup g x).evict = s.evict := rfl
@[simp] theorem State.setGroup_tierCorr (g : Nat) (x : Group) : (s.setGroup g x).tierCorr = s.tierCorr := rfl
@[simp] theorem State.setGroup_hqs (g : Nat) (x : Group) : (s.setGroup g x).hqs = s.hqs := rfl
@[simp] theorem State.setGroup_quads (g : Nat) (x : Group) : (s.setGroup g x).quads = s.quads := rfl
@[simp] theorem State.setGroup_ing (g : Nat) (x : Group) : (s.setGroup g x).ing = s.ing := rfl
@[simp] theorem State.setGroup_req (g : Nat) (x : Group) : (s.setGroup g x).req = { s.req with groups := nset s.req.groups Group.init g x } := rfl
@[simp] theorem State.setGroup_acct (g : Nat) (x : Group) : (s.setGroup g x).acct = s.acct := rfl
@[simp] theorem State.setGroup_chord (g : Nat) (x : Group) : (s.setGroup g x).chord = s.chord := rfl
@[simp] theorem State.setGroup_ecu (g : Nat) (x : Group) : (s.setGroup g x).ecu = s.ecu := rfl
@[simp] theorem State.setGroup_sec (g : Nat) (x : Group) : (s.setGroup g x).sec = s.sec := rfl
@[simp] theorem State.setGroup_mgmt (g : Nat) (x : Group) : (s.setGroup g x).mgmt = s.mgmt := rfl
@[simp] theorem State.setGroup_log (g : Nat) (x : Group) : (s.setGroup g x).log = s.log := rfl
@[simp] theorem State.setGroup_logPrev (g : Nat) (x : Group) : (s.setGroup g x).logPrev = s.logPrev := rfl

/-! ## setPeer -/

@[simp] theorem State.setPeer_pending (p : Nat) (x : Peer) : (s.setPeer p x).pending = s.pending := rfl
@[simp] theorem State.setPeer_ticks (p : Nat) (x : Peer) : (s.setPeer p x).ticks = s.ticks := rfl
@[simp] theorem State.setPeer_boot (p : Nat) (x : Peer) : (s.setPeer p x).boot = s.boot := rfl
@[simp] theorem State.setPeer_freeCtr (p : Nat) (x : Peer) : (s.setPeer p x).freeCtr = s.freeCtr := rfl
@[simp] theorem State.setPeer_readData (p : Nat) (x : Peer) : (s.setPeer p x).readData = s.readData := rfl
@[simp] theorem State.setPeer_busViol (p : Nat) (x : Peer) : (s.setPeer p x).busViol = s.busViol := rfl
@[simp] theorem State.setPeer_wideLatch (p : Nat) (x : Peer) : (s.setPeer p x).wideLatch = s.wideLatch := rfl
@[simp] theorem State.setPeer_regs (p : Nat) (x : Peer) : (s.setPeer p x).regs = s.regs := rfl
@[simp] theorem State.setPeer_mem (p : Nat) (x : Peer) : (s.setPeer p x).mem = s.mem := rfl
@[simp] theorem State.setPeer_memBad (p : Nat) (x : Peer) : (s.setPeer p x).memBad = s.memBad := rfl
@[simp] theorem State.setPeer_hostMem (p : Nat) (x : Peer) : (s.setPeer p x).hostMem = s.hostMem := rfl
@[simp] theorem State.setPeer_msix (p : Nat) (x : Peer) : (s.setPeer p x).msix = s.msix := rfl
@[simp] theorem State.setPeer_sent (p : Nat) (x : Peer) : (s.setPeer p x).sent = s.sent := rfl
@[simp] theorem State.setPeer_fuses (p : Nat) (x : Peer) : (s.setPeer p x).fuses = s.fuses := rfl
@[simp] theorem State.setPeer_pages (p : Nat) (x : Peer) : (s.setPeer p x).pages = s.pages := rfl
@[simp] theorem State.setPeer_tableLost (p : Nat) (x : Peer) : (s.setPeer p x).tableLost = s.tableLost := rfl
@[simp] theorem State.setPeer_frames (p : Nat) (x : Peer) : (s.setPeer p x).frames = s.frames := rfl
@[simp] theorem State.setPeer_farFrames (p : Nat) (x : Peer) : (s.setPeer p x).farFrames = s.farFrames := rfl
@[simp] theorem State.setPeer_mapOp (p : Nat) (x : Peer) : (s.setPeer p x).mapOp = s.mapOp := rfl
@[simp] theorem State.setPeer_migrations (p : Nat) (x : Peer) : (s.setPeer p x).migrations = s.migrations := rfl
@[simp] theorem State.setPeer_drains (p : Nat) (x : Peer) : (s.setPeer p x).drains = s.drains := rfl
@[simp] theorem State.setPeer_evict (p : Nat) (x : Peer) : (s.setPeer p x).evict = s.evict := rfl
@[simp] theorem State.setPeer_tierCorr (p : Nat) (x : Peer) : (s.setPeer p x).tierCorr = s.tierCorr := rfl
@[simp] theorem State.setPeer_hqs (p : Nat) (x : Peer) : (s.setPeer p x).hqs = s.hqs := rfl
@[simp] theorem State.setPeer_quads (p : Nat) (x : Peer) : (s.setPeer p x).quads = s.quads := rfl
@[simp] theorem State.setPeer_ing (p : Nat) (x : Peer) : (s.setPeer p x).ing = s.ing := rfl
@[simp] theorem State.setPeer_req (p : Nat) (x : Peer) : (s.setPeer p x).req = s.req := rfl
@[simp] theorem State.setPeer_acct (p : Nat) (x : Peer) : (s.setPeer p x).acct = s.acct := rfl
@[simp] theorem State.setPeer_chord (p : Nat) (x : Peer) : (s.setPeer p x).chord = { s.chord with peers := nset s.chord.peers Peer.init p x } := rfl
@[simp] theorem State.setPeer_ecu (p : Nat) (x : Peer) : (s.setPeer p x).ecu = s.ecu := rfl
@[simp] theorem State.setPeer_sec (p : Nat) (x : Peer) : (s.setPeer p x).sec = s.sec := rfl
@[simp] theorem State.setPeer_mgmt (p : Nat) (x : Peer) : (s.setPeer p x).mgmt = s.mgmt := rfl
@[simp] theorem State.setPeer_log (p : Nat) (x : Peer) : (s.setPeer p x).log = s.log := rfl
@[simp] theorem State.setPeer_logPrev (p : Nat) (x : Peer) : (s.setPeer p x).logPrev = s.logPrev := rfl

/-! ## setTrans -/

@[simp] theorem State.setTrans_pending (k : Nat) (x : Option Trans) : (s.setTrans k x).pending = s.pending := rfl
@[simp] theorem State.setTrans_ticks (k : Nat) (x : Option Trans) : (s.setTrans k x).ticks = s.ticks := rfl
@[simp] theorem State.setTrans_boot (k : Nat) (x : Option Trans) : (s.setTrans k x).boot = s.boot := rfl
@[simp] theorem State.setTrans_freeCtr (k : Nat) (x : Option Trans) : (s.setTrans k x).freeCtr = s.freeCtr := rfl
@[simp] theorem State.setTrans_readData (k : Nat) (x : Option Trans) : (s.setTrans k x).readData = s.readData := rfl
@[simp] theorem State.setTrans_busViol (k : Nat) (x : Option Trans) : (s.setTrans k x).busViol = s.busViol := rfl
@[simp] theorem State.setTrans_wideLatch (k : Nat) (x : Option Trans) : (s.setTrans k x).wideLatch = s.wideLatch := rfl
@[simp] theorem State.setTrans_regs (k : Nat) (x : Option Trans) : (s.setTrans k x).regs = s.regs := rfl
@[simp] theorem State.setTrans_mem (k : Nat) (x : Option Trans) : (s.setTrans k x).mem = s.mem := rfl
@[simp] theorem State.setTrans_memBad (k : Nat) (x : Option Trans) : (s.setTrans k x).memBad = s.memBad := rfl
@[simp] theorem State.setTrans_hostMem (k : Nat) (x : Option Trans) : (s.setTrans k x).hostMem = s.hostMem := rfl
@[simp] theorem State.setTrans_msix (k : Nat) (x : Option Trans) : (s.setTrans k x).msix = s.msix := rfl
@[simp] theorem State.setTrans_sent (k : Nat) (x : Option Trans) : (s.setTrans k x).sent = s.sent := rfl
@[simp] theorem State.setTrans_fuses (k : Nat) (x : Option Trans) : (s.setTrans k x).fuses = s.fuses := rfl
@[simp] theorem State.setTrans_pages (k : Nat) (x : Option Trans) : (s.setTrans k x).pages = s.pages := rfl
@[simp] theorem State.setTrans_tableLost (k : Nat) (x : Option Trans) : (s.setTrans k x).tableLost = s.tableLost := rfl
@[simp] theorem State.setTrans_frames (k : Nat) (x : Option Trans) : (s.setTrans k x).frames = s.frames := rfl
@[simp] theorem State.setTrans_farFrames (k : Nat) (x : Option Trans) : (s.setTrans k x).farFrames = s.farFrames := rfl
@[simp] theorem State.setTrans_mapOp (k : Nat) (x : Option Trans) : (s.setTrans k x).mapOp = s.mapOp := rfl
@[simp] theorem State.setTrans_migrations (k : Nat) (x : Option Trans) : (s.setTrans k x).migrations = s.migrations := rfl
@[simp] theorem State.setTrans_drains (k : Nat) (x : Option Trans) : (s.setTrans k x).drains = s.drains := rfl
@[simp] theorem State.setTrans_evict (k : Nat) (x : Option Trans) : (s.setTrans k x).evict = s.evict := rfl
@[simp] theorem State.setTrans_tierCorr (k : Nat) (x : Option Trans) : (s.setTrans k x).tierCorr = s.tierCorr := rfl
@[simp] theorem State.setTrans_hqs (k : Nat) (x : Option Trans) : (s.setTrans k x).hqs = s.hqs := rfl
@[simp] theorem State.setTrans_quads (k : Nat) (x : Option Trans) : (s.setTrans k x).quads = s.quads := rfl
@[simp] theorem State.setTrans_ing (k : Nat) (x : Option Trans) : (s.setTrans k x).ing = s.ing := rfl
@[simp] theorem State.setTrans_req (k : Nat) (x : Option Trans) : (s.setTrans k x).req = s.req := rfl
@[simp] theorem State.setTrans_acct (k : Nat) (x : Option Trans) : (s.setTrans k x).acct = s.acct := rfl
@[simp] theorem State.setTrans_chord (k : Nat) (x : Option Trans) : (s.setTrans k x).chord = { s.chord with trans := nset s.chord.trans none k x } := rfl
@[simp] theorem State.setTrans_ecu (k : Nat) (x : Option Trans) : (s.setTrans k x).ecu = s.ecu := rfl
@[simp] theorem State.setTrans_sec (k : Nat) (x : Option Trans) : (s.setTrans k x).sec = s.sec := rfl
@[simp] theorem State.setTrans_mgmt (k : Nat) (x : Option Trans) : (s.setTrans k x).mgmt = s.mgmt := rfl
@[simp] theorem State.setTrans_log (k : Nat) (x : Option Trans) : (s.setTrans k x).log = s.log := rfl
@[simp] theorem State.setTrans_logPrev (k : Nat) (x : Option Trans) : (s.setTrans k x).logPrev = s.logPrev := rfl

/-! ## setLink -/

@[simp] theorem State.setLink_pending (k : Nat) (x : ChordLink) : (s.setLink k x).pending = s.pending := rfl
@[simp] theorem State.setLink_ticks (k : Nat) (x : ChordLink) : (s.setLink k x).ticks = s.ticks := rfl
@[simp] theorem State.setLink_boot (k : Nat) (x : ChordLink) : (s.setLink k x).boot = s.boot := rfl
@[simp] theorem State.setLink_freeCtr (k : Nat) (x : ChordLink) : (s.setLink k x).freeCtr = s.freeCtr := rfl
@[simp] theorem State.setLink_readData (k : Nat) (x : ChordLink) : (s.setLink k x).readData = s.readData := rfl
@[simp] theorem State.setLink_busViol (k : Nat) (x : ChordLink) : (s.setLink k x).busViol = s.busViol := rfl
@[simp] theorem State.setLink_wideLatch (k : Nat) (x : ChordLink) : (s.setLink k x).wideLatch = s.wideLatch := rfl
@[simp] theorem State.setLink_regs (k : Nat) (x : ChordLink) : (s.setLink k x).regs = s.regs := rfl
@[simp] theorem State.setLink_mem (k : Nat) (x : ChordLink) : (s.setLink k x).mem = s.mem := rfl
@[simp] theorem State.setLink_memBad (k : Nat) (x : ChordLink) : (s.setLink k x).memBad = s.memBad := rfl
@[simp] theorem State.setLink_hostMem (k : Nat) (x : ChordLink) : (s.setLink k x).hostMem = s.hostMem := rfl
@[simp] theorem State.setLink_msix (k : Nat) (x : ChordLink) : (s.setLink k x).msix = s.msix := rfl
@[simp] theorem State.setLink_sent (k : Nat) (x : ChordLink) : (s.setLink k x).sent = s.sent := rfl
@[simp] theorem State.setLink_fuses (k : Nat) (x : ChordLink) : (s.setLink k x).fuses = s.fuses := rfl
@[simp] theorem State.setLink_pages (k : Nat) (x : ChordLink) : (s.setLink k x).pages = s.pages := rfl
@[simp] theorem State.setLink_tableLost (k : Nat) (x : ChordLink) : (s.setLink k x).tableLost = s.tableLost := rfl
@[simp] theorem State.setLink_frames (k : Nat) (x : ChordLink) : (s.setLink k x).frames = s.frames := rfl
@[simp] theorem State.setLink_farFrames (k : Nat) (x : ChordLink) : (s.setLink k x).farFrames = s.farFrames := rfl
@[simp] theorem State.setLink_mapOp (k : Nat) (x : ChordLink) : (s.setLink k x).mapOp = s.mapOp := rfl
@[simp] theorem State.setLink_migrations (k : Nat) (x : ChordLink) : (s.setLink k x).migrations = s.migrations := rfl
@[simp] theorem State.setLink_drains (k : Nat) (x : ChordLink) : (s.setLink k x).drains = s.drains := rfl
@[simp] theorem State.setLink_evict (k : Nat) (x : ChordLink) : (s.setLink k x).evict = s.evict := rfl
@[simp] theorem State.setLink_tierCorr (k : Nat) (x : ChordLink) : (s.setLink k x).tierCorr = s.tierCorr := rfl
@[simp] theorem State.setLink_hqs (k : Nat) (x : ChordLink) : (s.setLink k x).hqs = s.hqs := rfl
@[simp] theorem State.setLink_quads (k : Nat) (x : ChordLink) : (s.setLink k x).quads = s.quads := rfl
@[simp] theorem State.setLink_ing (k : Nat) (x : ChordLink) : (s.setLink k x).ing = s.ing := rfl
@[simp] theorem State.setLink_req (k : Nat) (x : ChordLink) : (s.setLink k x).req = s.req := rfl
@[simp] theorem State.setLink_acct (k : Nat) (x : ChordLink) : (s.setLink k x).acct = s.acct := rfl
@[simp] theorem State.setLink_chord (k : Nat) (x : ChordLink) : (s.setLink k x).chord = { s.chord with links := nset s.chord.links ChordLink.init k x } := rfl
@[simp] theorem State.setLink_ecu (k : Nat) (x : ChordLink) : (s.setLink k x).ecu = s.ecu := rfl
@[simp] theorem State.setLink_sec (k : Nat) (x : ChordLink) : (s.setLink k x).sec = s.sec := rfl
@[simp] theorem State.setLink_mgmt (k : Nat) (x : ChordLink) : (s.setLink k x).mgmt = s.mgmt := rfl
@[simp] theorem State.setLink_log (k : Nat) (x : ChordLink) : (s.setLink k x).log = s.log := rfl
@[simp] theorem State.setLink_logPrev (k : Nat) (x : ChordLink) : (s.setLink k x).logPrev = s.logPrev := rfl

/-! ## setBind -/

@[simp] theorem State.setBind_pending (b : Nat) (x : Bind) : (s.setBind b x).pending = s.pending := rfl
@[simp] theorem State.setBind_ticks (b : Nat) (x : Bind) : (s.setBind b x).ticks = s.ticks := rfl
@[simp] theorem State.setBind_boot (b : Nat) (x : Bind) : (s.setBind b x).boot = s.boot := rfl
@[simp] theorem State.setBind_freeCtr (b : Nat) (x : Bind) : (s.setBind b x).freeCtr = s.freeCtr := rfl
@[simp] theorem State.setBind_readData (b : Nat) (x : Bind) : (s.setBind b x).readData = s.readData := rfl
@[simp] theorem State.setBind_busViol (b : Nat) (x : Bind) : (s.setBind b x).busViol = s.busViol := rfl
@[simp] theorem State.setBind_wideLatch (b : Nat) (x : Bind) : (s.setBind b x).wideLatch = s.wideLatch := rfl
@[simp] theorem State.setBind_regs (b : Nat) (x : Bind) : (s.setBind b x).regs = s.regs := rfl
@[simp] theorem State.setBind_mem (b : Nat) (x : Bind) : (s.setBind b x).mem = s.mem := rfl
@[simp] theorem State.setBind_memBad (b : Nat) (x : Bind) : (s.setBind b x).memBad = s.memBad := rfl
@[simp] theorem State.setBind_hostMem (b : Nat) (x : Bind) : (s.setBind b x).hostMem = s.hostMem := rfl
@[simp] theorem State.setBind_msix (b : Nat) (x : Bind) : (s.setBind b x).msix = s.msix := rfl
@[simp] theorem State.setBind_sent (b : Nat) (x : Bind) : (s.setBind b x).sent = s.sent := rfl
@[simp] theorem State.setBind_fuses (b : Nat) (x : Bind) : (s.setBind b x).fuses = s.fuses := rfl
@[simp] theorem State.setBind_pages (b : Nat) (x : Bind) : (s.setBind b x).pages = s.pages := rfl
@[simp] theorem State.setBind_tableLost (b : Nat) (x : Bind) : (s.setBind b x).tableLost = s.tableLost := rfl
@[simp] theorem State.setBind_frames (b : Nat) (x : Bind) : (s.setBind b x).frames = s.frames := rfl
@[simp] theorem State.setBind_farFrames (b : Nat) (x : Bind) : (s.setBind b x).farFrames = s.farFrames := rfl
@[simp] theorem State.setBind_mapOp (b : Nat) (x : Bind) : (s.setBind b x).mapOp = s.mapOp := rfl
@[simp] theorem State.setBind_migrations (b : Nat) (x : Bind) : (s.setBind b x).migrations = s.migrations := rfl
@[simp] theorem State.setBind_drains (b : Nat) (x : Bind) : (s.setBind b x).drains = s.drains := rfl
@[simp] theorem State.setBind_evict (b : Nat) (x : Bind) : (s.setBind b x).evict = s.evict := rfl
@[simp] theorem State.setBind_tierCorr (b : Nat) (x : Bind) : (s.setBind b x).tierCorr = s.tierCorr := rfl
@[simp] theorem State.setBind_hqs (b : Nat) (x : Bind) : (s.setBind b x).hqs = s.hqs := rfl
@[simp] theorem State.setBind_quads (b : Nat) (x : Bind) : (s.setBind b x).quads = s.quads := rfl
@[simp] theorem State.setBind_ing (b : Nat) (x : Bind) : (s.setBind b x).ing = { s.ing with binds := nset s.ing.binds Bind.init b x } := rfl
@[simp] theorem State.setBind_req (b : Nat) (x : Bind) : (s.setBind b x).req = s.req := rfl
@[simp] theorem State.setBind_acct (b : Nat) (x : Bind) : (s.setBind b x).acct = s.acct := rfl
@[simp] theorem State.setBind_chord (b : Nat) (x : Bind) : (s.setBind b x).chord = s.chord := rfl
@[simp] theorem State.setBind_ecu (b : Nat) (x : Bind) : (s.setBind b x).ecu = s.ecu := rfl
@[simp] theorem State.setBind_sec (b : Nat) (x : Bind) : (s.setBind b x).sec = s.sec := rfl
@[simp] theorem State.setBind_mgmt (b : Nat) (x : Bind) : (s.setBind b x).mgmt = s.mgmt := rfl
@[simp] theorem State.setBind_log (b : Nat) (x : Bind) : (s.setBind b x).log = s.log := rfl
@[simp] theorem State.setBind_logPrev (b : Nat) (x : Bind) : (s.setBind b x).logPrev = s.logPrev := rfl

/-! ## setHq -/

@[simp] theorem State.setHq_pending (p : Nat) (x : Hq) : (s.setHq p x).pending = s.pending := rfl
@[simp] theorem State.setHq_ticks (p : Nat) (x : Hq) : (s.setHq p x).ticks = s.ticks := rfl
@[simp] theorem State.setHq_boot (p : Nat) (x : Hq) : (s.setHq p x).boot = s.boot := rfl
@[simp] theorem State.setHq_freeCtr (p : Nat) (x : Hq) : (s.setHq p x).freeCtr = s.freeCtr := rfl
@[simp] theorem State.setHq_readData (p : Nat) (x : Hq) : (s.setHq p x).readData = s.readData := rfl
@[simp] theorem State.setHq_busViol (p : Nat) (x : Hq) : (s.setHq p x).busViol = s.busViol := rfl
@[simp] theorem State.setHq_wideLatch (p : Nat) (x : Hq) : (s.setHq p x).wideLatch = s.wideLatch := rfl
@[simp] theorem State.setHq_regs (p : Nat) (x : Hq) : (s.setHq p x).regs = s.regs := rfl
@[simp] theorem State.setHq_mem (p : Nat) (x : Hq) : (s.setHq p x).mem = s.mem := rfl
@[simp] theorem State.setHq_memBad (p : Nat) (x : Hq) : (s.setHq p x).memBad = s.memBad := rfl
@[simp] theorem State.setHq_hostMem (p : Nat) (x : Hq) : (s.setHq p x).hostMem = s.hostMem := rfl
@[simp] theorem State.setHq_msix (p : Nat) (x : Hq) : (s.setHq p x).msix = s.msix := rfl
@[simp] theorem State.setHq_sent (p : Nat) (x : Hq) : (s.setHq p x).sent = s.sent := rfl
@[simp] theorem State.setHq_fuses (p : Nat) (x : Hq) : (s.setHq p x).fuses = s.fuses := rfl
@[simp] theorem State.setHq_pages (p : Nat) (x : Hq) : (s.setHq p x).pages = s.pages := rfl
@[simp] theorem State.setHq_tableLost (p : Nat) (x : Hq) : (s.setHq p x).tableLost = s.tableLost := rfl
@[simp] theorem State.setHq_frames (p : Nat) (x : Hq) : (s.setHq p x).frames = s.frames := rfl
@[simp] theorem State.setHq_farFrames (p : Nat) (x : Hq) : (s.setHq p x).farFrames = s.farFrames := rfl
@[simp] theorem State.setHq_mapOp (p : Nat) (x : Hq) : (s.setHq p x).mapOp = s.mapOp := rfl
@[simp] theorem State.setHq_migrations (p : Nat) (x : Hq) : (s.setHq p x).migrations = s.migrations := rfl
@[simp] theorem State.setHq_drains (p : Nat) (x : Hq) : (s.setHq p x).drains = s.drains := rfl
@[simp] theorem State.setHq_evict (p : Nat) (x : Hq) : (s.setHq p x).evict = s.evict := rfl
@[simp] theorem State.setHq_tierCorr (p : Nat) (x : Hq) : (s.setHq p x).tierCorr = s.tierCorr := rfl
@[simp] theorem State.setHq_hqs (p : Nat) (x : Hq) : (s.setHq p x).hqs = nset s.hqs Hq.init p x := rfl
@[simp] theorem State.setHq_quads (p : Nat) (x : Hq) : (s.setHq p x).quads = s.quads := rfl
@[simp] theorem State.setHq_ing (p : Nat) (x : Hq) : (s.setHq p x).ing = s.ing := rfl
@[simp] theorem State.setHq_req (p : Nat) (x : Hq) : (s.setHq p x).req = s.req := rfl
@[simp] theorem State.setHq_acct (p : Nat) (x : Hq) : (s.setHq p x).acct = s.acct := rfl
@[simp] theorem State.setHq_chord (p : Nat) (x : Hq) : (s.setHq p x).chord = s.chord := rfl
@[simp] theorem State.setHq_ecu (p : Nat) (x : Hq) : (s.setHq p x).ecu = s.ecu := rfl
@[simp] theorem State.setHq_sec (p : Nat) (x : Hq) : (s.setHq p x).sec = s.sec := rfl
@[simp] theorem State.setHq_mgmt (p : Nat) (x : Hq) : (s.setHq p x).mgmt = s.mgmt := rfl
@[simp] theorem State.setHq_log (p : Nat) (x : Hq) : (s.setHq p x).log = s.log := rfl
@[simp] theorem State.setHq_logPrev (p : Nat) (x : Hq) : (s.setHq p x).logPrev = s.logPrev := rfl

/-! ## modM -/

@[simp] theorem State.modM_pending (f : Mgmt → Mgmt) : (s.modM f).pending = s.pending := rfl
@[simp] theorem State.modM_ticks (f : Mgmt → Mgmt) : (s.modM f).ticks = s.ticks := rfl
@[simp] theorem State.modM_boot (f : Mgmt → Mgmt) : (s.modM f).boot = s.boot := rfl
@[simp] theorem State.modM_freeCtr (f : Mgmt → Mgmt) : (s.modM f).freeCtr = s.freeCtr := rfl
@[simp] theorem State.modM_readData (f : Mgmt → Mgmt) : (s.modM f).readData = s.readData := rfl
@[simp] theorem State.modM_busViol (f : Mgmt → Mgmt) : (s.modM f).busViol = s.busViol := rfl
@[simp] theorem State.modM_wideLatch (f : Mgmt → Mgmt) : (s.modM f).wideLatch = s.wideLatch := rfl
@[simp] theorem State.modM_regs (f : Mgmt → Mgmt) : (s.modM f).regs = s.regs := rfl
@[simp] theorem State.modM_mem (f : Mgmt → Mgmt) : (s.modM f).mem = s.mem := rfl
@[simp] theorem State.modM_memBad (f : Mgmt → Mgmt) : (s.modM f).memBad = s.memBad := rfl
@[simp] theorem State.modM_hostMem (f : Mgmt → Mgmt) : (s.modM f).hostMem = s.hostMem := rfl
@[simp] theorem State.modM_msix (f : Mgmt → Mgmt) : (s.modM f).msix = s.msix := rfl
@[simp] theorem State.modM_sent (f : Mgmt → Mgmt) : (s.modM f).sent = s.sent := rfl
@[simp] theorem State.modM_fuses (f : Mgmt → Mgmt) : (s.modM f).fuses = s.fuses := rfl
@[simp] theorem State.modM_pages (f : Mgmt → Mgmt) : (s.modM f).pages = s.pages := rfl
@[simp] theorem State.modM_tableLost (f : Mgmt → Mgmt) : (s.modM f).tableLost = s.tableLost := rfl
@[simp] theorem State.modM_frames (f : Mgmt → Mgmt) : (s.modM f).frames = s.frames := rfl
@[simp] theorem State.modM_farFrames (f : Mgmt → Mgmt) : (s.modM f).farFrames = s.farFrames := rfl
@[simp] theorem State.modM_mapOp (f : Mgmt → Mgmt) : (s.modM f).mapOp = s.mapOp := rfl
@[simp] theorem State.modM_migrations (f : Mgmt → Mgmt) : (s.modM f).migrations = s.migrations := rfl
@[simp] theorem State.modM_drains (f : Mgmt → Mgmt) : (s.modM f).drains = s.drains := rfl
@[simp] theorem State.modM_evict (f : Mgmt → Mgmt) : (s.modM f).evict = s.evict := rfl
@[simp] theorem State.modM_tierCorr (f : Mgmt → Mgmt) : (s.modM f).tierCorr = s.tierCorr := rfl
@[simp] theorem State.modM_hqs (f : Mgmt → Mgmt) : (s.modM f).hqs = s.hqs := rfl
@[simp] theorem State.modM_quads (f : Mgmt → Mgmt) : (s.modM f).quads = s.quads := rfl
@[simp] theorem State.modM_ing (f : Mgmt → Mgmt) : (s.modM f).ing = s.ing := rfl
@[simp] theorem State.modM_req (f : Mgmt → Mgmt) : (s.modM f).req = s.req := rfl
@[simp] theorem State.modM_acct (f : Mgmt → Mgmt) : (s.modM f).acct = s.acct := rfl
@[simp] theorem State.modM_chord (f : Mgmt → Mgmt) : (s.modM f).chord = s.chord := rfl
@[simp] theorem State.modM_ecu (f : Mgmt → Mgmt) : (s.modM f).ecu = s.ecu := rfl
@[simp] theorem State.modM_sec (f : Mgmt → Mgmt) : (s.modM f).sec = s.sec := rfl
@[simp] theorem State.modM_mgmt (f : Mgmt → Mgmt) : (s.modM f).mgmt = f s.mgmt := rfl
@[simp] theorem State.modM_log (f : Mgmt → Mgmt) : (s.modM f).log = s.log := rfl
@[simp] theorem State.modM_logPrev (f : Mgmt → Mgmt) : (s.modM f).logPrev = s.logPrev := rfl

/-! ## acctCtx -/

@[simp] theorem State.acctCtx_pending (c k v : Nat) : (s.acctCtx c k v).pending = s.pending := rfl
@[simp] theorem State.acctCtx_ticks (c k v : Nat) : (s.acctCtx c k v).ticks = s.ticks := rfl
@[simp] theorem State.acctCtx_boot (c k v : Nat) : (s.acctCtx c k v).boot = s.boot := rfl
@[simp] theorem State.acctCtx_freeCtr (c k v : Nat) : (s.acctCtx c k v).freeCtr = s.freeCtr := rfl
@[simp] theorem State.acctCtx_readData (c k v : Nat) : (s.acctCtx c k v).readData = s.readData := rfl
@[simp] theorem State.acctCtx_busViol (c k v : Nat) : (s.acctCtx c k v).busViol = s.busViol := rfl
@[simp] theorem State.acctCtx_wideLatch (c k v : Nat) : (s.acctCtx c k v).wideLatch = s.wideLatch := rfl
@[simp] theorem State.acctCtx_regs (c k v : Nat) : (s.acctCtx c k v).regs = s.regs := rfl
@[simp] theorem State.acctCtx_mem (c k v : Nat) : (s.acctCtx c k v).mem = s.mem := rfl
@[simp] theorem State.acctCtx_memBad (c k v : Nat) : (s.acctCtx c k v).memBad = s.memBad := rfl
@[simp] theorem State.acctCtx_hostMem (c k v : Nat) : (s.acctCtx c k v).hostMem = s.hostMem := rfl
@[simp] theorem State.acctCtx_msix (c k v : Nat) : (s.acctCtx c k v).msix = s.msix := rfl
@[simp] theorem State.acctCtx_sent (c k v : Nat) : (s.acctCtx c k v).sent = s.sent := rfl
@[simp] theorem State.acctCtx_fuses (c k v : Nat) : (s.acctCtx c k v).fuses = s.fuses := rfl
@[simp] theorem State.acctCtx_pages (c k v : Nat) : (s.acctCtx c k v).pages = s.pages := rfl
@[simp] theorem State.acctCtx_tableLost (c k v : Nat) : (s.acctCtx c k v).tableLost = s.tableLost := rfl
@[simp] theorem State.acctCtx_frames (c k v : Nat) : (s.acctCtx c k v).frames = s.frames := rfl
@[simp] theorem State.acctCtx_farFrames (c k v : Nat) : (s.acctCtx c k v).farFrames = s.farFrames := rfl
@[simp] theorem State.acctCtx_mapOp (c k v : Nat) : (s.acctCtx c k v).mapOp = s.mapOp := rfl
@[simp] theorem State.acctCtx_migrations (c k v : Nat) : (s.acctCtx c k v).migrations = s.migrations := rfl
@[simp] theorem State.acctCtx_drains (c k v : Nat) : (s.acctCtx c k v).drains = s.drains := rfl
@[simp] theorem State.acctCtx_evict (c k v : Nat) : (s.acctCtx c k v).evict = s.evict := rfl
@[simp] theorem State.acctCtx_tierCorr (c k v : Nat) : (s.acctCtx c k v).tierCorr = s.tierCorr := rfl
@[simp] theorem State.acctCtx_hqs (c k v : Nat) : (s.acctCtx c k v).hqs = s.hqs := rfl
@[simp] theorem State.acctCtx_quads (c k v : Nat) : (s.acctCtx c k v).quads = s.quads := rfl
@[simp] theorem State.acctCtx_ing (c k v : Nat) : (s.acctCtx c k v).ing = s.ing := rfl
@[simp] theorem State.acctCtx_req (c k v : Nat) : (s.acctCtx c k v).req = s.req := rfl
@[simp] theorem State.acctCtx_acct (c k v : Nat) : (s.acctCtx c k v).acct = { s.acct with live := nmod s.acct.live 0 (c * 16 + k) fun x => (x + v) % 2 ^ 64 } := rfl
@[simp] theorem State.acctCtx_chord (c k v : Nat) : (s.acctCtx c k v).chord = s.chord := rfl
@[simp] theorem State.acctCtx_ecu (c k v : Nat) : (s.acctCtx c k v).ecu = s.ecu := rfl
@[simp] theorem State.acctCtx_sec (c k v : Nat) : (s.acctCtx c k v).sec = s.sec := rfl
@[simp] theorem State.acctCtx_mgmt (c k v : Nat) : (s.acctCtx c k v).mgmt = s.mgmt := rfl
@[simp] theorem State.acctCtx_log (c k v : Nat) : (s.acctCtx c k v).log = s.log := rfl
@[simp] theorem State.acctCtx_logPrev (c k v : Nat) : (s.acctCtx c k v).logPrev = s.logPrev := rfl

/-! ## rawWrite -/

@[simp] theorem State.rawWrite_pending (u fr off : Nat) (b : List Byte) : (s.rawWrite u fr off b).pending = s.pending := rfl
@[simp] theorem State.rawWrite_ticks (u fr off : Nat) (b : List Byte) : (s.rawWrite u fr off b).ticks = s.ticks := rfl
@[simp] theorem State.rawWrite_boot (u fr off : Nat) (b : List Byte) : (s.rawWrite u fr off b).boot = s.boot := rfl
@[simp] theorem State.rawWrite_freeCtr (u fr off : Nat) (b : List Byte) : (s.rawWrite u fr off b).freeCtr = s.freeCtr := rfl
@[simp] theorem State.rawWrite_readData (u fr off : Nat) (b : List Byte) : (s.rawWrite u fr off b).readData = s.readData := rfl
@[simp] theorem State.rawWrite_busViol (u fr off : Nat) (b : List Byte) : (s.rawWrite u fr off b).busViol = s.busViol := rfl
@[simp] theorem State.rawWrite_wideLatch (u fr off : Nat) (b : List Byte) : (s.rawWrite u fr off b).wideLatch = s.wideLatch := rfl
@[simp] theorem State.rawWrite_regs (u fr off : Nat) (b : List Byte) : (s.rawWrite u fr off b).regs = s.regs := rfl
@[simp] theorem State.rawWrite_memBad (u fr off : Nat) (b : List Byte) : (s.rawWrite u fr off b).memBad = s.memBad := rfl
@[simp] theorem State.rawWrite_hostMem (u fr off : Nat) (b : List Byte) : (s.rawWrite u fr off b).hostMem = s.hostMem := rfl
@[simp] theorem State.rawWrite_msix (u fr off : Nat) (b : List Byte) : (s.rawWrite u fr off b).msix = s.msix := rfl
@[simp] theorem State.rawWrite_sent (u fr off : Nat) (b : List Byte) : (s.rawWrite u fr off b).sent = s.sent := rfl
@[simp] theorem State.rawWrite_fuses (u fr off : Nat) (b : List Byte) : (s.rawWrite u fr off b).fuses = s.fuses := rfl
@[simp] theorem State.rawWrite_pages (u fr off : Nat) (b : List Byte) : (s.rawWrite u fr off b).pages = s.pages := rfl
@[simp] theorem State.rawWrite_tableLost (u fr off : Nat) (b : List Byte) : (s.rawWrite u fr off b).tableLost = s.tableLost := rfl
@[simp] theorem State.rawWrite_frames (u fr off : Nat) (b : List Byte) : (s.rawWrite u fr off b).frames = s.frames := rfl
@[simp] theorem State.rawWrite_farFrames (u fr off : Nat) (b : List Byte) : (s.rawWrite u fr off b).farFrames = s.farFrames := rfl
@[simp] theorem State.rawWrite_mapOp (u fr off : Nat) (b : List Byte) : (s.rawWrite u fr off b).mapOp = s.mapOp := rfl
@[simp] theorem State.rawWrite_migrations (u fr off : Nat) (b : List Byte) : (s.rawWrite u fr off b).migrations = s.migrations := rfl
@[simp] theorem State.rawWrite_drains (u fr off : Nat) (b : List Byte) : (s.rawWrite u fr off b).drains = s.drains := rfl
@[simp] theorem State.rawWrite_evict (u fr off : Nat) (b : List Byte) : (s.rawWrite u fr off b).evict = s.evict := rfl
@[simp] theorem State.rawWrite_tierCorr (u fr off : Nat) (b : List Byte) : (s.rawWrite u fr off b).tierCorr = s.tierCorr := rfl
@[simp] theorem State.rawWrite_hqs (u fr off : Nat) (b : List Byte) : (s.rawWrite u fr off b).hqs = s.hqs := rfl
@[simp] theorem State.rawWrite_quads (u fr off : Nat) (b : List Byte) : (s.rawWrite u fr off b).quads = s.quads := rfl
@[simp] theorem State.rawWrite_ing (u fr off : Nat) (b : List Byte) : (s.rawWrite u fr off b).ing = s.ing := rfl
@[simp] theorem State.rawWrite_req (u fr off : Nat) (b : List Byte) : (s.rawWrite u fr off b).req = s.req := rfl
@[simp] theorem State.rawWrite_acct (u fr off : Nat) (b : List Byte) : (s.rawWrite u fr off b).acct = s.acct := rfl
@[simp] theorem State.rawWrite_chord (u fr off : Nat) (b : List Byte) : (s.rawWrite u fr off b).chord = s.chord := rfl
@[simp] theorem State.rawWrite_ecu (u fr off : Nat) (b : List Byte) : (s.rawWrite u fr off b).ecu = s.ecu := rfl
@[simp] theorem State.rawWrite_sec (u fr off : Nat) (b : List Byte) : (s.rawWrite u fr off b).sec = s.sec := rfl
@[simp] theorem State.rawWrite_mgmt (u fr off : Nat) (b : List Byte) : (s.rawWrite u fr off b).mgmt = s.mgmt := rfl
@[simp] theorem State.rawWrite_log (u fr off : Nat) (b : List Byte) : (s.rawWrite u fr off b).log = s.log := rfl
@[simp] theorem State.rawWrite_logPrev (u fr off : Nat) (b : List Byte) : (s.rawWrite u fr off b).logPrev = s.logPrev := rfl

/-! ## hostWrite -/

@[simp] theorem State.hostWrite_pending (a : Nat) (b : List Byte) : (s.hostWrite a b).pending = s.pending := rfl
@[simp] theorem State.hostWrite_ticks (a : Nat) (b : List Byte) : (s.hostWrite a b).ticks = s.ticks := rfl
@[simp] theorem State.hostWrite_boot (a : Nat) (b : List Byte) : (s.hostWrite a b).boot = s.boot := rfl
@[simp] theorem State.hostWrite_freeCtr (a : Nat) (b : List Byte) : (s.hostWrite a b).freeCtr = s.freeCtr := rfl
@[simp] theorem State.hostWrite_readData (a : Nat) (b : List Byte) : (s.hostWrite a b).readData = s.readData := rfl
@[simp] theorem State.hostWrite_busViol (a : Nat) (b : List Byte) : (s.hostWrite a b).busViol = s.busViol := rfl
@[simp] theorem State.hostWrite_wideLatch (a : Nat) (b : List Byte) : (s.hostWrite a b).wideLatch = s.wideLatch := rfl
@[simp] theorem State.hostWrite_regs (a : Nat) (b : List Byte) : (s.hostWrite a b).regs = s.regs := rfl
@[simp] theorem State.hostWrite_mem (a : Nat) (b : List Byte) : (s.hostWrite a b).mem = s.mem := rfl
@[simp] theorem State.hostWrite_memBad (a : Nat) (b : List Byte) : (s.hostWrite a b).memBad = s.memBad := rfl
@[simp] theorem State.hostWrite_msix (a : Nat) (b : List Byte) : (s.hostWrite a b).msix = s.msix := rfl
@[simp] theorem State.hostWrite_sent (a : Nat) (b : List Byte) : (s.hostWrite a b).sent = s.sent := rfl
@[simp] theorem State.hostWrite_fuses (a : Nat) (b : List Byte) : (s.hostWrite a b).fuses = s.fuses := rfl
@[simp] theorem State.hostWrite_pages (a : Nat) (b : List Byte) : (s.hostWrite a b).pages = s.pages := rfl
@[simp] theorem State.hostWrite_tableLost (a : Nat) (b : List Byte) : (s.hostWrite a b).tableLost = s.tableLost := rfl
@[simp] theorem State.hostWrite_frames (a : Nat) (b : List Byte) : (s.hostWrite a b).frames = s.frames := rfl
@[simp] theorem State.hostWrite_farFrames (a : Nat) (b : List Byte) : (s.hostWrite a b).farFrames = s.farFrames := rfl
@[simp] theorem State.hostWrite_mapOp (a : Nat) (b : List Byte) : (s.hostWrite a b).mapOp = s.mapOp := rfl
@[simp] theorem State.hostWrite_migrations (a : Nat) (b : List Byte) : (s.hostWrite a b).migrations = s.migrations := rfl
@[simp] theorem State.hostWrite_drains (a : Nat) (b : List Byte) : (s.hostWrite a b).drains = s.drains := rfl
@[simp] theorem State.hostWrite_evict (a : Nat) (b : List Byte) : (s.hostWrite a b).evict = s.evict := rfl
@[simp] theorem State.hostWrite_tierCorr (a : Nat) (b : List Byte) : (s.hostWrite a b).tierCorr = s.tierCorr := rfl
@[simp] theorem State.hostWrite_hqs (a : Nat) (b : List Byte) : (s.hostWrite a b).hqs = s.hqs := rfl
@[simp] theorem State.hostWrite_quads (a : Nat) (b : List Byte) : (s.hostWrite a b).quads = s.quads := rfl
@[simp] theorem State.hostWrite_ing (a : Nat) (b : List Byte) : (s.hostWrite a b).ing = s.ing := rfl
@[simp] theorem State.hostWrite_req (a : Nat) (b : List Byte) : (s.hostWrite a b).req = s.req := rfl
@[simp] theorem State.hostWrite_acct (a : Nat) (b : List Byte) : (s.hostWrite a b).acct = s.acct := rfl
@[simp] theorem State.hostWrite_chord (a : Nat) (b : List Byte) : (s.hostWrite a b).chord = s.chord := rfl
@[simp] theorem State.hostWrite_ecu (a : Nat) (b : List Byte) : (s.hostWrite a b).ecu = s.ecu := rfl
@[simp] theorem State.hostWrite_sec (a : Nat) (b : List Byte) : (s.hostWrite a b).sec = s.sec := rfl
@[simp] theorem State.hostWrite_mgmt (a : Nat) (b : List Byte) : (s.hostWrite a b).mgmt = s.mgmt := rfl
@[simp] theorem State.hostWrite_log (a : Nat) (b : List Byte) : (s.hostWrite a b).log = s.log := rfl
@[simp] theorem State.hostWrite_logPrev (a : Nat) (b : List Byte) : (s.hostWrite a b).logPrev = s.logPrev := rfl

/-! ## zeroFrame -/

@[simp] theorem State.zeroFrame_pending (u fr : Nat) : (s.zeroFrame u fr).pending = s.pending := rfl
@[simp] theorem State.zeroFrame_ticks (u fr : Nat) : (s.zeroFrame u fr).ticks = s.ticks := rfl
@[simp] theorem State.zeroFrame_boot (u fr : Nat) : (s.zeroFrame u fr).boot = s.boot := rfl
@[simp] theorem State.zeroFrame_freeCtr (u fr : Nat) : (s.zeroFrame u fr).freeCtr = s.freeCtr := rfl
@[simp] theorem State.zeroFrame_readData (u fr : Nat) : (s.zeroFrame u fr).readData = s.readData := rfl
@[simp] theorem State.zeroFrame_busViol (u fr : Nat) : (s.zeroFrame u fr).busViol = s.busViol := rfl
@[simp] theorem State.zeroFrame_wideLatch (u fr : Nat) : (s.zeroFrame u fr).wideLatch = s.wideLatch := rfl
@[simp] theorem State.zeroFrame_regs (u fr : Nat) : (s.zeroFrame u fr).regs = s.regs := rfl
@[simp] theorem State.zeroFrame_hostMem (u fr : Nat) : (s.zeroFrame u fr).hostMem = s.hostMem := rfl
@[simp] theorem State.zeroFrame_msix (u fr : Nat) : (s.zeroFrame u fr).msix = s.msix := rfl
@[simp] theorem State.zeroFrame_sent (u fr : Nat) : (s.zeroFrame u fr).sent = s.sent := rfl
@[simp] theorem State.zeroFrame_fuses (u fr : Nat) : (s.zeroFrame u fr).fuses = s.fuses := rfl
@[simp] theorem State.zeroFrame_pages (u fr : Nat) : (s.zeroFrame u fr).pages = s.pages := rfl
@[simp] theorem State.zeroFrame_tableLost (u fr : Nat) : (s.zeroFrame u fr).tableLost = s.tableLost := rfl
@[simp] theorem State.zeroFrame_frames (u fr : Nat) : (s.zeroFrame u fr).frames = s.frames := rfl
@[simp] theorem State.zeroFrame_farFrames (u fr : Nat) : (s.zeroFrame u fr).farFrames = s.farFrames := rfl
@[simp] theorem State.zeroFrame_mapOp (u fr : Nat) : (s.zeroFrame u fr).mapOp = s.mapOp := rfl
@[simp] theorem State.zeroFrame_migrations (u fr : Nat) : (s.zeroFrame u fr).migrations = s.migrations := rfl
@[simp] theorem State.zeroFrame_drains (u fr : Nat) : (s.zeroFrame u fr).drains = s.drains := rfl
@[simp] theorem State.zeroFrame_evict (u fr : Nat) : (s.zeroFrame u fr).evict = s.evict := rfl
@[simp] theorem State.zeroFrame_tierCorr (u fr : Nat) : (s.zeroFrame u fr).tierCorr = s.tierCorr := rfl
@[simp] theorem State.zeroFrame_hqs (u fr : Nat) : (s.zeroFrame u fr).hqs = s.hqs := rfl
@[simp] theorem State.zeroFrame_quads (u fr : Nat) : (s.zeroFrame u fr).quads = s.quads := rfl
@[simp] theorem State.zeroFrame_ing (u fr : Nat) : (s.zeroFrame u fr).ing = s.ing := rfl
@[simp] theorem State.zeroFrame_req (u fr : Nat) : (s.zeroFrame u fr).req = s.req := rfl
@[simp] theorem State.zeroFrame_acct (u fr : Nat) : (s.zeroFrame u fr).acct = s.acct := rfl
@[simp] theorem State.zeroFrame_chord (u fr : Nat) : (s.zeroFrame u fr).chord = s.chord := rfl
@[simp] theorem State.zeroFrame_ecu (u fr : Nat) : (s.zeroFrame u fr).ecu = s.ecu := rfl
@[simp] theorem State.zeroFrame_sec (u fr : Nat) : (s.zeroFrame u fr).sec = s.sec := rfl
@[simp] theorem State.zeroFrame_mgmt (u fr : Nat) : (s.zeroFrame u fr).mgmt = s.mgmt := rfl
@[simp] theorem State.zeroFrame_log (u fr : Nat) : (s.zeroFrame u fr).log = s.log := rfl
@[simp] theorem State.zeroFrame_logPrev (u fr : Nat) : (s.zeroFrame u fr).logPrev = s.logPrev := rfl

end Sys2Proof.Machine
end

