-- ==== Sys2Proof/Laws/Ops.lean ====
section
/-! SUPPORT. What each shared operation does, said once: reads after writes of registers and tables, posting an event, the guard
of a register write, writes to the tiers and to host memory. -/

set_option Elab.async false

namespace Sys2Proof.Machine

/-- What every step of a fold keeps, the fold keeps. -/
theorem foldl_keeps {α : Type} (P : State → Prop) (f : State → α → State) (h : ∀ t a, P t → P (f t a)) (l : List α)
    (s : State) (hs : P s) : P (l.foldl f s) := by
  induction l generalizing s with
  | nil => exact hs
  | cons a r ih => exact ih (f s a) (h s a hs)

/-! ## Registers -/

theorem State.get_congr {s t : State} (h : t.regs = s.regs) (f : Fld) : t.get f = s.get f := by simp only [State.get, h]

theorem State.on_congr {s t : State} (h : t.regs = s.regs) (f : Fld) : t.on f = s.on f := by
  simp only [State.on, State.get_congr h]

/-- A field reads what was written, of its width. -/
@[simp] theorem State.get_set_same (s : State) (f : Fld) (v : Nat) : (s.set f v).get f = v % 2 ^ f.len := by
  simp [State.get]

/-- A write leaves the fields at other places alone. -/
theorem State.get_set_ne (s : State) (f g : Fld) (v : Nat) (h : g.key ≠ f.key) : (s.set f v).get g = s.get g := by
  simp [State.get, nget_nset_ne _ _ _ _ _ _ h]

theorem State.on_set_ne (s : State) (f g : Fld) (v : Nat) (h : g.key ≠ f.key) : (s.set f v).on g = s.on g := by
  simp only [State.on, State.get_set_ne s f g v h]

theorem State.get_lt (s : State) (f : Fld) : s.get f < 2 ^ f.len := Nat.mod_lt _ (Nat.two_pow_pos _)

theorem State.get_inc (s : State) (f : Fld) (n : Nat) : (s.inc f n).get f = (s.get f + n) % 2 ^ f.len := by
  simp [State.inc]

theorem State.get_incSat (s : State) (f : Fld) (n : Nat) : (s.incSat f n).get f = min (s.get f + n) (2 ^ f.len - 1) := by
  have : 0 < 2 ^ f.len := Nat.two_pow_pos _
  rw [State.incSat, State.get_set_same, Nat.mod_eq_of_lt (by omega)]

theorem State.get_dec (s : State) (f : Fld) (n : Nat) : (s.dec f n).get f = s.get f - n := by
  have := s.get_lt f
  rw [State.dec, State.get_set_same, Nat.mod_eq_of_lt (by omega)]

/-! ## Tables -/

@[simp] theorem State.quad_setQuad_same (s : State) (q : Nat) (x : Quad) : (s.setQuad q x).quad q = x := by simp [State.quad]
theorem State.quad_setQuad_ne (s : State) (q r : Nat) (x : Quad) (h : r ≠ q) : (s.setQuad q x).quad r = s.quad r := by
  simp [State.quad, nget_nset_ne _ _ _ _ _ _ h]
@[simp] theorem State.quad_modQuad_same (s : State) (q : Nat) (f : Quad → Quad) : (s.modQuad q f).quad q = f (s.quad q) := by
  simp [State.modQuad]
theorem State.quad_modQuad_ne (s : State) (q r : Nat) (f : Quad → Quad) (h : r ≠ q) : (s.modQuad q f).quad r = s.quad r :=
  State.quad_setQuad_ne s q r _ h
theorem State.quad_congr {s t : State} (h : t.quads = s.quads) (q : Nat) : t.quad q = s.quad q := by simp only [State.quad, h]

@[simp] theorem State.page_setPage_same (s : State) (p : Nat) (e : Pte) : (s.setPage p e).page p = e := by simp [State.page]
theorem State.page_setPage_ne (s : State) (p r : Nat) (e : Pte) (h : r ≠ p) : (s.setPage p e).page r = s.page r := by
  simp [State.page, nget_nset_ne _ _ _ _ _ _ h]
@[simp] theorem State.useOf_setUse_same (s : State) (u fr : Nat) (x : FrameUse) : (s.setUse u fr x).useOf u fr = x := by
  simp [State.useOf]
@[simp] theorem State.entryOf_setEntry_same (s : State) (i : Nat) (e : ReqEntry) : (s.setEntry i e).entryOf i = e := by
  simp [State.entryOf]
theorem State.entryOf_setEntry_ne (s : State) (i j : Nat) (e : ReqEntry) (h : j ≠ i) : (s.setEntry i e).entryOf j = s.entryOf j := by
  simp [State.entryOf, nget_nset_ne _ _ _ _ _ _ h]
@[simp] theorem State.group_setGroup_same (s : State) (g : Nat) (x : Group) : (s.setGroup g x).group g = x := by simp [State.group]
@[simp] theorem State.peerOf_setPeer_same (s : State) (p : Nat) (x : Peer) : (s.setPeer p x).peerOf p = x := by simp [State.peerOf]
@[simp] theorem State.trans_setTrans_same (s : State) (k : Nat) (x : Option Trans) : (s.setTrans k x).trans k = x := by
  simp [State.trans]
@[simp] theorem State.link_setLink_same (s : State) (k : Nat) (x : ChordLink) : (s.setLink k x).link k = x := by simp [State.link]
@[simp] theorem State.bind_setBind_same (s : State) (b : Nat) (x : Bind) : (s.setBind b x).bind b = x := by simp [State.bind]
@[simp] theorem State.hq_setHq_same (s : State) (p : Nat) (x : Hq) : (s.setHq p x).hq p = x := by simp [State.hq]

/-! ## Events -/

/-- Posting an event writes the ring and the registers of the log, and nothing else. -/
theorem State.post_eq (s : State) (e : Ev) : s.post e = { s with regs := (s.post e).regs, log := (s.post e).log } := by
  simp only [State.post, State.inc, State.set]
  split <;> split <;> split <;> split <;> rfl

theorem State.post_log (s : State) (e : Ev) :
    (s.post e).log = nset s.log [] (s.get F.ecuLogTail_seq % 4096) (e.entry (s.get F.ecuLogTail_seq) s.boot s.now) := by
  simp only [State.post, State.inc, State.set]
  split <;> split <;> split <;> split <;> rfl

/-- Fields other than those of the log hold what they held. -/
theorem State.post_keeps (s : State) (e : Ev) : Safety.KeepsRegs Safety.logRegs s (s.post e) := by
  intro k d h
  have h1 : k ≠ F.ecuLogTail_seq.key := fun x => h F.ecuLogTail_seq (by simp [Safety.logRegs]) x.symm
  have h2 : k ≠ F.ecuLogDrop_lost.key := fun x => h F.ecuLogDrop_lost (by simp [Safety.logRegs]) x.symm
  have h3 : k ≠ F.ecuStat_last_code.key := fun x => h F.ecuStat_last_code (by simp [Safety.logRegs]) x.symm
  have h4 : k ≠ F.mgtAlert_cause.key := fun x => h F.mgtAlert_cause (by simp [Safety.logRegs]) x.symm
  simp only [State.post, State.inc, State.set]
  split <;> split <;> split <;> split <;>
    simp [nget_nset_ne _ _ _ _ _ _ h1, nget_nset_ne _ _ _ _ _ _ h2, nget_nset_ne _ _ _ _ _ _ h3, nget_nset_ne _ _ _ _ _ _ h4]

theorem State.post_get_ne (s : State) (e : Ev) (f : Fld) (h : ∀ g ∈ Safety.logRegs, g.key ≠ f.key) : (s.post e).get f = s.get f := by
  simp only [State.get, s.post_keeps e f.key f.reset h]

/-- The tail moves on by one. -/
theorem State.post_tail (s : State) (e : Ev) :
    (s.post e).get F.ecuLogTail_seq = (s.get F.ecuLogTail_seq + 1) % 2 ^ 32 := by
  have h2 : F.ecuLogTail_seq.key ≠ F.ecuLogDrop_lost.key := by decide
  have h3 : F.ecuLogTail_seq.key ≠ F.ecuStat_last_code.key := by decide
  have h4 : F.ecuLogTail_seq.key ≠ F.mgtAlert_cause.key := by decide
  have hl : F.ecuLogTail_seq.len = 32 := rfl
  simp only [State.post]
  split <;> split <;> split <;> split <;>
    simp only [State.inc, State.get_set_ne _ _ _ _ h2, State.get_set_ne _ _ _ _ h3, State.get_set_ne _ _ _ _ h4,
      State.get_set_same, hl] <;> rfl

/-- An event posted is an entry logged. -/
theorem State.post_logs (s : State) (e : Ev) : Safety.Logs s (s.post e) e.code e.cls e.part e.orig e.arg := by
  have h : (s.get F.ecuLogTail_seq + 0) % 2 ^ 32 = s.get F.ecuLogTail_seq := Nat.mod_eq_of_lt (s.get_lt F.ecuLogTail_seq)
  refine ⟨⟨e, rfl, rfl, rfl, rfl, rfl, ?_⟩, s.post_tail e⟩
  rw [h, s.post_log e, nget_nset_same]

theorem State.postRim_logs (s : State) (code cls arg : Nat) (part : Option Nat) (orig : Nat) :
    Safety.Logs s (s.postRim code cls arg part orig) code cls part orig arg := s.post_logs _

/-! ## The guard of a register write (R492) -/

theorem State.guard_pf (s : State) (o : Orig) (sc : Scope) (off : Nat) (k : State → State) (h : isPf o = true) :
    s.guard o sc off k = k s := by simp [State.guard, State.mayWrite, h]

theorem State.guard_may (s : State) (o : Orig) (sc : Scope) (off : Nat) (k : State → State) (h : s.mayWrite o sc = true) :
    s.guard o sc off k = k s := by simp [State.guard, h]

/-- A write that is not permitted is dropped whole and logged. -/
theorem State.guard_denied (s : State) (o : Orig) (sc : Scope) (off : Nat) (k : State → State) (h : s.mayWrite o sc = false) :
    s.guard o sc off k = s.postRim 0xB0B0 clsN off (s.onlyPart o) o.code.toNat := by simp [State.guard, State.denied, h]

theorem State.guardQuad_may (s : State) (o : Orig) (q off : Nat) (k : State → State) (h : Safety.MayQuad s o q) :
    s.guardQuad o q off k = k s := by simp [State.guardQuad, State.guard, h.1, h.2]

theorem State.guardQuad_off (s : State) (o : Orig) (q off : Nat) (k : State → State) (h : s.active q = false) :
    s.guardQuad o q off k = s := by simp [State.guardQuad, h]

/-! ## Memory -/

/-- A run of byte writes at rising keys keeps the canonical form. -/
theorem nwf_writes (key : Nat → Nat) (b : List Byte) (a : Nat) (m : List Host.Cell) (h : nwf m 0 = true) :
    nwf (b.foldl (fun (x : Nat × List Host.Cell) y => (x.1 + 1, nset x.2 0 (key x.1) y)) (a, m)).2 0 = true := by
  induction b generalizing a m with
  | nil => exact h
  | cons y r ih => exact ih (a + 1) _ (nwf_nset m 0 _ y h)

/-- A run of byte writes at the keys of a window leaves every key outside it. -/
theorem nget_writes_ne (key : Nat → Nat) (b : List Byte) (a : Nat) (m : List Host.Cell) (k : Nat)
    (h : ∀ i, i < b.length → k ≠ key (a + i)) :
    nget (b.foldl (fun (x : Nat × List Host.Cell) y => (x.1 + 1, nset x.2 0 (key x.1) y)) (a, m)).2 0 k = nget m 0 k := by
  induction b generalizing a m with
  | nil => rfl
  | cons y r ih =>
    have h0 : k ≠ key a := by simpa using h 0 (by simp)
    rw [List.foldl_cons, ih (a + 1) _ (fun i hi => by
      have := h (i + 1) (by simpa using hi)
      rwa [show a + (i + 1) = a + 1 + i by omega] at this), nget_nset_ne _ _ _ _ _ _ h0]

/-- A run of byte writes at distinct keys is read back byte by byte. -/
theorem nget_writes_in (key : Nat → Nat) (hk : ∀ i j, key i = key j → i = j) (b : List Byte) (a : Nat) (m : List Host.Cell) (i : Nat)
    (h : i < b.length) :
    nget (b.foldl (fun (x : Nat × List Host.Cell) y => (x.1 + 1, nset x.2 0 (key x.1) y)) (a, m)).2 0 (key (a + i)) = b[i] := by
  induction b generalizing a m i with
  | nil => simp at h
  | cons y r ih =>
    rw [List.foldl_cons]
    cases i with
    | zero =>
      rw [nget_writes_ne _ _ _ _ _ fun j _ e => by have := hk _ _ e; omega]
      simp
    | succ n =>
      have := ih (a + 1) (nset m 0 (key a) y) n (by simpa using h)
      rwa [show a + 1 + n = a + (n + 1) by omega] at this

/-- A write of a frame is read back. -/
theorem State.rawWrite_read (s : State) (u fr off : Nat) (b : List Byte) (i : Nat) (h : i < b.length) :
    nget (s.rawWrite u fr off b).mem 0 (memKey u fr (off + i)) = b[i] :=
  nget_writes_in (memKey u fr) (fun i j e => by unfold memKey at e; omega) b off s.mem i h

theorem State.rawWrite_wf (s : State) (u fr off : Nat) (b : List Byte) (h : nwf s.mem 0 = true) :
    nwf (s.rawWrite u fr off b).mem 0 = true := nwf_writes (memKey u fr) b off s.mem h

theorem State.hostWrite_wf (s : State) (a : Nat) (b : List Byte) (h : nwf s.hostMem 0 = true) :
    nwf (s.hostWrite a b).hostMem 0 = true := nwf_writes id b a s.hostMem h

theorem State.zeroFrame_wf (s : State) (u fr : Nat) (h : nwf s.mem 0 = true) : nwf (s.zeroFrame u fr).mem 0 = true :=
  nwf_filter _ _ _ h

/-- A write of a frame changes the tiers' memory only. -/
theorem State.frameWrite_eq (s : State) (u fr off p : Nat) (b : List Byte) :
    s.frameWrite u fr off p b = { s with mem := (s.frameWrite u fr off p b).mem } := by
  unfold State.frameWrite
  split
  · rfl
  · exact foldl_keeps (fun t => t = { s with mem := t.mem }) _ (fun t i ht => by rw [ht]; rfl) _ s rfl

theorem State.frameWrite_wf (s : State) (u fr off p : Nat) (b : List Byte) (h : nwf s.mem 0 = true) :
    nwf (s.frameWrite u fr off p b).mem 0 = true := by
  unfold State.frameWrite
  split
  · exact s.rawWrite_wf u fr off b h
  · exact foldl_keeps (fun t => nwf t.mem 0 = true) _ (fun t i ht => State.rawWrite_wf _ _ _ _ _ ht) _ s h

/-- A write of a byte through the page table changes the tiers' memory, or the bytes held for a migration. -/
theorem State.writeByte_eq (s : State) (a : Nat) (b : Byte) :
    s.writeByte a b = { s with mem := (s.writeByte a b).mem, migrations := (s.writeByte a b).migrations } := by
  unfold State.writeByte
  simp only
  split
  · rfl
  · split
    · rfl
    · rw [State.frameWrite_eq]

theorem State.writeByte_wf (s : State) (a : Nat) (b : Byte) (h : nwf s.mem 0 = true) : nwf (s.writeByte a b).mem 0 = true := by
  unfold State.writeByte
  simp only
  split
  · exact h
  · split
    · exact h
    · exact s.frameWrite_wf _ _ _ _ _ h

/-- What every step of a run of byte writes keeps, the run keeps. -/
theorem State.writeBytes_keeps (P : State → Prop) (h : ∀ t a x, P t → P (t.writeByte a x)) (b : List Byte) (a : Nat) (s : State)
    (hs : P s) : P (b.foldl (fun (a : Nat × State) x => (a.1 + 1, a.2.writeByte a.1 x)) (a, s)).2 := by
  induction b generalizing a s with
  | nil => exact hs
  | cons x r ih => exact ih (a + 1) _ (h s a x hs)

/-- Writes heal the words that they cover whole: only memBad changes. -/
theorem State.heal_eq (s : State) (a n : Nat) : s.heal a n = { s with memBad := (s.heal a n).memBad } := by
  unfold State.heal
  exact foldl_keeps (fun t => t = { s with memBad := t.memBad }) _
    (fun t x ht => by rw [ht]; dsimp only; split <;> rfl) _ s rfl

theorem State.writeAt_wf (s : State) (a : Nat) (b : List Byte) (h : nwf s.mem 0 = true) : nwf (s.writeAt a b).mem 0 = true := by
  unfold State.writeAt
  rw [State.heal_eq]
  exact State.writeBytes_keeps (fun t => nwf t.mem 0 = true) (fun t a x => t.writeByte_wf a x) b a s h

/-- Every memory operation keeps the canonical form of both memories. -/
theorem State.writeAt_memOk (s : State) (a : Nat) (b : List Byte) (h : Safety.MemOk s) : Safety.MemOk (s.writeAt a b) := by
  refine ⟨s.writeAt_wf a b h.1, ?_⟩
  unfold State.writeAt
  rw [State.heal_eq]
  exact State.writeBytes_keeps (fun t => nwf t.hostMem 0 = true) (fun t a x ht => by rw [State.writeByte_eq]; exact ht) b a s h.2

/-! ## Commands -/

/-- Every command answers a next state. -/
theorem exec_next (c : Instr) (s : State) : ∃ t, exec c s = .next t := by
  cases c <;> exact ⟨_, rfl⟩

end Sys2Proof.Machine
end

