-- ==== Sys2Proof/WellFormed.lean ====
section
/-! DEFINITION. Which commands are well formed: what their operand types do not already say. -/

namespace Sys2Proof

/-- A register offset is that of a 32-bit word (R23). -/
def offOk (off : BitVec 25) : Bool := off.toNat % 4 == 0

/-- Readings of an epoch: at most the sensors that exist (R433, R435, R228, R521). -/
def EpochReadings.wf (r : EpochReadings) : Bool :=
  decide (r.laser.length ≤ 512) && decide (r.optics.length ≤ 512) && decide (r.orl.length ≤ 64) &&
    decide (r.stkErr.length ≤ 12) && decide (r.facetUj.length ≤ 8)

/-- A start-up report names at most the ports and base dies that exist (R230, R478). -/
def StartupReport.wf (r : StartupReport) : Bool :=
  decide (r.farFrames.length ≤ 8) && decide (r.spareRows.length ≤ 8)

/-- The checks of one command. -/
def Instr.wf : Instr → Bool
  | .registerWrite off _ _ _ => offOk off
  | .wideLowRead off _ => offOk off
  | .mctpRegisterRead _ off => offOk off
  | .mctpRegisterWrite _ off _ => offOk off
  | .epochBoundary r => r.wf
  | .startupStepComplete r => r.wf
  | .thermalSample temps => decide (temps.length ≤ 22)
  | .codewordReceive _ (some w) _ => decide (w.2.length = 10)
  | _ => true

end Sys2Proof
end

