-- ==== Sys2Proof/Laws/PerInstr.lean ====
section
/-! SUPPORT. The per-instruction family WellTyped: a well-formed command names register words only at offsets of 32-bit words, and
lists no more readings than there are sensors. -/

set_option Elab.async false

namespace Sys2Proof

/-- Register offsets that a command names. -/
def Instr.offsets : Instr → List (BitVec 25)
  | .registerWrite off _ _ _ => [off]
  | .wideLowRead off _ => [off]
  | .mctpRegisterRead _ off => [off]
  | .mctpRegisterWrite _ off _ => [off]
  | _ => []

/-- Lengths of the lists of readings that a command carries, each with its bound. -/
def Instr.lists : Instr → List (Nat × Nat)
  | .epochBoundary r => [(r.laser.length, 512), (r.optics.length, 512), (r.orl.length, 64), (r.stkErr.length, 12), (r.facetUj.length, 8)]
  | .startupStepComplete r => [(r.farFrames.length, 8), (r.spareRows.length, 8)]
  | .thermalSample temps => [(temps.length, 22)]
  | _ => []

end Sys2Proof

namespace Sys2Proof.Laws.WellTyped

/-- What well-formedness gives of a command's operands. -/
def Statement (i : Instr) : Prop :=
  i.wf = true → (∀ off ∈ i.offsets, off.toNat % 4 = 0) ∧ ∀ e ∈ i.lists, e.1 ≤ e.2

theorem registerWrite (off : BitVec 25) (orig : Orig) (val : Lane) (also : Option (Orig × Lane)) : Statement (.registerWrite off orig val also) := fun h => ⟨by simpa [Instr.offsets, Instr.wf, offOk] using h, nofun⟩
theorem wideLowRead (off : BitVec 25) (orig : Orig) : Statement (.wideLowRead off orig) := fun h => ⟨by simpa [Instr.offsets, Instr.wf, offOk] using h, nofun⟩
theorem mgtGeomWrite (orig : Orig) (val : Lane) : Statement (.mgtGeomWrite orig val) := fun _ => ⟨nofun, nofun⟩
theorem snap (q : Fin 32) (orig : Orig) (val : Lane) : Statement (.snap q orig val) := fun _ => ⟨nofun, nofun⟩
theorem snapshotLatch (q : Fin 32) : Statement (.snapshotLatch q) := fun _ => ⟨nofun, nofun⟩
theorem seqNflagWrite (q : Fin 32) (n : Fin 8) (orig : Orig) (val : Lane) : Statement (.seqNflagWrite q n orig val) := fun _ => ⟨nofun, nofun⟩
theorem fnInstall (q : Fin 32) (orig : Orig) (val : Lane) : Statement (.fnInstall q orig val) := fun _ => ⟨nofun, nofun⟩
theorem fnInstallComplete (q : Fin 32) : Statement (.fnInstallComplete q) := fun _ => ⟨nofun, nofun⟩
theorem wheelDecision (q : Fin 32) : Statement (.wheelDecision q) := fun _ => ⟨nofun, nofun⟩
theorem run (q : Fin 32) : Statement (.run q) := fun _ => ⟨nofun, nofun⟩
theorem loop (q : Fin 32) : Statement (.loop q) := fun _ => ⟨nofun, nofun⟩
theorem endStep (q : Fin 32) : Statement (.endStep q) := fun _ => ⟨nofun, nofun⟩
theorem gateWeight (q : Fin 32) : Statement (.gateWeight q) := fun _ => ⟨nofun, nofun⟩
theorem gateStream (q : Fin 32) : Statement (.gateStream q) := fun _ => ⟨nofun, nofun⟩
theorem gateEdge (q : Fin 32) : Statement (.gateEdge q) := fun _ => ⟨nofun, nofun⟩
theorem gateReq (q : Fin 32) : Statement (.gateReq q) := fun _ => ⟨nofun, nofun⟩
theorem gateHost (q : Fin 32) : Statement (.gateHost q) := fun _ => ⟨nofun, nofun⟩
theorem recv (q : Fin 32) : Statement (.recv q) := fun _ => ⟨nofun, nofun⟩
theorem barrier (q : Fin 32) : Statement (.barrier q) := fun _ => ⟨nofun, nofun⟩
theorem ssw (q : Fin 32) : Statement (.ssw q) := fun _ => ⟨nofun, nofun⟩
theorem send (q : Fin 32) : Statement (.send q) := fun _ => ⟨nofun, nofun⟩
theorem wadv (q : Fin 32) : Statement (.wadv q) := fun _ => ⟨nofun, nofun⟩
theorem dmark (q : Fin 32) : Statement (.dmark q) := fun _ => ⟨nofun, nofun⟩
theorem shrd (q : Fin 32) : Statement (.shrd q) := fun _ => ⟨nofun, nofun⟩
theorem gateHoldEnd (q : Fin 32) (fc : BitVec 32) : Statement (.gateHoldEnd q fc) := fun _ => ⟨nofun, nofun⟩
theorem gateTimeout (q : Fin 32) (fc : BitVec 32) : Statement (.gateTimeout q fc) := fun _ => ⟨nofun, nofun⟩
theorem arrayFiring (q : Fin 32) (site : BitVec 8) (uop : BitVec 9) (j : BitVec 16) : Statement (.arrayFiring q site uop j) := fun _ => ⟨nofun, nofun⟩
theorem vecFiring (q : Fin 32) (site : BitVec 8) (uop : BitVec 9) : Statement (.vecFiring q site uop) := fun _ => ⟨nofun, nofun⟩
theorem fnFiring (q : Fin 32) (site : BitVec 8) (uop : BitVec 9) : Statement (.fnFiring q site uop) := fun _ => ⟨nofun, nofun⟩
theorem rowmax (q : Fin 32) (site : BitVec 8) (uop : BitVec 9) : Statement (.rowmax q site uop) := fun _ => ⟨nofun, nofun⟩
theorem rowmin (q : Fin 32) (site : BitVec 8) (uop : BitVec 9) : Statement (.rowmin q site uop) := fun _ => ⟨nofun, nofun⟩
theorem rowsum (q : Fin 32) (site : BitVec 8) (uop : BitVec 9) : Statement (.rowsum q site uop) := fun _ => ⟨nofun, nofun⟩
theorem rowss (q : Fin 32) (site : BitVec 8) (uop : BitVec 9) : Statement (.rowss q site uop) := fun _ => ⟨nofun, nofun⟩
theorem salHalt (q : Fin 32) (site : BitVec 8) : Statement (.salHalt q site) := fun _ => ⟨nofun, nofun⟩
theorem salWait (q : Fin 32) (site : BitVec 8) (imm : BitVec 14) : Statement (.salWait q site imm) := fun _ => ⟨nofun, nofun⟩
theorem salAdd (q : Fin 32) (site : BitVec 8) (rd ra rb : Fin 16) : Statement (.salAdd q site rd ra rb) := fun _ => ⟨nofun, nofun⟩
theorem salSub (q : Fin 32) (site : BitVec 8) (rd ra rb : Fin 16) : Statement (.salSub q site rd ra rb) := fun _ => ⟨nofun, nofun⟩
theorem salAnd (q : Fin 32) (site : BitVec 8) (rd ra rb : Fin 16) : Statement (.salAnd q site rd ra rb) := fun _ => ⟨nofun, nofun⟩
theorem salOr (q : Fin 32) (site : BitVec 8) (rd ra rb : Fin 16) : Statement (.salOr q site rd ra rb) := fun _ => ⟨nofun, nofun⟩
theorem salXor (q : Fin 32) (site : BitVec 8) (rd ra rb : Fin 16) : Statement (.salXor q site rd ra rb) := fun _ => ⟨nofun, nofun⟩
theorem salShl (q : Fin 32) (site : BitVec 8) (rd ra : Fin 16) (imm : BitVec 14) : Statement (.salShl q site rd ra imm) := fun _ => ⟨nofun, nofun⟩
theorem salShr (q : Fin 32) (site : BitVec 8) (rd ra : Fin 16) (imm : BitVec 14) : Statement (.salShr q site rd ra imm) := fun _ => ⟨nofun, nofun⟩
theorem salSra (q : Fin 32) (site : BitVec 8) (rd ra : Fin 16) (imm : BitVec 14) : Statement (.salSra q site rd ra imm) := fun _ => ⟨nofun, nofun⟩
theorem addi (q : Fin 32) (site : BitVec 8) (rd ra : Fin 16) (imm : BitVec 14) : Statement (.addi q site rd ra imm) := fun _ => ⟨nofun, nofun⟩
theorem lui (q : Fin 32) (site : BitVec 8) (rd : Fin 16) (imm : BitVec 14) : Statement (.lui q site rd imm) := fun _ => ⟨nofun, nofun⟩
theorem rds (q : Fin 32) (site : BitVec 8) (rd : Fin 16) : Statement (.rds q site rd) := fun _ => ⟨nofun, nofun⟩
theorem wrs (q : Fin 32) (site : BitVec 8) (ra : Fin 16) : Statement (.wrs q site ra) := fun _ => ⟨nofun, nofun⟩
theorem wrt (q : Fin 32) (site : BitVec 8) (ra : Fin 16) : Statement (.wrt q site ra) := fun _ => ⟨nofun, nofun⟩
theorem ld (q : Fin 32) (site : BitVec 8) (rd ra rb : Fin 16) : Statement (.ld q site rd ra rb) := fun _ => ⟨nofun, nofun⟩
theorem st (q : Fin 32) (site : BitVec 8) (rd ra rb : Fin 16) : Statement (.st q site rd ra rb) := fun _ => ⟨nofun, nofun⟩
theorem setb (q : Fin 32) (site : BitVec 8) (ra : Fin 16) (imm : BitVec 14) : Statement (.setb q site ra imm) := fun _ => ⟨nofun, nofun⟩
theorem rep (q : Fin 32) (site : BitVec 8) (imm : BitVec 14) : Statement (.rep q site imm) := fun _ => ⟨nofun, nofun⟩
theorem sectionLoad (q : Fin 32) (orig : Orig) (val : Lane) : Statement (.sectionLoad q orig val) := fun _ => ⟨nofun, nofun⟩
theorem sectionLoadComplete (q : Fin 32) : Statement (.sectionLoadComplete q) := fun _ => ⟨nofun, nofun⟩
theorem hostCommit (q : Fin 32) (orig : Orig) (val : Lane) : Statement (.hostCommit q orig val) := fun _ => ⟨nofun, nofun⟩
theorem sectionDiscard (q : Fin 32) (orig : Orig) (val : Lane) : Statement (.sectionDiscard q orig val) := fun _ => ⟨nofun, nofun⟩
theorem mapPages (orig : Orig) (val : Lane) : Statement (.mapPages orig val) := fun _ => ⟨nofun, nofun⟩
theorem mapZeroComplete (page : BitVec 24) : Statement (.mapZeroComplete page) := fun _ => ⟨nofun, nofun⟩
theorem unmapPages (orig : Orig) (val : Lane) : Statement (.unmapPages orig val) := fun _ => ⟨nofun, nofun⟩
theorem hintPages (orig : Orig) (val : Lane) : Statement (.hintPages orig val) := fun _ => ⟨nofun, nofun⟩
theorem protectPages (orig : Orig) (val : Lane) : Statement (.protectPages orig val) := fun _ => ⟨nofun, nofun⟩
theorem migratePages (orig : Orig) (val : Lane) : Statement (.migratePages orig val) := fun _ => ⟨nofun, nofun⟩
theorem queryPage (orig : Orig) (val : Lane) : Statement (.queryPage orig val) := fun _ => ⟨nofun, nofun⟩
theorem pageTableDrainComplete (page : BitVec 24) : Statement (.pageTableDrainComplete page) := fun _ => ⟨nofun, nofun⟩
theorem autoMigrationStart : Statement (.autoMigrationStart) := fun _ => ⟨nofun, nofun⟩
theorem migrationCopyEnd (page : BitVec 24) : Statement (.migrationCopyEnd page) := fun _ => ⟨nofun, nofun⟩
theorem migrationAbandon (page : BitVec 24) : Statement (.migrationAbandon page) := fun _ => ⟨nofun, nofun⟩
theorem farAccessTimeout (q : Fin 32) (id : BitVec 16) : Statement (.farAccessTimeout q id) := fun _ => ⟨nofun, nofun⟩
theorem farLinkDown (port : Fin 8) : Statement (.farLinkDown port) := fun _ => ⟨nofun, nofun⟩
theorem dcdExtentAdd (port : Fin 8) (first count : BitVec 20) : Statement (.dcdExtentAdd port first count) := fun _ => ⟨nofun, nofun⟩
theorem dcdReleaseRequest (port : Fin 8) (first count : BitVec 20) : Statement (.dcdReleaseRequest port first count) := fun _ => ⟨nofun, nofun⟩
theorem dcdExtentWithdraw (port : Fin 8) (first count : BitVec 20) : Statement (.dcdExtentWithdraw port first count) := fun _ => ⟨nofun, nofun⟩
theorem descriptorComplete (q : Fin 32) (id : BitVec 16) : Statement (.descriptorComplete q id) := fun _ => ⟨nofun, nofun⟩
theorem hqDoorbell (p : Fin 16) (orig : Orig) (val : Lane) (entries : List (BitVec 1024)) : Statement (.hqDoorbell p orig val entries) := fun _ => ⟨nofun, nofun⟩
theorem hqEnable (p : Fin 16) (orig : Orig) (val : Lane) : Statement (.hqEnable p orig val) := fun _ => ⟨nofun, nofun⟩
theorem hqDisable (p : Fin 16) (orig : Orig) (val : Lane) : Statement (.hqDisable p orig val) := fun _ => ⟨nofun, nofun⟩
theorem hqCheadWrite (p : Fin 16) (orig : Orig) (val : Lane) : Statement (.hqCheadWrite p orig val) := fun _ => ⟨nofun, nofun⟩
theorem hqEntryComplete (p : Fin 16) (entry : BitVec 16) (hostData : List Byte) (hostErr : Bool) : Statement (.hqEntryComplete p entry hostData hostErr) := fun _ => ⟨nofun, nofun⟩
theorem hqEntrySuspend (p : Fin 16) (entry : BitVec 16) (hostData : List Byte) (pos : BitVec 120) (side : Bool) (addr : Dword) : Statement (.hqEntrySuspend p entry hostData pos side addr) := fun _ => ⟨nofun, nofun⟩
theorem hqResume (p : Fin 16) (orig : Orig) (val : Lane) : Statement (.hqResume p orig val) := fun _ => ⟨nofun, nofun⟩
theorem hqAbort (p : Fin 16) (orig : Orig) (val : Lane) : Statement (.hqAbort p orig val) := fun _ => ⟨nofun, nofun⟩
theorem hqRingError (p : Fin 16) : Statement (.hqRingError p) := fun _ => ⟨nofun, nofun⟩
theorem bindLoad (b : Fin 256) (orig : Orig) (val : Lane) : Statement (.bindLoad b orig val) := fun _ => ⟨nofun, nofun⟩
theorem bindReplace (b : Fin 256) (orig : Orig) (val : Lane) : Statement (.bindReplace b orig val) := fun _ => ⟨nofun, nofun⟩
theorem bindUnload (b : Fin 256) (orig : Orig) (val : Lane) : Statement (.bindUnload b orig val) := fun _ => ⟨nofun, nofun⟩
theorem bindCancel (b : Fin 256) (orig : Orig) (val : Lane) : Statement (.bindCancel b orig val) := fun _ => ⟨nofun, nofun⟩
theorem shardAttemptStart (u : Fin 2) : Statement (.shardAttemptStart u) := fun _ => ⟨nofun, nofun⟩
theorem shardAttemptEnd (b : Fin 256) (layer : BitVec 12) (shard : BitVec 24) (code : Code) : Statement (.shardAttemptEnd b layer shard code) := fun _ => ⟨nofun, nofun⟩
theorem shardAttemptTimeout (b : Fin 256) (layer : BitVec 12) (shard : BitVec 24) : Statement (.shardAttemptTimeout b layer shard) := fun _ => ⟨nofun, nofun⟩
theorem shardDepositComplete (b : Fin 256) (layer : BitVec 12) (shard : BitVec 24) : Statement (.shardDepositComplete b layer shard) := fun _ => ⟨nofun, nofun⟩
theorem layerCommit (b : Fin 256) (layer : BitVec 12) : Statement (.layerCommit b layer) := fun _ => ⟨nofun, nofun⟩
theorem dst1CopyComplete (b : Fin 256) (layer : BitVec 12) : Statement (.dst1CopyComplete b layer) := fun _ => ⟨nofun, nofun⟩
theorem bindDrainComplete (b : Fin 256) : Statement (.bindDrainComplete b) := fun _ => ⟨nofun, nofun⟩
theorem digestEntryWrite (q : Fin 32) (hostErr : Bool) : Statement (.digestEntryWrite q hostErr) := fun _ => ⟨nofun, nofun⟩
theorem digRingEnable (q : Fin 32) (orig : Orig) (val : Lane) : Statement (.digRingEnable q orig val) := fun _ => ⟨nofun, nofun⟩
theorem requestDoorbell (p : Fin 16) (orig : Orig) (val : Lane) : Statement (.requestDoorbell p orig val) := fun _ => ⟨nofun, nofun⟩
theorem requestAdmit (p : Fin 16) (desc : BitVec 1024) (stop : Option (BitVec 2048)) (prompt : Option (List Lane)) : Statement (.requestAdmit p desc stop prompt) := fun _ => ⟨nofun, nofun⟩
theorem reqQueueEnable (p : Fin 16) (orig : Orig) (val : Lane) (bad : List Nat) : Statement (.reqQueueEnable p orig val bad) := fun _ => ⟨nofun, nofun⟩
theorem reqQueueDisable (p : Fin 16) (orig : Orig) (val : Lane) : Statement (.reqQueueDisable p orig val) := fun _ => ⟨nofun, nofun⟩
theorem reqCqHeadWrite (p : Fin 16) (orig : Orig) (val : Lane) (bad : List Nat) : Statement (.reqCqHeadWrite p orig val bad) := fun _ => ⟨nofun, nofun⟩
theorem serviceInstall (sv : Fin 64) (orig : Orig) (val : Lane) : Statement (.serviceInstall sv orig val) := fun _ => ⟨nofun, nofun⟩
theorem serviceRemove (sv : Fin 64) (orig : Orig) (val : Lane) : Statement (.serviceRemove sv orig val) := fun _ => ⟨nofun, nofun⟩
theorem batchPlace (g : Fin 256) (reads : BatchReads) : Statement (.batchPlace g reads) := fun _ => ⟨nofun, nofun⟩
theorem prefillWaitExpire (g : Fin 256) (reads : BatchReads) : Statement (.prefillWaitExpire g reads) := fun _ => ⟨nofun, nofun⟩
theorem emit (g : Fin 256) (ringErr : List (BitVec 32)) (bad : List Nat) : Statement (.emit g ringErr bad) := fun _ => ⟨nofun, nofun⟩
theorem deadlineScan (bad : List Nat) : Statement (.deadlineScan bad) := fun _ => ⟨nofun, nofun⟩
theorem reqQuarantineExpire (idx : BitVec 16) : Statement (.reqQuarantineExpire idx) := fun _ => ⟨nofun, nofun⟩
theorem tokenVectorInterval (p : Fin 16) : Statement (.tokenVectorInterval p) := fun _ => ⟨nofun, nofun⟩
theorem requestCancel (orig : Orig) (val : Lane) (bad : List Nat) : Statement (.requestCancel orig val bad) := fun _ => ⟨nofun, nofun⟩
theorem ringHead (orig : Orig) (val : Lane) : Statement (.ringHead orig val) := fun _ => ⟨nofun, nofun⟩
theorem peek (orig : Orig) (val : Lane) : Statement (.peek orig val) := fun _ => ⟨nofun, nofun⟩
theorem releaseHandle (orig : Orig) (val : Lane) : Statement (.releaseHandle orig val) := fun _ => ⟨nofun, nofun⟩
theorem groupReset (g : Fin 256) (orig : Orig) (val : Lane) : Statement (.groupReset g orig val) := fun _ => ⟨nofun, nofun⟩
theorem poolEnable (k : Fin 32) (orig : Orig) (val : Lane) : Statement (.poolEnable k orig val) := fun _ => ⟨nofun, nofun⟩
theorem prefixEnableWrite (orig : Orig) (val : Lane) : Statement (.prefixEnableWrite orig val) := fun _ => ⟨nofun, nofun⟩
theorem ctxCfgWrite (c : Fin 64) (orig : Orig) (val : Lane) : Statement (.ctxCfgWrite c orig val) := fun _ => ⟨nofun, nofun⟩
theorem slotBind (q : Fin 32) (n : Fin 8) (orig : Orig) (val : Lane) : Statement (.slotBind q n orig val) := fun _ => ⟨nofun, nofun⟩
theorem cqPush (q : Fin 32) (n : Fin 8) (orig : Orig) (val : Lane) : Statement (.cqPush q n orig val) := fun _ => ⟨nofun, nofun⟩
theorem wheelWrite (q : Fin 32) (w : Fin 2) (orig : Orig) (val : Lane) : Statement (.wheelWrite q w orig val) := fun _ => ⟨nofun, nofun⟩
theorem saveOcc (q : Fin 32) (orig : Orig) (val : Lane) : Statement (.saveOcc q orig val) := fun _ => ⟨nofun, nofun⟩
theorem restoreOcc (q : Fin 32) (orig : Orig) (val : Lane) : Statement (.restoreOcc q orig val) := fun _ => ⟨nofun, nofun⟩
theorem swapOcc (q : Fin 32) (orig : Orig) (val : Lane) : Statement (.swapOcc q orig val) := fun _ => ⟨nofun, nofun⟩
theorem freeArea (q : Fin 32) (orig : Orig) (val : Lane) : Statement (.freeArea q orig val) := fun _ => ⟨nofun, nofun⟩
theorem preSwitchPoint (q : Fin 32) : Statement (.preSwitchPoint q) := fun _ => ⟨nofun, nofun⟩
theorem preSaveComplete (q : Fin 32) (code : Code) : Statement (.preSaveComplete q code) := fun _ => ⟨nofun, nofun⟩
theorem preReloadComplete (q : Fin 32) : Statement (.preReloadComplete q) := fun _ => ⟨nofun, nofun⟩
theorem preRestoreComplete (q : Fin 32) (code : Code) : Statement (.preRestoreComplete q code) := fun _ => ⟨nofun, nofun⟩
theorem acctSnap (orig : Orig) (val : Lane) : Statement (.acctSnap orig val) := fun _ => ⟨nofun, nofun⟩
theorem chordCfgEnWrite (orig : Orig) (val : Lane) : Statement (.chordCfgEnWrite orig val) := fun _ => ⟨nofun, nofun⟩
theorem chordLinkEnWrite (k : Fin 64) (orig : Orig) (val : Lane) : Statement (.chordLinkEnWrite k orig val) := fun _ => ⟨nofun, nofun⟩
theorem retrain (k : Fin 64) (orig : Orig) (val : Lane) : Statement (.retrain k orig val) := fun _ => ⟨nofun, nofun⟩
theorem chordTestSelect (k : Fin 64) (orig : Orig) (val : Lane) : Statement (.chordTestSelect k orig val) := fun _ => ⟨nofun, nofun⟩
theorem chordTrainAdvance (k : Fin 64) (lanes : Byte) : Statement (.chordTrainAdvance k lanes) := fun _ => ⟨nofun, nofun⟩
theorem capabilityFlit (k : Fin 64) (vlo vhi : Byte) (pkg : BitVec 12) (gen : Byte) (port : BitVec 6) : Statement (.capabilityFlit k vlo vhi pkg gen port) := fun _ => ⟨nofun, nofun⟩
theorem chordTrainBoundExpire (k : Fin 64) : Statement (.chordTrainBoundExpire k) := fun _ => ⟨nofun, nofun⟩
theorem chordFailedRetrain (k : Fin 64) : Statement (.chordFailedRetrain k) := fun _ => ⟨nofun, nofun⟩
theorem chordLightLoss (k : Fin 64) (lane : Fin 8) : Statement (.chordLightLoss k lane) := fun _ => ⟨nofun, nofun⟩
theorem codewordReceive (k : Fin 64) (word : Option (BitVec 20 × List (BitVec 512))) (corrected : BitVec 10) : Statement (.codewordReceive k word corrected) := fun _ => ⟨nofun, nofun⟩
theorem writePacket (k : Fin 64) (hdr : BitVec 512) (data : List (BitVec 2048)) : Statement (.writePacket k hdr data) := fun _ => ⟨nofun, nofun⟩
theorem ackPacket (k : Fin 64) (hdr : BitVec 512) : Statement (.ackPacket k hdr) := fun _ => ⟨nofun, nofun⟩
theorem nackPacket (k : Fin 64) (hdr : BitVec 512) : Statement (.nackPacket k hdr) := fun _ => ⟨nofun, nofun⟩
theorem probePacket (k : Fin 64) (hdr : BitVec 512) : Statement (.probePacket k hdr) := fun _ => ⟨nofun, nofun⟩
theorem mgmtPacket (k : Fin 64) (hdr : BitVec 512) (data : List (BitVec 2048)) : Statement (.mgmtPacket k hdr data) := fun _ => ⟨nofun, nofun⟩
theorem portDown (k : Fin 64) (hdr : BitVec 512) : Statement (.portDown k hdr) := fun _ => ⟨nofun, nofun⟩
theorem portUp (k : Fin 64) (hdr : BitVec 512) : Statement (.portUp k hdr) := fun _ => ⟨nofun, nofun⟩
theorem transactionAckTimeout (slot : BitVec 20) : Statement (.transactionAckTimeout slot) := fun _ => ⟨nofun, nofun⟩
theorem busyResend (slot : BitVec 20) : Statement (.busyResend slot) := fun _ => ⟨nofun, nofun⟩
theorem tagSlotHoldExpire (slot : BitVec 20) : Statement (.tagSlotHoldExpire slot) := fun _ => ⟨nofun, nofun⟩
theorem keptTagExpire (pkg : BitVec 12) (tag : BitVec 28) : Statement (.keptTagExpire pkg tag) := fun _ => ⟨nofun, nofun⟩
theorem probeSend (rim : Fin 2) : Statement (.probeSend rim) := fun _ => ⟨nofun, nofun⟩
theorem peerSilenceTimeout (pkg : BitVec 12) : Statement (.peerSilenceTimeout pkg) := fun _ => ⟨nofun, nofun⟩
theorem peerQuarantineExpire (pkg : BitVec 12) : Statement (.peerQuarantineExpire pkg) := fun _ => ⟨nofun, nofun⟩
theorem peerAdmit (orig : Orig) (val : Lane) : Statement (.peerAdmit orig val) := fun _ => ⟨nofun, nofun⟩
theorem peerEvict (orig : Orig) (val : Lane) : Statement (.peerEvict orig val) := fun _ => ⟨nofun, nofun⟩
theorem prbsCheckEnable (lane : Fin 512) (orig : Orig) (val : Lane) : Statement (.prbsCheckEnable lane orig val) := fun _ => ⟨nofun, nofun⟩
theorem reflectometryDone (k : Fin 64) (dist : BitVec 12) : Statement (.reflectometryDone k dist) := fun _ => ⟨nofun, nofun⟩
theorem fence (orig : Orig) (val : Lane) : Statement (.fence orig val) := fun _ => ⟨nofun, nofun⟩
theorem readmit (orig : Orig) (val : Lane) : Statement (.readmit orig val) := fun _ => ⟨nofun, nofun⟩
theorem readmitSelftestComplete (q : Fin 32) (pass : Bool) : Statement (.readmitSelftestComplete q pass) := fun _ => ⟨nofun, nofun⟩
theorem seamFault (seam : Fin 14) : Statement (.seamFault seam) := fun _ => ⟨nofun, nofun⟩
theorem stackChannelFault (dev : Fin 12) (ch : Fin 32) : Statement (.stackChannelFault dev ch) := fun _ => ⟨nofun, nofun⟩
theorem stackDeviceFault (dev : Fin 12) : Statement (.stackDeviceFault dev) := fun _ => ⟨nofun, nofun⟩
theorem quadrantFault (q : Fin 32) : Statement (.quadrantFault q) := fun _ => ⟨nofun, nofun⟩
theorem facetFault (f : Fin 8) : Statement (.facetFault f) := fun _ => ⟨nofun, nofun⟩
theorem rimSFault : Statement (.rimSFault) := fun _ => ⟨nofun, nofun⟩
theorem packageFault (cause : Code) : Statement (.packageFault cause) := fun _ => ⟨nofun, nofun⟩
theorem sectorRowRepair (q : Fin 32) (site : BitVec 8) (row : BitVec 6) : Statement (.sectorRowRepair q site row) := fun _ => ⟨nofun, nofun⟩
theorem baseRowRepair (f : Fin 8) (frame : BitVec 12) (row : BitVec 8) : Statement (.baseRowRepair f frame row) := fun _ => ⟨nofun, nofun⟩
theorem logCommitB : Statement (.logCommitB) := fun _ => ⟨nofun, nofun⟩
theorem logCommitComplete (copyB : Bool) (ok : Bool) : Statement (.logCommitComplete copyB ok) := fun _ => ⟨nofun, nofun⟩
theorem cut (orig : Orig) (val : Lane) : Statement (.cut orig val) := fun _ => ⟨nofun, nofun⟩
theorem cutRestore (orig : Orig) (val : Lane) : Statement (.cutRestore orig val) := fun _ => ⟨nofun, nofun⟩
theorem cutAbandon (orig : Orig) (val : Lane) : Statement (.cutAbandon orig val) := fun _ => ⟨nofun, nofun⟩
theorem cutAllAtGate : Statement (.cutAllAtGate) := fun _ => ⟨nofun, nofun⟩
theorem cutQuiesced : Statement (.cutQuiesced) := fun _ => ⟨nofun, nofun⟩
theorem cutWritten (err : Bool) : Statement (.cutWritten err) := fun _ => ⟨nofun, nofun⟩
theorem seqMboxWrite (q : Fin 32) (m : Fin 16) (orig : Orig) (val : Lane) : Statement (.seqMboxWrite q m orig val) := fun _ => ⟨nofun, nofun⟩
theorem quadOwnerWrite (q : Fin 32) (orig : Orig) (val : Lane) : Statement (.quadOwnerWrite q orig val) := fun _ => ⟨nofun, nofun⟩
theorem scrubComplete (q : Fin 32) : Statement (.scrubComplete q) := fun _ => ⟨nofun, nofun⟩
theorem svnCommit (orig : Orig) (val : Lane) : Statement (.svnCommit orig val) := fun _ => ⟨nofun, nofun⟩
theorem measExtend (orig : Orig) (val : Lane) : Statement (.measExtend orig val) := fun _ => ⟨nofun, nofun⟩
theorem getVersion (path : MsgPath) : Statement (.getVersion path) := fun _ => ⟨nofun, nofun⟩
theorem getCapabilities (path : MsgPath) : Statement (.getCapabilities path) := fun _ => ⟨nofun, nofun⟩
theorem negotiateAlgorithms (path : MsgPath) (asym hash : BitVec 32) : Statement (.negotiateAlgorithms path asym hash) := fun _ => ⟨nofun, nofun⟩
theorem getDigests (path : MsgPath) : Statement (.getDigests path) := fun _ => ⟨nofun, nofun⟩
theorem getCertificate (path : MsgPath) (slot : Byte) (offset length : BitVec 16) : Statement (.getCertificate path slot offset length) := fun _ => ⟨nofun, nofun⟩
theorem challenge (path : MsgPath) (slot : Byte) (nonce : BitVec 256) : Statement (.challenge path slot nonce) := fun _ => ⟨nofun, nofun⟩
theorem getMeasurements (path : MsgPath) (index : Byte) (nonce : BitVec 256) : Statement (.getMeasurements path index nonce) := fun _ => ⟨nofun, nofun⟩
theorem peerAttest (orig : Orig) (val : Lane) : Statement (.peerAttest orig val) := fun _ => ⟨nofun, nofun⟩
theorem peerAttestComplete (chainOk sigOk locked : Bool) (svn : Byte) : Statement (.peerAttestComplete chainOk sigOk locked svn) := fun _ => ⟨nofun, nofun⟩
theorem peerAttestTimeout : Statement (.peerAttestTimeout) := fun _ => ⟨nofun, nofun⟩
theorem installGcmKey (orig : Orig) (val : Lane) : Statement (.installGcmKey orig val) := fun _ => ⟨nofun, nofun⟩
theorem installXtsKey (orig : Orig) (val : Lane) : Statement (.installXtsKey orig val) := fun _ => ⟨nofun, nofun⟩
theorem eraseSlot (orig : Orig) (val : Lane) : Statement (.eraseSlot orig val) := fun _ => ⟨nofun, nofun⟩
theorem installKek (orig : Orig) (val : Lane) : Statement (.installKek orig val) := fun _ => ⟨nofun, nofun⟩
theorem farCryptWrite (p : Fin 16) (orig : Orig) (val : Lane) : Statement (.farCryptWrite p orig val) := fun _ => ⟨nofun, nofun⟩
theorem idcode : Statement (.idcode) := fun _ => ⟨nofun, nofun⟩
theorem bypass : Statement (.bypass) := fun _ => ⟨nofun, nofun⟩
theorem samplePreload (cells : List Bool) : Statement (.samplePreload cells) := fun _ => ⟨nofun, nofun⟩
theorem extest (cells : List Bool) : Statement (.extest cells) := fun _ => ⟨nofun, nofun⟩
theorem clamp : Statement (.clamp) := fun _ => ⟨nofun, nofun⟩
theorem highz : Statement (.highz) := fun _ => ⟨nofun, nofun⟩
theorem debugUnlockToken (sig : BitVec 768) (nonce : BitVec 256) : Statement (.debugUnlockToken sig nonce) := fun _ => ⟨nofun, nofun⟩
theorem epochBoundary (r : EpochReadings) : Statement (.epochBoundary r) := fun h => ⟨nofun, by simpa [Instr.lists, Instr.wf, EpochReadings.wf, StartupReport.wf, and_assoc] using h⟩
theorem pwrSetAbsolute (orig : Orig) (val : Lane) : Statement (.pwrSetAbsolute orig val) := fun _ => ⟨nofun, nofun⟩
theorem pwrSetRelative (orig : Orig) (val : Lane) : Statement (.pwrSetRelative orig val) := fun _ => ⟨nofun, nofun⟩
theorem powerSample (watts : BitVec 16) : Statement (.powerSample watts) := fun _ => ⟨nofun, nofun⟩
theorem dutyPeriod (f : Fin 8) : Statement (.dutyPeriod f) := fun _ => ⟨nofun, nofun⟩
theorem shedAssert : Statement (.shedAssert) := fun _ => ⟨nofun, nofun⟩
theorem shedRelease : Statement (.shedRelease) := fun _ => ⟨nofun, nofun⟩
theorem throtAssert : Statement (.throtAssert) := fun _ => ⟨nofun, nofun⟩
theorem throtRelease : Statement (.throtRelease) := fun _ => ⟨nofun, nofun⟩
theorem thermalSample (temps : List (BitVec 16)) : Statement (.thermalSample temps) := fun h => ⟨nofun, by simpa [Instr.lists, Instr.wf, EpochReadings.wf, StartupReport.wf, and_assoc] using h⟩
theorem regulatorFault (rail : Byte) (status : BitVec 16) : Statement (.regulatorFault rail status) := fun _ => ⟨nofun, nofun⟩
theorem railOutOfWindow (rail : Byte) : Statement (.railOutOfWindow rail) := fun _ => ⟨nofun, nofun⟩
theorem fwWrite (orig : Orig) (val : Lane) : Statement (.fwWrite orig val) := fun _ => ⟨nofun, nofun⟩
theorem fwWriteComplete (flashOk : Bool) : Statement (.fwWriteComplete flashOk) := fun _ => ⟨nofun, nofun⟩
theorem activate (orig : Orig) (val : Lane) : Statement (.activate orig val) := fun _ => ⟨nofun, nofun⟩
theorem confirm (orig : Orig) (val : Lane) : Statement (.confirm orig val) := fun _ => ⟨nofun, nofun⟩
theorem restart (orig : Orig) (val : Lane) : Statement (.restart orig val) := fun _ => ⟨nofun, nofun⟩
theorem watchdogTimeout : Statement (.watchdogTimeout) := fun _ => ⟨nofun, nofun⟩
theorem recalibrate (orig : Orig) (val : Lane) : Statement (.recalibrate orig val) := fun _ => ⟨nofun, nofun⟩
theorem recalComplete (dev : Fin 12) (ok : Bool) : Statement (.recalComplete dev ok) := fun _ => ⟨nofun, nofun⟩
theorem packageReset (orig : Orig) (val : Lane) : Statement (.packageReset orig val) := fun _ => ⟨nofun, nofun⟩
theorem quadrantReset (orig : Orig) (val : Lane) : Statement (.quadrantReset orig val) := fun _ => ⟨nofun, nofun⟩
theorem powerOn : Statement (.powerOn) := fun _ => ⟨nofun, nofun⟩
theorem powerLoss : Statement (.powerLoss) := fun _ => ⟨nofun, nofun⟩
theorem perstAssert : Statement (.perstAssert) := fun _ => ⟨nofun, nofun⟩
theorem perstRelease : Statement (.perstRelease) := fun _ => ⟨nofun, nofun⟩
theorem hostLinkReset : Statement (.hostLinkReset) := fun _ => ⟨nofun, nofun⟩
theorem pfFlr : Statement (.pfFlr) := fun _ => ⟨nofun, nofun⟩
theorem vfFlr (v : Fin 32) : Statement (.vfFlr v) := fun _ => ⟨nofun, nofun⟩
theorem startupStepComplete (r : StartupReport) : Statement (.startupStepComplete r) := fun h => ⟨nofun, by simpa [Instr.lists, Instr.wf, EpochReadings.wf, StartupReport.wf, and_assoc] using h⟩
theorem refclkLoss (clk : RefClk) : Statement (.refclkLoss clk) := fun _ => ⟨nofun, nofun⟩
theorem mctpControl (path : MsgPath) (command : Byte) : Statement (.mctpControl path command) := fun _ => ⟨nofun, nofun⟩
theorem mctpRegisterRead (path : MsgPath) (off : BitVec 25) : Statement (.mctpRegisterRead path off) := fun h => ⟨by simpa [Instr.offsets, Instr.wf, offOk] using h, nofun⟩
theorem mctpRegisterWrite (path : MsgPath) (off : BitVec 25) (val : Lane) : Statement (.mctpRegisterWrite path off val) := fun h => ⟨by simpa [Instr.offsets, Instr.wf, offOk] using h, nofun⟩
theorem mctpLogRead (path : MsgPath) (seq : BitVec 32) : Statement (.mctpLogRead path seq) := fun _ => ⟨nofun, nofun⟩
theorem mctpTelemetryRead (path : MsgPath) : Statement (.mctpTelemetryRead path) := fun _ => ⟨nofun, nofun⟩
theorem atsInvalidationRequest (addr : Dword) (size : Dword) : Statement (.atsInvalidationRequest addr size) := fun _ => ⟨nofun, nofun⟩
theorem prbsCheckerLock (lane : Fin 512) (errs : BitVec 32) (kbits : BitVec 32) (relock : Bool) : Statement (.prbsCheckerLock lane errs kbits relock) := fun _ => ⟨nofun, nofun⟩
theorem ingestUnitFault : Statement (.ingestUnitFault) := fun _ => ⟨nofun, nofun⟩
theorem managementResetComplete : Statement (.managementResetComplete) := fun _ => ⟨nofun, nofun⟩
theorem startupRailTimeout (rail : Byte) : Statement (.startupRailTimeout rail) := fun _ => ⟨nofun, nofun⟩

end Sys2Proof.Laws.WellTyped
end

