-- ==== Sys2Proof/Tests/Small.lean ====
section
/-! SUPPORT. Small states on which the tests stand: a package in service, a section image of a few steps, a
quadrant that runs it. -/

set_option Elab.async false

namespace Sys2Proof.Tests

open Sys2Proof Sys2Proof.Machine Sys2Proof.Safety

/-- A section image: n of its header fields at their offsets, the step table at 256, and one more segment k behind it. -/
def image (steps : List Nat) (k : Nat := 6) (seg : List Byte := []) : List Byte :=
  leBytes 0x28 0 ++ leBytes 0x58 steps.length ++
    (List.range 16).flatMap (fun i => if i = 0 then leBytes 4 256 ++ leBytes 4 (16 * steps.length)
      else if i = k then leBytes 4 (256 + 16 * steps.length) ++ leBytes 4 seg.length else leBytes 8 0) ++
    steps.flatMap (leBytes 16) ++ seg

/-- A section with an image. -/
def sect (b : List Byte) : Section := ⟨0, b, [], false, [], 0, []⟩

/-- A command at the beginning of its run. -/
def cmd0 : Cmd := ⟨7, true, [], none, none, none, [], [], [], 0, none⟩

/-- A step with its opcode, duration and further bits, which starts no unit program (R160). -/
def stp (op dur rest : Nat) : Nat := op * 2 ^ 122 + dur * 2 ^ 98 + 0x1FF * 2 ^ 84 + rest

/-- The package in service: start-up is complete. -/
def ready : State := State.reset.set F.mgtStartStat_ready 1

/-- Quadrant 0 runs a command c of slot 0 with a section. -/
def runs (c : Cmd) (b : List Byte) : State :=
  ready.modQuad 0 fun x => { x with committed := some (sect b), cur := some 0, slots := [(0, { Slot.init with cmd := some c })] }

/-- Quadrant 0 holds a section and nothing runs. -/
def holds (b : List Byte) : State := ready.modQuad 0 fun x => { x with committed := some (sect b) }

/-- A number handed on when it has been computed, so that the kernel carries no long expression along. -/
def strict (n : Nat) (k : Nat → Nat) : Nat := Nat.rec (k 0) (fun m _ => k (m + 1)) n

/-- The CRC-64 with its register as a number. -/
def crcS : Nat → List Byte → Nat
  | c, [] => c
  | c, b :: l => strict (crcByte (BitVec.ofNat 64 c) b).toNat fun d => crcS d l

theorem crcS_foldl (l : List Byte) : ∀ c, c < 2 ^ 64 → crcS c l = (l.foldl crcByte (BitVec.ofNat 64 c)).toNat := by
  induction l with
  | nil => intro c h; exact (Nat.mod_eq_of_lt h).symm
  | cons b l ih =>
    intro c h
    have : ∀ n (k : Nat → Nat), strict n k = k n := by intro n k; cases n <;> rfl
    rw [crcS, this, ih _ (BitVec.isLt _), BitVec.ofNat_toNat, BitVec.setWidth_eq, List.foldl_cons]

theorem crc64_crcS (l : List Byte) : (crc64 l).toNat = crcS 0 l := (crcS_foldl l 0 (by decide)).symm

/-- What holds of quadrant 0 and of a quadrant at its reset holds of every quadrant, where only quadrant 0 is listed. -/
theorem all_quads (P : Quad → Prop) (s : State) (h : s.quads = [(0, s.quad 0)]) (h0 : P (s.quad 0)) (hi : P Quad.init) (k : Nat) :
    P (s.quad k) := by
  have hk : s.quad k = if 0 = k then s.quad 0 else Quad.init := by
    rw [State.quad, h]
    exact nget_cons _ _ _ _
  rw [hk]
  split
  · exact h0
  · exact hi

end Sys2Proof.Tests
end

