-- ==== Sys2Proof/Tests/Slice0.lean ====
section
/-! SUPPORT. Tests on fixed values: well-formedness, and the spec's worked examples. Expected values come from the spec's text. -/

set_option Elab.async false

namespace Sys2Proof.Tests

open Sys2Proof Sys2Proof.Machine Sys2Proof.Safety

/-! ## Well-formedness: one ill-formed term for each check -/

theorem test_wf_register_write : (Instr.registerWrite 6 .pf 0 none).wf = false ∧ (Instr.registerWrite 4 .pf 0 none).wf = true := by decide
theorem test_wf_wide_low_read : (Instr.wideLowRead 1 .pf).wf = false ∧ (Instr.wideLowRead 8 .pf).wf = true := by decide
theorem test_wf_mctp_read : (Instr.mctpRegisterRead .pcie 2).wf = false ∧ (Instr.mctpRegisterRead .i3c 0x1FFFFFC).wf = true := by decide
theorem test_wf_mctp_write : (Instr.mctpRegisterWrite .i3c 3 1).wf = false ∧ (Instr.mctpRegisterWrite .pcie 0 1).wf = true := by decide

def noReadings : EpochReadings := ⟨[], [], [], [], [], 0⟩

theorem test_wf_epoch : (Instr.epochBoundary noReadings).wf = true ∧
    (Instr.epochBoundary { noReadings with laser := List.replicate 513 0 }).wf = false ∧
    (Instr.epochBoundary { noReadings with optics := List.replicate 513 (0, 0) }).wf = false ∧
    (Instr.epochBoundary { noReadings with orl := List.replicate 65 0 }).wf = false ∧
    (Instr.epochBoundary { noReadings with stkErr := List.replicate 13 0 }).wf = false ∧
    (Instr.epochBoundary { noReadings with facetUj := List.replicate 9 0 }).wf = false := by decide +kernel

def noReport : StartupReport := ⟨[], [], [], false, [], []⟩

theorem test_wf_startup : (Instr.startupStepComplete noReport).wf = true ∧
    (Instr.startupStepComplete { noReport with farFrames := List.replicate 9 0 }).wf = false ∧
    (Instr.startupStepComplete { noReport with spareRows := List.replicate 9 0 }).wf = false := by decide +kernel

theorem test_wf_thermal : (Instr.thermalSample (List.replicate 22 0)).wf = true ∧ (Instr.thermalSample (List.replicate 23 0)).wf = false := by
  decide +kernel

theorem test_wf_codeword : (Instr.codewordReceive 0 (some (0, List.replicate 10 0)) 0).wf = true ∧
    (Instr.codewordReceive 0 (some (0, List.replicate 9 0)) 0).wf = false ∧ (Instr.codewordReceive 0 none 0).wf = true := by
  decide +kernel

/-- The table gives no row bits, so no word spells a command. -/
theorem test_no_word_spells (n w : Nat) : decodeTableWord n w = none ∧ State.reset.withFetchWord n w = State.reset := ⟨rfl, rfl⟩

/-! ## Arithmetic -/

/-- R116: infinity to E4M3 is NaN with OF and NX, or the largest value when saturating; to FP16 it stays infinity. -/
theorem test_cvt_infinity :
    opCvt ⟨.fp32, .e4m3, false, false⟩ 0x7F800000 = (0x7F, flagOF ||| flagNX) ∧
    (opCvt ⟨.fp32, .e4m3, false, true⟩ 0x7F800000).1 = 0x7E ∧
    opCvt ⟨.fp32, .fp16, false, false⟩ 0x7F800000 = (0x7C00, 0) := by decide +kernel

/-- The worked addition of the arithmetic chapter: 24,576 + 37 × 2^-12, truncated, without a flag. -/
theorem test_array_addition :
    scaledBlock 37 0x76 0x7C = (0x3C140000, 0) ∧ accAdd 0x46C00000 0x3C140000 = (0x46C00004, 0) := by decide +kernel

/-- R304's example: largest magnitude 3.25 to INT4 takes b = 0x7E; 3.25 becomes 6, -1.25 becomes -2, 0.75 becomes 2. -/
theorem test_quantise_group : quantGroup 7 4 [0x4050, 0xBFA0, 0x3F40] = some (0x7E, [6, 14, 2]) := by decide +kernel

/-! ## The package -/

/-- Routes of R41: D-facet 1 to W-facet 6 over S2 and S3, rim N to W-facet 7 over S1, S4 and S7. -/
theorem test_routes : seamPath 0 6 10 1 = [2, 3] ∧ seamPath 0 7 10 8 = [1, 4, 7] := by decide +kernel

/-- A register's offset in the index: SEQ_PC of context slot 2 of quadrant 5. -/
theorem test_register_offset : (F.seqPc_step 5 2).key / 64 = 0x1140448 := by decide +kernel

/-! ## A speculative decode step (the request engine's worked example) -/

def decodeEntry (stop : Nat) (hist : List Lane) : ReqEntry :=
  { ReqEntry.init with desc := 500 * 2 ^ 224, stop := stop, written := 101, tokens := hist }

/-- One stop sequence, (5311, 88). -/
def stopPair : Nat := 5311 * 2 ^ 512 + 88 * 2 ^ 544 + 2 * 2 ^ 1544

/-- Tokens 88, 902 and 4077 at 1201 without a stop are all written. -/
theorem test_emit_without_stop :
    (stopScan (decodeEntry 0 [5311]) [(88, 0), (902, 0), (4077, 0)] 1201 101 [5311]).1.map (fun e => (e.1.toNat, e.2.1)) =
        [(88, 1201), (902, 1202), (4077, 1203)] ∧
      (stopScan (decodeEntry 0 [5311]) [(88, 0), (902, 0), (4077, 0)] 1201 101 [5311]).2.2 = none := by decide +kernel

/-- With the stop sequence nothing is written, the cause is 2 and stop_pos is 1200. -/
theorem test_emit_with_stop :
    (stopScan (decodeEntry stopPair [5311]) [(88, 0), (902, 0), (4077, 0)] 1201 101 [5311]).1 = [] ∧
      (stopScan (decodeEntry stopPair [5311]) [(88, 0), (902, 0), (4077, 0)] 1201 101 [5311]).2.2 = some (2, 1200) := by decide +kernel

/-! ## Following a dispatch signal (the management chapter's worked example) -/

/-- cmd falls by the ramp of 200 W per epoch from 2,800 W to the target of 1,800 W and stays there. -/
theorem test_dispatch_ramp :
    let m : Mgmt := { State.reset.mgmt with follow := true, ramp := 200, target := 1800, cmd := 2800 }
    let next := fun (m : Mgmt) => m.command false 2400
    [(next m).cmd, (next (next m)).cmd, (next (next (next (next (next m))))).cmd, (next (next (next (next (next (next m)))))).cmd] =
      [2600, 2400, 1800, 1800] := by decide +kernel

/-! ## Single steps -/

/-- 1.5 + 2.25 in FP32, then a lane that saturates in INT32 (R110). -/
theorem test_add : opAdd ⟨.fp32, .fp32, false, false⟩ 0x3FC00000 0x40100000 = (0x40700000, 0) ∧
    (satAdd 0x7FFFFFFF 1).1 = 0x7FFFFFFF ∧ (satSub 0x80000000 1).1 = 0x80000000 := by decide +kernel

/-- Comparisons with a NaN are false but for NE (R119), and the minimum of zeros is +0 (R120). -/
theorem test_compare_min :
    (opCmp 0 false .fp32 0x7FC00000 0x7FC00000).1 = 0 ∧ (opCmp 1 false .fp32 0x7FC00000 0x7FC00000).1 = 0xFFFFFFFF ∧
      (opMinMax false ⟨.fp32, .fp32, false, false⟩ 0x80000000 0x00000000).1 = 0 := by decide +kernel

/-- The command at the front is taken from the front of the queue, and the rest stays. -/
theorem test_step_takes_the_front :
    step { State.reset with pending := [.perstRelease, .perstAssert] } =
      exec .perstRelease { State.reset with pending := [.perstAssert] } := rfl

end Sys2Proof.Tests
end

