-- ==== Sys2Proof/Tests/Witness1.lean ====
section
/-! SUPPORT. Witnesses: states and operands that meet the hypotheses of the statements about the lattice, the sequencer, sections
and functions together, clause by clause. -/

set_option Elab.async false

namespace Sys2Proof.Tests

open Sys2Proof Sys2Proof.Machine Sys2Proof.Safety

theorem witness_EmptyQueueWaits : State.reset.pending = [] ∧ ({ State.reset with ticks := 24999 } : State).pending = [] := by decide

theorem witness_StepKeepsMemoryCanonical :
    let s : State := { State.reset with mem := [(1, 2), (5, 6)] }
    MemOk s ∧ step s = .next s.idleTick := ⟨by unfold MemOk; decide, rfl⟩

/-- SalArithmetic, SalMemory and SalPorts, at the first and the last sector site of a D-quadrant: a word without a wrong lane. -/
theorem witness_SalArithmetic_SalMemory_SalPorts :
    let s := runs cmd0 (image [stp 1 4 0, stp 3 4 0])
    HasSector s 0 0 ∧ HasSector s 0 131 ∧ ((s.quad 0).lat.sector 0).corrected 4095 = [] ∧
      ((s.quad 0).lat.sector 0).isBad 4095 = false := by
  unfold HasSector Still
  decide +kernel

theorem witness_SalControl :
    let r : SalRun := ⟨0, 0, none, 0, 64⟩
    let s := (runs cmd0 (image [stp 1 4 0, stp 3 4 0])).modQuad 0 fun x =>
      { x with lat := x.lat.setSector 0 { Sector.init with prog := some r } }
    HasSector s 0 0 ∧ ((s.quad 0).lat.sector 0).prog = some r ∧ 1 ≤ (1 : BitVec 14).toNat := by
  unfold HasSector Still
  decide +kernel

/-- A micro-operation of each kind, at prism site 1, entry 0. -/
theorem witness_FiringsRunOut :
    let s := fun (u : Nat) => runs cmd0 (image [stp 1 4 0, stp 3 4 0] 3 (leBytes 16 u))
    let w := fun (u : Nat) => secUop 0 ((s u).image 0) 1 0
    let a := 2 ^ 124 + 0x1FF * 64
    let st := fun (op : Nat) => 4 * 2 ^ 124 + op * 2 ^ 49
    (∀ u ∈ [a, 2 * 2 ^ 124, 3 * 2 ^ 124, st 0, st 1, st 2, st 3], (s u).runsUnits 0 = true ∧ isPrism 0 1 = true ∧
      (((s u).quad 0).lat.prism 1).working = false) ∧
    (Uop.kind (w a) = 1 ∧ Uop.readout (w a) = 0x1FF) ∧ Uop.kind (w (2 * 2 ^ 124)) = 2 ∧ Uop.kind (w (3 * 2 ^ 124)) = 3 ∧
    ∀ op < 4, Uop.kind (w (st op)) = 4 ∧ Uop.statOp (w (st op)) = op := by
  decide +kernel

/-- RUN without a descriptor and with one that is not timed. -/
theorem witness_RunTakesItsDuration :
    let s := fun (rest : Nat) => runs cmd0 (image [stp 1 4 rest, stp 3 4 0])
    let d := s (2 ^ 71)
    let w := d.stepOf 0 0
    (∀ r ∈ [0, 2 ^ 71], AtStep (s r) 0 0 cmd0 ∧ NoUnits ((s r).stepOf 0 0) ∧ Step.op ((s r).stepOf 0 0) = 0x01 ∧
      (s r).get (F.seqPc_step 0 0) + 1 < imgNsteps ((s r).image 0)) ∧
    Step.descEn ((s 0).stepOf 0 0) = false ∧ Step.descEn w = true ∧ (d.quad 0).freeDesc = some 0 ∧
      d.isTimed 0 (d.descBits 0 (Step.runDesc w)) (isTransfer 0 (d.image 0) w) = false := by
  unfold AtStep NoUnits
  decide +kernel

/-- LOOP with an immediate count, on its last pass, and with a shape register at its bound; END. -/
theorem witness_LoopAndEnd :
    let at_ := fun (s : State) (c : Cmd) => AtStep s 0 0 c ∧ NoUnits (s.stepOf 0 0)
    let c1 := { cmd0 with loops := [(0, 1)] }
    let s1 := runs cmd0 (image [stp 2 4 (3 * 2 ^ 27), stp 3 4 0])
    let s2 := runs c1 (image [stp 2 4 (3 * 2 ^ 27), stp 3 4 0])
    let s3 := (runs cmd0 (image [stp 2 4 (2 ^ 54 + 3 * 2 ^ 27), stp 3 4 0])).set (F.seqShape_value 0 0 0) 3
    let s4 := runs cmd0 (image [stp 3 4 0])
    (at_ s1 cmd0 ∧ Step.op (s1.stepOf 0 0) = 2 ∧ 0 < imgNsteps (s1.image 0)) ∧
    (at_ s2 c1 ∧ Step.op (s2.stepOf 0 0) = 2 ∧ 1 < imgNsteps (s2.image 0)) ∧
    (at_ s3 cmd0 ∧ Step.countSrc (s3.stepOf 0 0) = true ∧ s3.shapeOf 0 0 (Step.loopShreg (s3.stepOf 0 0)) = 3 ∧
      Step.count (s3.stepOf 0 0) = 3) ∧
    (at_ s4 cmd0 ∧ Step.op (s4.stepOf 0 0) = 3 ∧ s4.consumerGroups 0 (s4.image 0) cmd0 = [] ∧ s4.flying 0 = false) := by
  unfold AtStep NoUnits
  decide +kernel

theorem witness_DataSteps_wadv :
    let win : Win := ⟨0, false, 0, 1, 0, 0, 0, 4094, []⟩
    let c := { cmd0 with windows := [(0, some win)] }
    let s := runs c (image [stp 0x11 4 (2 ^ 61), stp 3 4 0])
    AtStep s 0 0 c ∧ NoUnits (s.stepOf 0 0) ∧ 1 < imgNsteps (s.image 0) ∧ Step.op (s.stepOf 0 0) = 0x11 ∧
      nget c.windows none (Step.window (s.stepOf 0 0)) = some win ∧ win.pos + Step.layers (s.stepOf 0 0) < 2 ^ 12 := by
  unfold AtStep NoUnits
  decide +kernel

/-- DMARK, SEND, and SHRD of a sector word. -/
theorem witness_DataSteps_local :
    let at_ := fun (s : State) => AtStep s 0 0 cmd0 ∧ NoUnits (s.stepOf 0 0) ∧ 1 < imgNsteps (s.image 0)
    let s2 := (runs cmd0 (image [stp 0x12 4 0, stp 3 4 0])).set (F.seqDigCfg_en 0) 1
    let s3 := runs cmd0 (image [stp 0x13 8 0, stp 3 4 0])
    let s4 := runs cmd0 (image [stp 0x10 4 (2 ^ 32), stp 3 4 0])
    (at_ s2 ∧ Step.op (s2.stepOf 0 0) = 0x12 ∧ s2.on (F.seqDigCfg_en 0) = true ∧ (s2.quad 0).digQueue.length < 64) ∧
    (at_ s3 ∧ Step.op (s3.stepOf 0 0) = 0x13 ∧ Step.src (s3.stepOf 0 0) = false ∧ ((s3.quad 0).lat.sector 0).isBad 0 = false ∧
      Step.lo (s3.stepOf 0 0) = 0 ∧ (((s3.quad 0).lat.sector 0).laneOf 0 0).toNat = 0 ∧ Step.hi (s3.stepOf 0 0) = 0) ∧
    (at_ s4 ∧ Step.op (s4.stepOf 0 0) = 0x10 ∧ Step.remote (s4.stepOf 0 0) = false ∧ (s4.quad 0).freeDesc = some 0) := by
  unfold AtStep NoUnits
  decide +kernel

/-- SHRD of the base tier's word 64, 77, in a page of partition 3 that the section pins. -/
theorem witness_DataSteps_base :
    let b := image [stp 0x13 8 (2 ^ 71 + 16 * 2 ^ 36 + 2 ^ 12 * 100), stp 3 4 0]
    let page : Pte := 2 ^ 63 + 3 * 2 ^ 57
    let s := (((((runs cmd0 b).modQuad 0 fun x => { x with committed := some { sect b with pins := [(0, page)], held := true } }).set
      (F.seqSlotCtx_bound 0 0) 1).set (F.seqSlotCtx_ctx 0 0) 5).set (F.mgtCtxCfg_part 5) 3).rawWrite 0 0 64 [77]
    let w := s.stepOf 0 0
    AtStep s 0 0 cmd0 ∧ NoUnits w ∧ Step.op w = 0x13 ∧ Step.src w = true ∧ Step.address w * 4 = 64 ∧
      (Pte.valid page = true ∧ Pte.unit page = 0 ∧ Pte.frame page = 0 ∧ s.slotPart 0 0 = some (Pte.part page)) ∧
      s.wordBad 0 0 64 = false ∧ Step.lo w ≤ 77 ∧ 77 ≤ Step.hi w ∧
      leNat ((List.range 4).map fun j => s.frameByte 0 0 (64 + j) 3) = 77 := by
  unfold AtStep NoUnits
  decide +kernel

theorem noRemote_runs (c : Cmd) (b : List Byte) : NoRemote (runs c b) := by
  refine ⟨rfl, fun q i d h => ?_⟩
  have : (runs c b).quad q = (if 0 = q then _ else Quad.init) := nget_cons _ _ _ _
  rw [this] at h
  split at h <;> cases h

/-- Each gate with its condition true. -/
theorem witness_GatesPass_weight :
    let at_ := fun (s : State) (c : Cmd) => AtStep s 0 0 c ∧ NoUnits (s.stepOf 0 0) ∧ c.passed = none ∧ 1 < imgNsteps (s.image 0) ∧
      s.gateReady 0 0 (s.stepOf 0 0) c = true
    let gate := fun (k rest : Nat) => image [stp 8 4 (k * 2 ^ 68 + rest), stp 3 4 0]
    let kind := fun (s : State) => (Step.op (s.stepOf 0 0), Step.kind (s.stepOf 0 0))
    let c1 := { cmd0 with windows := [(0, some ⟨0, true, 0, 1, 0, 0, 0, 0, [0]⟩)] }
    let s1 := (((runs c1 (gate 1 0)).set (F.seqSlotCtx_bound 0 0) 1).setBind 0 { Bind.init with n := 1 }).modQuad 0 fun x =>
      { x with committed := some { sect (gate 1 0) with pins := [(0, 0)] } }
    at_ s1 c1 ∧ kind s1 = (8, 1) := by
  unfold AtStep NoUnits
  decide +kernel

theorem witness_GatesPass_kinds :
    let at_ := fun (s : State) (c : Cmd) => AtStep s 0 0 c ∧ NoUnits (s.stepOf 0 0) ∧ c.passed = none ∧ 1 < imgNsteps (s.image 0) ∧
      s.gateReady 0 0 (s.stepOf 0 0) c = true ∧ (s.quad 0).lat.edgeOver = []
    let gate := fun (k rest : Nat) => image [stp 8 4 (k * 2 ^ 68 + rest), stp 3 4 0]
    let kind := fun (s : State) => (Step.op (s.stepOf 0 0), Step.kind (s.stepOf 0 0))
    let s3 := (runs cmd0 (gate 3 (2 ^ 53))).modQuad 0 fun x => { x with lat := { x.lat with edgeQ := [(0, [⟨[1], false⟩])] } }
    let s4 := ((runs cmd0 (gate 4 0)).set (F.reqGrpStat_state 0) 1).setGroup 0 { Group.init with batches := [⟨0, [], false⟩] }
    let s5 := (runs cmd0 (gate 5 0)).set (F.seqMbox_value 0 0) 1
    ∀ e ∈ [(2, runs cmd0 (gate 2 0)), (3, s3), (4, s4), (5, s5)], at_ e.2 cmd0 ∧ kind e.2 = (8, e.1) := by
  unfold AtStep NoUnits
  decide +kernel

theorem witness_GatesPass_steps :
    let at_ := fun (s : State) (c : Cmd) => AtStep s 0 0 c ∧ NoUnits (s.stepOf 0 0) ∧ c.passed = none ∧ 1 < imgNsteps (s.image 0) ∧
      s.gateReady 0 0 (s.stepOf 0 0) c = true
    let s6 := (runs cmd0 (image [stp 9 4 0, stp 3 4 0])).modQuad 0 fun x => { x with chanArr := [(0, 1)] }
    let s7 := runs cmd0 (image [stp 10 4 0, stp 3 4 0])
    (at_ s6 cmd0 ∧ Step.op (s6.stepOf 0 0) = 9) ∧ (at_ s7 cmd0 ∧ Step.op (s7.stepOf 0 0) = 10) := by
  unfold AtStep NoUnits
  decide +kernel

/-- A gate that begins to hold, two that are ready, one that is not; a hold of limit 100 µs over by the clock, over by its fc, and
not over. -/
theorem witness_GateHolds :
    let at_ := fun (s : State) (c : Cmd) => s.partner 0 = none ∧ s.stepping 0 = some 0 ∧ s.cmdOf 0 0 = some c ∧ c.ending = none ∧
      Resting (s.quad 0) ∧ NoUnits (s.stepOf 0 0)
    let gate := fun (k : Nat) => image [stp 8 4 (k * 2 ^ 68), stp 3 4 0]
    let h : Hold := ⟨5, 2, 0, 100⟩
    let c1 := { cmd0 with hold := some h }
    let c2 := { cmd0 with hold := some ⟨2, 2, 0, 100⟩ }
    let s1 := runs cmd0 (gate 5)
    let s2 := (runs c1 (gate 5)).set (F.seqMbox_value 0 0) 1
    let s3 := runs c2 (gate 2)
    let s4 := runs c1 (gate 5)
    (at_ s1 cmd0 ∧ cmd0.hold = none ∧ cmd0.passed = none ∧ s1.gateReady 0 0 (s1.stepOf 0 0) cmd0 = false) ∧
    (∀ e ∈ [(s2, c1), (s3, c2)], at_ e.1 e.2 ∧ e.1.gateReady 0 0 (e.1.stepOf 0 0) e.2 = true ∧
      e.1.gateError 0 0 (e.1.stepOf 0 0) e.2 = none ∧ 1 < imgNsteps (e.1.image 0) ∧
      (e.2.hold.map (·.kind)) = some (Step.index (e.1.stepOf 0 0)) ∧ h.fc ≤ (2 : BitVec 32).toNat) ∧
    (at_ s4 c1 ∧ s4.gateReady 0 0 (s4.stepOf 0 0) c1 = false ∧ s4.gateError 0 0 (s4.stepOf 0 0) c1 = none ∧ 0 < h.limit ∧
      25 * h.limit ≤ ({ s4 with ticks := 2500 } : State).timer - h.since ∧ h.limit * s4.fcPerUs 0 ≤ (2000000 : BitVec 32).toNat ∧
      s4.shedding = false ∧ (s4.timer - h.since < 25 * h.limit ∧ (2 : BitVec 32).toNat < h.limit * s4.fcPerUs 0) ∧
      s4.consumerGroups 0 (s4.image 0) c1 = [] ∧ s4.flying 0 = false) := by
  unfold Resting NoUnits
  decide +kernel

/-- A ready slot, a slot at a closed gate, no slot with a command, and a slot whose queue has an entry. -/
theorem witness_WheelGivesTheQuadrant :
    let due := fun (s : State) => s.modQuad 0 fun x => { x with due := true }
    let s1 := due (runs cmd0 (image [stp 3 4 0]))
    let s2 := due (runs cmd0 (image [stp 8 4 (5 * 2 ^ 68), stp 3 4 0]))
    let s3 := (holds (image [stp 3 4 0])).modQuad 0 fun x => { x with cur := some 0, due := true }
    let s4 := (s3.modQuad 0 fun x => { x with slots := [(0, { Slot.init with queue := [7 * 2 ^ 32 + 2 ^ 31] })] }).set
      (F.seqSlotCtx_bound 0 0) 1
    let scanOf := fun (s : State) => scan (s.wheelRegs 0) (s.quad 0).wheelLast
    (∀ s ∈ [s1, s2, s3, s4], s.partner 0 = none ∧ (s.quad 0).committed.isSome = true ∧ (s.quad 0).pre = none ∧
      s.on (F.seqFnCtl_busy 0) = false ∧ (s.quad 0).cur = some 0 ∧ (s.quad 0).due = true ∧ s.claims 0 = []) ∧
    ((scanOf s1).find? (fun e => s1.slotReady [0] e.2) = some (0, 0) ∧ (s1.cmdOf 0 0).isSome = true ∧
      s1.get (F.seqPc_step 0 0) < imgNsteps (s1.image 0)) ∧
    ((scanOf s2).find? (fun e => s2.slotReady [0] e.2) = none ∧
      (scanOf s2).find? (fun e => (s2.cmdOf 0 e.2).isSome) = some (0, 0)) ∧
    (scanOf s3).find? (fun e => s3.slotReady [0] e.2) = none ∧
    ((scanOf s4).find? (fun e => s4.slotReady [0] e.2) = some (0, 0) ∧ s4.cmdOf 0 0 = none ∧
      ((s4.quad 0).slot 0).queue = [7 * 2 ^ 32 + 2 ^ 31] ∧ s4.flagStop 0 0 = false ∧
      ∀ w, w < 8 → s4.on (F.ingWinCfg_en (winEntry 0 0 w)) = false) := by
  decide +kernel

/-- Slot 0 stands at a closed gate: slot 1 is ready, slot 0 is ready again, and none is. -/
theorem witness_WheelGivesTheQuadrant_held :
    let held := { cmd0 with hold := some ⟨5, 2, 0, 0⟩ }
    let s3 := (runs held (image [stp 8 4 (5 * 2 ^ 68), stp 3 4 0])).set (F.seqPc_held 0 0) 1
    let s2 := s3.set (F.seqMbox_value 0 0) 1
    let s1 := ((s3.modQuad 0 fun x => { x with slots := x.slots ++ [(1, { Slot.init with cmd := some cmd0 })] }).set
      (F.seqPc_step 0 1) 1).set (F.seqWheel0_pos0_7 0) 0x98
    let first := fun (s : State) => (scan (s.wheelRegs 0) (s.quad 0).wheelLast).find? fun e => s.slotReady [0] e.2
    (∀ s ∈ [s1, s2, s3], s.partner 0 = none ∧ (s.quad 0).committed.isSome = true ∧ (s.quad 0).pre = none ∧
      s.on (F.seqFnCtl_busy 0) = false ∧ (s.quad 0).cur = some 0 ∧ (s.quad 0).due = false ∧ s.claims 0 = [] ∧
      s.isHeld 0 0 = true ∧ Resting (s.quad 0)) ∧
    ((first s1).map (·.2) = some 1 ∧ (s1.cmdOf 0 1).isSome = true ∧ s1.get (F.seqPc_step 0 1) < imgNsteps (s1.image 0)) ∧
    (first s2).map (·.2) = some 0 ∧ first s3 = none := by
  unfold Resting
  decide +kernel

theorem witness_WheelGivesTheQuadrant_idle (n : Nat) :
    ((holds (image [stp 3 4 0])).modQuad 0 fun x => { x with cur := some 0, due := true }).cmdOf 0 n = none := rfl

/-- A load refused, a load begun, the end of a load, a commit, and a discard. -/
theorem witness_SectionLife :
    let own := ready.set (F.secQuadOwn_en 0) 1
    let s2 := ready.modQuad 0 fun x => { x with loading := some (0, []) }
    let s3 := (ready.modQuad 0 fun x => { x with shadow := some (sect (image [stp 3 4 0])) }).set (F.seqSecStat_shadow 0) 2
    let x := sect (image [stp 3 4 0])
    (∀ s ∈ [ready, own, s2, s3], s.active 0 = true ∧ s.mayWrite .pf (s.quadScope 0) = true) ∧
    vbit 0x80000000 31 = true ∧ vbit 0x40000000 30 = true ∧ vbit 0x20000000 29 = true ∧
    (∀ s ∈ [ready, own], (s.quad 0).scrub = none ∧ s.pairOf 0 0 = none) ∧ ready.loadRefusal 0 = some 0x2019 ∧ own.loadRefusal 0 = none ∧
    ((s2.quad 0).loading = some (0, []) ∧ pairIn 0 [] = none ∧ s2.loaderOf 0 = none ∧ ∀ i < 4, ∀ n < 8, s2.isHeld i n = false) ∧
    (s3.on (F.seqFnCtl_busy 0) = false ∧ s3.get (F.seqSecStat_shadow 0) = 2 ∧ s3.idle 0 = true ∧ s3.commitCheck 0 s3.idle = none ∧
      (s3.quad 0).shadow = some x ∧ imgPaired x.bytes = false ∧ imgHasSuccessor x.bytes = false ∧ (s3.quad 0).loading = none ∧
      s3.loaderOf 0 = none) := by
  decide +kernel

/-- The header of an image that names a pair with quadrant 1, whose image stands at 512. -/
def pairHead : List Byte :=
  leBytes 4 0x43455347 ++ [0, 0, 1, 1] ++ leBytes 4 5 ++ leBytes 4 512 ++ leBytes 16 0 ++ leBytes 8 512

/-- A load of a pair whose partner has no owner, and one with both owned by partition 0. -/
theorem witness_SectionLife_pair :
    let one := (((ready.set (F.secQuadOwn_en 0) 1).setPage 0 (2 ^ 63)).rawWrite 0 0 0 pairHead)
    let both := one.set (F.secQuadOwn_en 1) 1
    ∀ s ∈ [one, both], s.pairOf 0 0 = some (1, 512) ∧ s.loadRefusal 0 = none ∧ s.active 1 = true ∧ (s.quad 0).scrub = none ∧
      s.loadRefusal 1 = (if s.on (F.secQuadOwn_en 1) then none else some 0x2019) ∧ both.owner 1 = both.owner 0 := by
  decide +kernel

/-- SSW at step 0, to step 0 of the shadow. -/
def atSsw : State :=
  ((runs cmd0 (image [stp 11 32 0, stp 3 4 0])).modQuad 0 fun x => { x with shadow := some (sect (image [stp 3 4 0])) }).set
    (F.seqSecStat_shadow 0) 2

theorem witness_SectionSwitch :
    let s := atSsw
    let x := sect (image [stp 3 4 0])
    let w := s.stepOf 0 0
    AtStep s 0 0 cmd0 ∧ NoUnits w ∧ cmd0.passed = none ∧ Step.op w = 0x0B ∧ s.gateReady 0 0 w cmd0 = true ∧
      s.gateError 0 0 w cmd0 = none ∧ (s.quad 0).shadow = some x ∧ s.get (F.seqSecShadowId_shadow_id 0) = Step.sectionId w ∧
      imgPaired x.bytes = false ∧ imgHasSuccessor x.bytes = false ∧ s.commitCheckWith 0 (fun p => [0].contains p || s.idle p) [(0, x.bytes)] = none ∧
      Step.entry w < imgNsteps x.bytes ∧ 32 ≤ Step.dur w := by
  unfold AtStep NoUnits
  decide +kernel

theorem witness_SectionSwitch_descs (k : Nat) : (atSsw.quad k).descs = [] :=
  all_quads (·.descs = []) atSsw (by decide +kernel) rfl rfl k

/-- An install begun, one refused, one that ends with a bad image, and one whose image cannot be read. -/
theorem witness_FunctionInstall :
    let page : Pte := 2 ^ 63
    let s1 := (ready.set (F.secQuadOwn_en 0) 1).setPage 0 page
    let s2 := runs cmd0 (image [stp 3 4 0])
    let s3 := s1.modQuad 0 fun x => { x with fnAddr := some (0, 16) }
    let s4 := ready.modQuad 0 fun x => { x with fnAddr := some (0, 16) }
    (∀ s ∈ [s1, s2], s.active 0 = true ∧ s.mayWrite .pf (s.quadScope 0) = true ∧ s.on (F.seqFnCtl_busy 0) = false) ∧
    s1.idle 0 = true ∧ s2.idle 0 = false ∧
    ((s3.quad 0).fnAddr = some (0, 16) ∧ (∀ i < 4, (s3.quad i).deferred = []) ∧ s3.readable 0 512 (s3.owner 0) = true) ∧
    (s4.quad 0).fnAddr = some (0, 16) ∧ s4.readable 0 512 (s4.owner 0) = false := by
  decide +kernel

theorem witness_DigestRing :
    let e : DigestEntry := ⟨leBytes 32 5⟩
    let on := ready.set (F.seqDigCfg_en 0) 1
    let s := on.modQuad 0 fun x => { x with digQueue := [e] }
    (ready.active 0 = true ∧ ready.mayWrite .pf (ready.quadScope 0) = true ∧ ready.on (F.seqDigCfg_en 0) = false) ∧
      ((s.quad 0).digQueue = [e] ∧ s.on (F.seqDigCfg_en 0) = true) := by
  decide +kernel

end Sys2Proof.Tests
end

