-- ==== Sys2Proof/Tests/Witness2.lean ====
section
/-! SUPPORT. Witnesses of the statements about registers, messages, contexts, pre-emption, host queues and descriptors. -/

set_option Elab.async false

namespace Sys2Proof.Tests

open Sys2Proof Sys2Proof.Machine Sys2Proof.Safety

/-- Quadrant 0 is active; a lock and the write-once register; offsets without a register; a disabled quadrant. -/
theorem witness_RegisterWriteRules :
    let peer := ready.set F.secLock_peer 1
    let own := ready.set F.ownerWritten 1
    let off : State := { ready with fuses := { ready.fuses with dEn := 0 } }
    isPf .pf = true ∧ isPf .mc = true ∧ ready.active 0 = true ∧ ready.active 31 = true ∧
      ready.get (F.latNflag_flags 0 131) < 32 ∧ peer.on F.secLock_peer = true ∧ own.on F.ownerWritten = true ∧
      findReg 0x1FFFFFC = none ∧ findReg 0x6 = none ∧ findReg 0x1007F0 = none ∧ off.active 0 = false ∧ off.active 23 = false := by
  decide +kernel

/-- A register of the physical function, and the key slot of another partition. -/
theorem witness_DeniedWriteDropped :
    ((findReg 0x1000).isSome = true ∧ ready.mayWrite (.vf 0) (ready.scopeOf 0x1000) = false) ∧
      ((findReg 0x614104).isSome = true ∧ ready.mayWrite (.vf 0) (ready.scopeOf 0x614104) = false) ∧
      ready.mayWrite .tap (ready.scopeOf 0x1000) = false := by
  decide +kernel

theorem witness_WideReads : isPf .pf = true ∧ ready.mayRead (.vf 0) 0x2028 = false ∧ ready.mayRead .tap 0x1000000 = false := by
  decide +kernel

theorem witness_ManagementMessages :
    let s : State := { ready with log := [(0, List.replicate 64 0)] }
    let r : State := { ready with mgmt := { ready.mgmt with resetting := true } }
    s.answering = true ∧ byteField (nget s.log [] 0) 0 4 = 0 ∧ nget s.log [] 0 ≠ [] ∧ s.mgmt.off = false ∧
      s.mgmt.resetting = false ∧ r.mgmt.resetting = true ∧ MsgPath.pcie ≠ .chord ∧ MsgPath.i3c ≠ .chord := by
  decide +kernel

/-- Each outcome: locked; taken at the smallest and the largest geometry; dropped. -/
theorem witness_GeometryWrite :
    let locked := ready.set F.mgtGeom_locked 1
    let ok := fun (v : Lane) => decide (vbits v 7 0 ∈ [0, 0x18, 0x1C, 0x20]) && decide (vbits v 7 0 ≤ ready.activeCount) &&
      !(vbit v 31 && decide (vbits v 7 0 = 0))
    locked.on F.mgtGeom_locked = true ∧ ready.on F.mgtGeom_locked = false ∧ ok 0 = true ∧ ok 0x80000020 = true ∧
      ok 0x80000000 = false ∧ ok 0x21 = false := by
  decide +kernel

theorem witness_SnapshotsAndFlags :
    let busy := ready.set (F.latSnapCtl_busy 0) 1
    MayQuad ready .pf 0 ∧ vbit 3 0 = true ∧ busy.on (F.latSnapCtl_busy 0) = true ∧ ready.get (F.seqNflag_flags 0 7) < 32 ∧
      ready.cmdOf 0 7 = none := by
  unfold MayQuad
  decide +kernel

/-- Partition 3 owns quadrant 0; context 5 is of partition 3 and enabled; slot 7 is bound to it, and its queue is empty or full. -/
def shared : State :=
  ((((ready.set (F.secQuadOwn_en 0) 1).set (F.secQuadOwn_part 0) 3).set (F.mgtCtxCfg_en 5) 1).set (F.mgtCtxCfg_part 5) 3)

theorem witness_ContextsAndSlots :
    let v := BitVec.ofNat 32 (2 ^ 31 + 5)
    let b := (shared.set (F.seqSlotCtx_bound 0 7) 1).set (F.seqSlotCtx_ctx 0 7) 5
    let full := b.modQuad 0 fun x => { x with slots := [(7, { Slot.init with queue := List.replicate 16 0 })] }
    (ready.mayWrite .pf (.part (some (ready.get (F.mgtCtxCfg_part 5)))) = true ∧ ready.on (F.mgtCtxCfg_en 5) = false ∧ vbit v 31 = true) ∧
    (MayQuad shared .pf 0 ∧ (shared.quad 0).scrub = none ∧ shared.bindRefused 0 7 .pf true (vbits v 5 0) = false ∧
      shared.on (F.seqSlotCtx_bound 0 7) = false) ∧
    (∀ s ∈ [b, full], MayQuad s .pf 0 ∧ s.ctxOf 0 7 = some 5 ∧ s.on (F.mgtCtxCfg_ended 5) = false) ∧
    ((b.quad 0).slot 7).queue.length < 16 ∧ ¬ ((full.quad 0).slot 7).queue.length < 16 ∧ vbit 1 0 = true := by
  unfold MayQuad
  decide +kernel

/-- A small image that passes the checks of Table 55: one END step of a D-quadrant's section, section_id 9, with its digest. -/
def goodImage : List Byte :=
  leBytes 4 0x43455347 ++ leBytes 4 0x30 ++ leBytes 4 9 ++ leBytes 4 512 ++ leBytes 8 5314424058036393036 ++
    ((image [stp 3 4 0]).drop 0x18).take 248 ++ leBytes 240 0

theorem goodImage_digest : (crc64 (goodImage.drop 0x18)).toNat = 5314424058036393036 := by
  exact (crc64_crcS _).trans (by decide +kernel)

/-- An occupant as an area holds it. -/
def saved : Saved := ⟨⟨0, goodImage, [], true, [], 0, []⟩, false, 3, Lattice.init, [], [], [], [], [], [], [], [], 0⟩

/-- The image lies at address 0, in a page of partition 3. -/
def placed : State :=
  { shared.setPage 0 (2 ^ 63 + 3 * 2 ^ 57) with
    mem := [(0, 71), (1, 83), (2, 69), (3, 67), (4, 48), (8, 9), (13, 2), (16, 76), (17, 148), (18, 12), (19, 21), (20,
      134), (21, 160), (22, 192), (23, 73), (40, 1), (129, 1), (132, 16), (176, 16), (177, 1), (266, 240), (267,
      31), (268, 16), (271, 12)] }

theorem witness_PreemptionOperations :
    let sv := fun (st : Nat) (a : Nat) (s : State) =>
      (s.set (F.seqPreArea_state 0 a) st).modQuad 0 fun x => { x with areas := [(a, some saved)] }
    let areas := { shared with mgmt := { shared.mgmt with areas := 2 } }
    let occ := areas.modQuad 0 fun x => { x with committed := some saved.sectionOf }
    let ok := fun (s : State) (op sa ra : Nat) => MayQuad s .pf 0 ∧ (s.quad 0).scrub = none ∧ s.on (F.seqPreStat_busy 0) = false ∧
      s.preQuads 0 op sa ra = [0] ∧ s.preRefusal .pf op sa ra [0] = 0
    ok occ 1 0 0 ∧ ok (sv 2 1 occ) 3 0 1 ∧ (ok (sv 2 1 areas) 2 0 1 ∧ ((sv 2 1 areas).area 0 1).isSome = true) ∧
      (ok (sv 2 0 areas) 4 0 0 ∧ ((sv 2 0 areas).area 0 0).isSome = true) := by
  unfold MayQuad
  decide +kernel

/-- Quadrant 0 in a phase of an operation, with areas and a committed section. -/
def inPhase (op ph : Nat) (c : Option Section) (a : NMap (Option Saved)) : State :=
  (placed.set (F.seqPreStat_phase 0) ph).modQuad 0 fun x => { x with pre := some ⟨op, 0, 1, none, 0⟩, committed := c, areas := a }

theorem inPhase_pre (op ph : Nat) (c : Option Section) (a : NMap (Option Saved)) :
    ((inPhase op ph c a).quad 0).pre = some ⟨op, 0, 1, none, 0⟩ := by simp [inPhase]

theorem witness_PreemptionPhases :
    let s1 := inPhase 1 1 (some saved.sectionOf) []
    let s3 := inPhase 1 3 (some saved.sectionOf) []
    let s4 := inPhase 2 4 none [(1, some saved)]
    let s5 := inPhase 2 5 none [(1, some saved)]
    (s1.get (F.seqPreStat_phase 0) = 1 ∧ (s1.quad 0).working = false ∧ (s1.quad 0).digQueue = [] ∧
      (s1.quad 0).inbox = [] ∧ (s1.quad 0).cur = none ∧ s1.chord.trans = []) ∧
    (s3.get (F.seqPreStat_phase 0) = 3 ∧ s3.flying 0 = false ∧ (s3.quad 0).committed = some saved.sectionOf) ∧
    (s4.get (F.seqPreStat_phase 0) = 4 ∧ s4.area 0 1 = some saved ∧ s4.on (F.seqFnCtl_busy 0) = false) ∧
    (s5.get (F.seqPreStat_phase 0) = 5 ∧ s5.area 0 1 = some saved ∧
      ∀ n, n < 8 → s5.on (F.mgtCtxCfg_ended (nget saved.regs 0 (F.seqSlotCtx_ctx 0 n).key % 64)) = false) := by
  refine ⟨⟨?_, ?_, ?_, ?_, ?_, ?_⟩, ⟨?_, ?_, ?_⟩, ⟨?_, ?_, ?_⟩, ?_, ?_, ?_⟩ <;> first | rfl | decide +kernel

theorem witness_PreemptionPhases_held (n : Nat) : (inPhase 1 1 (some saved.sectionOf) []).isHeld 0 n = false := rfl

/-- Phase 4 of a RESTORE, in which the image is read again. -/
def reloading : State := inPhase 2 4 none [(1, some saved)]

theorem reloading_header : reloading.loadHeader 0 0 = goodImage.take 256 := by decide +kernel

theorem reloading_bytes : goodImage.take 256 ++ reloading.bytesAt 256 256 = goodImage := by decide +kernel

/-- The checks of Table 55, for an image without pins and without a partner whose header is h. -/
theorem loads (s : State) (q : Nat) (h b : List Byte) (n : Nat) (h0 : h ≠ []) (h1 : headerOk q h = true) (h2 : restOf h = n)
    (h3 : s.readable (0 + 256) n (s.owner q) = true) (hb : h ++ s.bytesAt (0 + 256) n = b) (c0 : ¬ 0x30 < imgByte b 4)
    (c1 : (crc64 (b.drop 0x18)).toNat = imgDigest b) (c2 : encodingBad q b = none) (c3 : scheduleBad q b (s.quad q).fnStore = none)
    (c4 : imgNpin b = 0) (c5 : imgPaired b = false) : s.loadCheck q 0 h = .ok ⟨0, b, [], false, [], 0, []⟩ := by
  simp [State.loadCheck, h0, h1, h2, h3, hb, c0, c1, c2, c3, c4, c5]

theorem reloading_loads : reloading.loadCheck 0 0 (goodImage.take 256) = .ok ⟨0, goodImage, [], false, [], 0, []⟩ := by
  apply loads reloading 0 _ goodImage 256
  case hb => exact reloading_bytes
  case c1 => exact goodImage_digest.trans (by decide +kernel)
  all_goals decide +kernel

/-- An image that is as it was when it was saved is reloaded. -/
theorem reloads (s : State) (q : Nat) (x : Saved) (y : Section) (h : List Byte) (a : s.areaLost q = none)
    (l : s.loadHeader q x.sectionOf.addr = h) (c : s.loadCheck q x.sectionOf.addr h = .ok y) (d : y.bytes = x.sectionOf.bytes) :
    s.reload q x = .ok y := by
  simp [State.reload, a, l, c, d]

theorem witness_PreemptionPhases_reload : reloading.reload 0 saved = .ok ⟨0, goodImage, [], false, [], 0, []⟩ :=
  reloads reloading 0 saved ⟨0, goodImage, [], false, [], 0, []⟩ (goodImage.take 256) (by decide +kernel) reloading_header reloading_loads rfl

theorem witness_PreemptionPhases_commits : (reloading.stageArea 1 0).commitCheck 0 (fun _ => true) = none := by decide +kernel

end Sys2Proof.Tests
end

