-- ==== Sys2Proof/Tests/Witness3.lean ====
section
/-! SUPPORT. Witnesses of the statements about host queues, descriptors, the page table and the far ports. -/

set_option Elab.async false

namespace Sys2Proof.Tests

open Sys2Proof Sys2Proof.Machine Sys2Proof.Safety

/-- A descriptor of one element of n bytes between two spaces at address 0 (Table 71). -/
def oneElem (n src dst : Nat) : Nat := 2 ^ 144 + src * 2 ^ 152 + dst * 2 ^ 156 + n * 2 ^ 160

/-- Page 0 is mapped to frame 0 of unit 0, for partition 15. -/
def mapped : State := ready.setPage 0 (2 ^ 63 + 15 * 2 ^ 57)

/-- Host queue 15 is enabled and running, with its entries. -/
def queue (st : Nat) (h : Hq) : State :=
  { (mapped.set (F.strHqStat_state 15) st).set (F.strHqCfg_en 15) 1 with hqs := [(15, h)] }

theorem witness_HostQueueControl :
    let s := queue 1 Hq.init
    let d := oneElem 16 0 3
    (ready.mayWrite .pf (.part (some 15)) = true ∧ vbit 0x80000000 31 = true ∧ ready.on (F.strHqCfg_en 15) = false ∧
      ready.get (F.strHqStat_state 15) = 0) ∧
    (s.mayWrite .pf (.part (some 15)) = true ∧ s.get (F.strHqStat_state 15) = 1 ∧ s.on (F.strHqCfg_en 15) = true ∧
      s.hq 15 = Hq.init ∧ s.get (F.strHqHead_head 15) = s.get (F.strHqTail_tail 15) ∧ vbit 0 31 = false ∧
      descOk true 0 [] (BitVec.ofNat 1024 d).toNat = true ∧ s.get (F.strHqTail_tail 15) < s.hqSize 15 ∧
      vbits 1 15 0 = (s.get (F.strHqTail_tail 15) + 1) % s.hqSize 15 ∧ s.hqFull 15 = false) ∧
    (queue 2 Hq.init).get (F.strHqStat_state 15) = 2 := by
  decide +kernel

theorem witness_HostQueueEntries :
    let e : HqEntry := ⟨0, oneElem 16 3 0, 0, 0, false, 0, 0⟩
    let f : HqEntry := { e with phase := 1 }
    let at_ := fun (s : State) (e : HqEntry) => s.on (F.strHqCfg_en 15) = true ∧
      s.get (F.strHqHead_head 15) = s.get (F.strHqTail_tail 15) ∧ (s.hq 15).act = [e] ∧ e.idx < 65536 ∧ s.hqFull 15 = false
    let s1 := queue 1 { Hq.init with act := [e] }
    let s2 := queue 2 { Hq.init with act := [f], susp := [0] }
    (at_ s1 e ∧ s1.get (F.strHqStat_state 15) = 1 ∧ e.phase = 0 ∧
      (s1.hqRun 15 e (descPositions e.bits) (leBytes 16 5) false).2.2 = none ∧ descDstSpace e.bits ≠ 3) ∧
    ((s1.hq 15).susp = [] ∧ descPosition e.bits 0 = e.pos ∧ e.pos < descPositions e.bits ∧ descSrcSpace e.bits = 3) ∧
    (at_ s2 f ∧ s2.mayWrite .pf (.part (some 15)) = true ∧ s2.get (F.strHqStat_state 15) = 2 ∧ f.phase = 1 ∧
      (s2.hq 15).susp = [f.idx] ∧ vbit 1 1 = false ∧ vbit 1 0 = true ∧ s2.elemFault [] f.bits f.pos (some 15) false = none ∧
      vbit 2 1 = true) := by
  decide +kernel

/-- Without a fault, on a channel and without; with a fault. -/
theorem witness_DescriptorCompletes :
    let d : Desc := { Desc.init with bits := oneElem 256 0 0 }
    let at_ := fun (s : State) (d : Desc) => (s.quad 0).desc 5 = some d ∧ d.suspended = false ∧ d.remote = false ∧ d.slot < 8 ∧
      s.receiverHere d = true ∧ s.get F.ecuSeam_retired = 0
    let faults := fun (s : State) (d : Desc) =>
      (State.runElems 0 d.quad d.bits (s.slotPart 0 d.slot) (descPositions d.bits - d.pos) d.pos s).2.2.isSome
    let put := fun (s : State) (d : Desc) => s.modQuad 0 fun x => { x with descs := [(5, some d)] }
    (at_ (put mapped d) d ∧ faults (put mapped d) d = false) ∧
    (at_ (put mapped { d with chan := some 3 }) { d with chan := some 3 } ∧
      (nget (mapped.quad 0).chanArr 0 (chanKey false 3) + 65536 - nget (mapped.quad 0).chanRcp 0 (chanKey false 3)) % 65536 ≠ 255) ∧
    (at_ (put ready d) d ∧ faults (put ready d) d = true) := by
  decide +kernel

/-- Each operation on page 3, with unit 27 in the argument: page 3 unmapped, and mapped to a frame of unit 0. -/
theorem witness_PageOperations :
    let a := (ready.set F.strMapArg_unit 27).set F.strMapPage_page 3
    let a := a.set (F.strFrameFree_total 27) 100
    let a : State := { a with farFrames := [(7, 100)] }
    let b := { a.setPage 3 (2 ^ 63) with frames := [(0, .mapped)] }
    let v := fun (op : Nat) => BitVec.ofNat 32 (2 ^ 31 + op)
    (∀ s ∈ [a, b], isPf .pf = true ∧ s.mapOp = none ∧ s.on F.strMapStat_busy = false ∧ s.get F.strMapArg_count_m1 = 0 ∧
      s.get F.strMapArg_unit < 28 ∧ s.get F.strMapArg_tier ≠ 3 ∧ s.get F.strMapPage_page = 3 ∧ s.on F.strMapArg_place_any = false ∧
      s.unitFailed 27 = false ∧ s.lowestFree 27 = some 0 ∧ s.ecu.tableFail = false ∧
      s.tableBad 6 3 = false ∧ s.tableBad 9 3 = false) ∧
    (∀ op < 7, vbit (v op) 31 = true ∧ vbits (v op) 3 0 = op) ∧ (a.page 3).valid = false ∧
    ((b.page 3).valid = true ∧ (b.page 3).mig = false ∧ Pte.pins (b.page 3) = 0 ∧ Pte.unit (b.page 3) ≠ 27 ∧
      b.useOf (b.page 3).unit (b.page 3).frame = .mapped ∧ b.get F.strMigStat_inflight < b.migMax) := by
  decide +kernel

/-- The word of page 3's entry cannot be read in the first copy of the table, and in neither. -/
theorem witness_PageOperations_tableBad :
    let bad := fun (l : List Nat) => { ready.set F.strMapPage_page 3 with memBad := l.map fun d => (memKey (8 + d) 0 24, some true) }
    (bad [6]).tableLost = none ∧ (bad [6]).tableBad 6 3 = true ∧ (bad [6]).tableBad 9 3 = false ∧
      (bad [6, 9]).tableBad 6 3 = true ∧ (bad [6, 9]).tableBad 9 3 = true ∧ (bad [6, 9]).on F.ecuStat_halted = false := by
  decide +kernel

theorem witness_PageTransfersEnd :
    let m : MapOp := ⟨1, .pf, 0, 4, 0, 0, [(3, 7, 9)], 0, none⟩
    let s1 := { ready with mapOp := some m, frames := [(frameKey 7 9, .zeroing)] }
    let d : Drain := ⟨3, 7, 9⟩
    let s2 := { ready with drains := [d], frames := [(frameKey 7 9, .draining)] }
    let g : Migration := ⟨3, 1, 5, [], true, false⟩
    let s3 := { ready.setPage 3 (2 ^ 63 + 2 ^ 49) with migrations := [g], frames := [(0, .mapped), (frameKey 1 5, .dest)] }
    let e := s3.page 3
    (s1.mapOp = some m ∧ m.op = 1 ∧ m.left = 0 ∧ m.stop = 0 ∧ m.wait = none ∧ m.done = 0 ∧ m.next = 3 + 1 ∧ m.zeroing = [(3, 7, 9)] ∧
      s1.useOf 7 9 = .zeroing ∧ s1.ecu.tableFail = false) ∧
    (s2.mapOp = none ∧ s2.drains = [d] ∧ d.page = 3 ∧ s2.useOf d.unit d.frame = .draining ∧
      nget s2.ecu.badFrames false (frameKey d.unit d.frame) = false ∧ d.unit < 28 ∧ s2.unitFailed d.unit = false) ∧
    (s3.mapOp = none ∧ s3.migrations = [g] ∧ g.page = 3 ∧ g.frame < 2 ^ 20 ∧ Memory.wf s3.mem = true ∧
      s3.farKey e.unit (Pte.part e) = none ∧ s3.farKey g.unit (Pte.part e) = none ∧ (e.unit, e.frame) ≠ (g.unit, g.frame) ∧
      s3.unitFailed g.unit = false ∧ g.held = [] ∧ s3.useOf g.unit g.frame = .dest ∧ e.unit = 0 ∧ e.frame = 0 ∧ s3.memBad = [] ∧ bit (s3.get F.ecuFacet_retired) 0 = false ∧ 2 ^ 21 - 1 < 2 ^ 21) := by
  decide +kernel

/-- A migration that holds one byte, and one that waits for its abandoning. -/
theorem witness_PageTransfersEnd_abandon :
    ∀ g ∈ ([⟨3, 1, 5, [(100, 9)], true, false⟩, ⟨3, 1, 5, [], true, true⟩] : List Migration),
      let s := { ready.setPage 3 (2 ^ 63 + 2 ^ 49) with migrations := [g], frames := [(0, .mapped), (frameKey 1 5, .dest)] }
      let e := s.page 3
      s.mapOp = none ∧ s.ecu.tableFail = false ∧ g.page = 3 ∧ g.frame < 2 ^ 20 ∧ Memory.wf s.mem = true ∧
        s.farKey e.unit (Pte.part e) = none ∧ s.farKey g.unit (Pte.part e) = none ∧ (e.unit, e.frame) ≠ (g.unit, g.frame) := by
  decide +kernel

/-- A source frame of unit 0 without a bad word, in a facet that works, has no tier error. -/
theorem witness_PageTransfersEnd_span (s : State) (hb : s.memBad = []) (hf : bit (s.get F.ecuFacet_retired) 0 = false) :
    s.spanError 0 0 0 (2 ^ 21) = none := by
  rw [State.spanError, List.findSome?_eq_none_iff]
  intro i _
  simp [State.tierError, State.wordBad, State.eccBad, hb, hf]

/-- A page that hints at promotion to unit 0. -/
theorem witness_PageTransfersEnd_auto :
    let p : Nat × Pte := (3, 2 ^ 63 + 2 ^ 61 + 2 ^ 46)
    let s := (((ready.set F.strMigCtl_auto 1).set F.strMigCtl_max_inflight 16).set (F.strFrameFree_free 0) 2049).setPage 3 p.2
    s.shedding = false ∧ ({ s with mgmt := { s.mgmt with hot := true } } : State).shedding = true ∧
    s.on F.strMigCtl_auto = true ∧ s.mapOp = none ∧ s.get F.strMigStat_inflight < s.migMax ∧
      (s.pages.find? fun p => (s.evictTrack.autoTarget p.2).isSome) = some p ∧ s.evictTrack.autoTarget p.2 = some 0 ∧ s.lowestFree 0 = some 0 := by
  decide +kernel

/-- Far port 7 has frames 0 to 3. -/
def far : State := { (ready.set (F.strFrameFree_total 27) 4).set (F.strFrameFree_free 27) 4 with farFrames := [(7, 4)] }

/-- Its failure, and extents with free, used and absent frames. -/
theorem witness_FarPorts :
    let used := far.setUse 27 2 .mapped
    let down := fun (s : State) => { s with ecu := { s.ecu with farDown := 128 } }
    (far.unitFailed 27 = false ∧ far.req.entries = []) ∧
    ((down far).unitFailed 27 = true ∧ nget (down far).farFrames 0 7 ≠ 0 ∧ (down ready).unitFailed 27 = true ∧
      nget (down ready).farFrames 0 7 = 0) ∧
    (extent 4 3 = [4, 5, 6] ∧ ∀ f ∈ extent 4 3, f < 2 ^ 20 ∧ (nget far.farFrames 0 7 ≤ f ∨ far.useOf 27 f = .absent)) ∧
    (extent 1 3).any (used.frameBusy 27) = true ∧ (extent 0 2).any (used.frameBusy 27) = false ∧
    (2 < used.unitFrames 27 ∧ used.useOf 27 2 = .mapped ∧ far.useOf 27 2 = .free) := by
  decide +kernel

/-- A descriptor of quadrant 0 that reads from page 0, which lies there. -/
theorem witness_FarPorts_timeout :
    let d : Desc := { Desc.init with bits := oneElem 256 0 0 }
    let s := (far.setPage 0 (2 ^ 63 + 2 * 2 ^ 61 + 7 * 2 ^ 20)).modQuad 0 fun x => { x with descs := [(5, some d)] }
    (s.quad 0).desc 5 = some d ∧ (s.farAccess d).isSome = true := by
  refine ⟨by decide +kernel, ?_⟩
  simp only [State.farAccess]
  generalize hl : (List.filterMap _ _ : List Nat) = l
  have : l = [0] := hl.symm.trans (by decide +kernel)
  subst this
  simp [Nat.mod_one]

theorem witness_FarPorts_touches (q n : Nat) (sel : Nat → Nat → Bool) : ready.cmdTouches q n sel = false := rfl

theorem witness_FarPorts_descs (q : Nat) : (ready.quad q).descs = [] := rfl

end Sys2Proof.Tests
end

