-- ==== Sys2Proof/Tests/Witness4.lean ====
section
/-! SUPPORT. Witnesses of the statements about bindings, shards and layers. -/

set_option Elab.async false

namespace Sys2Proof.Tests

open Sys2Proof Sys2Proof.Machine Sys2Proof.Safety

/-- Page 0, of partition 15, holds an image of one layer with one shard, with the digest of its directory, and a placement list at
0x400 (Tables 76 to 79). -/
def weights : State :=
  { ready.setPage 0 (2 ^ 63 + 15 * 2 ^ 57) with
    mem := [(0, 0x46), (1, 0x4C), (2, 0x32), (4, 0x20), (0x10, 0x51), (0x11, 0x97), (0x12, 0x52), (0x13, 0xED), (0x14, 0x7C),
      (0x15, 0x6B), (0x16, 0xF1), (0x17, 0x1F), (0x18, 1), (0x101, 2), (0x110, 1), (0x119, 1), (0x201, 6), (0x219, 1),
      (0x401, 0x10)] }

/-- The binding as an accepted image leaves it. -/
def bound : Bind := ⟨15, 0, 0, 1, [(0, (0x1000, 0))], [], [], []⟩

/-- Binding 9 in a state of Table 81. -/
def inState (st : Nat) (x : Bind) (loads : List Load) : State :=
  { ((weights.set (F.ingBindStat_state 9) st).set (F.ingBindPlace_addr 9) 4).set (F.ingBindStage_addr 9) 0x30 with
    ing := ⟨[(9, x)], loads, false⟩ }

theorem check_ok (s : State) (addr place part : Nat) (r : s.readable addr 256 (some part) = true) (n1 : s.memNat (addr + 0x18) 2 = 1)
    (rd : s.readable (addr + 0x100) 32 (some part) = true) (i : s.memNat (addr + 4) 1 = 0x20) (m : s.memNat addr 4 = 0x00324C46)
    (z1 : s.memNat (addr + 5) 3 = 0) (z2 : s.memNat (addr + 0x1A) 230 = 0)
    (d : (crc64 (s.bytesAt (addr + 0x100) 32)).toNat = s.memNat (addr + 0x10) 8) (o : s.dirOk addr 0 true = true)
    (l : s.readable place 16 (some part) = true) (l0 : s.memNat place 8 % 256 = 0) (l1 : s.memNat (place + 8) 8 % 256 = 0) :
    s.imageCheck addr place part = .ok 1 := by
  simp [State.imageCheck, r, n1, rd, i, m, z1, z2, d, o, l, l0, l1, isFl2, List.range_succ]

theorem witness_BindingOperations_load : (inState 0 Bind.init []).imageCheck 0 0x400 15 = .ok 1 := by
  apply check_ok
  case d => exact (crc64_crcS _).trans (by decide +kernel)
  all_goals decide +kernel

theorem witness_BindingOperations_replace : (inState 2 bound []).imageCheck 0 0x400 15 = .ok 1 := by
  apply check_ok
  case d => exact (crc64_crcS _).trans (by decide +kernel)
  all_goals decide +kernel

/-- LOAD and REPLACE pass their checks; REPLACE's shape and staging area. -/
theorem witness_BindingOperations_checks :
    let s := inState 0 Bind.init []
    let t := inState 2 bound []
    (s.get (F.ingBindStat_state 9) = 0 ∧ s.get (F.ingBindImage_addr 9) * 256 = 0 ∧ s.get (F.ingBindPlace_addr 9) * 256 = 0x400) ∧
    (t.get (F.ingBindStat_state 9) = 2 ∧ t.get (F.ingBindNext_addr 9) * 256 = 0 ∧ (t.bind 9).part = 15 ∧ (t.bind 9).n = 1 ∧
      (t.bind 9).image = 0 ∧ t.get (F.ingBindStage_addr 9) ≠ 0) := by
  decide +kernel

/-- A check that fails: no page is mapped. -/
theorem witness_BindingOperations_fails : ready.imageCheck 0 0 15 = .error 0x7012 := rfl

theorem witness_BindingOperations :
    let op := fun (k : Nat) => BitVec.ofNat 32 (2 ^ 31 + 15 * 256 + k)
    let load : Load := ⟨9, 0, 0x1000, 0, .queue, [], true, false, Shard.init, false, false, true, []⟩
    let used := fun (s : State) => s.anyCmd (fun c => c.windows.any fun w => match w.2 with | some y => decide (y.bind = 9) | none => false)
      || s.req.entries.any fun e => s.reqBound 9 e.2
    let cmd : Cmd := { cmd0 with windows := [(0, some ⟨9, false, 0, 1, 0, 0, 0, 0, []⟩)], versions := [(9, 1)] }
    let busy := (inState 2 bound []).modQuad 0 fun x => { x with slots := [(0, { Slot.init with cmd := some cmd })] }
    let drain := busy.set (F.ingBindStat_state 9) 4
    (∀ k < 5, vbit (op k) 31 = true ∧ vbits (op k) 3 0 = k) ∧ vbits (op 1) 11 8 = 15 ∧
    (∀ st < 8, (inState st bound []).get (F.ingBindStat_state 9) = st) ∧
    used (inState 7 bound []) = false ∧ used busy = true ∧
    (let x := (inState 5 { bound with replaced := [0], other := [(0, (0x1000, 0))] } []).bind 9
     0 < x.n ∧ 0 ∈ x.replaced ∧ (nget x.other (0, 0) 0).1 ≠ 0) ∧
    ((inState 1 bound [load]).ing.loads = [load]) ∧
    ((inState 4 bound []).anyCmd (fun c => c.boundTo 9) = false ∧
      ((inState 4 bound []).req.entries.any fun e => (inState 4 bound []).reqBound 9 e.2) = false) ∧
    (drain.get (F.ingBindStat_state 9) = 4 ∧ drain.anyCmd (fun c => c.boundTo 9) = true) := by
  decide +kernel

/-- A load of binding 9 whose table is read and whose only shard is in a phase, after some attempts. -/
def loadAt (tries phase : Nat) : Load :=
  ⟨9, 0, 0x1000, 0, .queue, [], true, true, { Shard.init with phase := 2 }, false, false, true,
    [(0, ⟨tries, phase, 0, 0, false, none, []⟩)]⟩

/-- Ingest unit 1 has failed, and a shard of the load lies behind port 7. -/
def unit1 : State :=
  { (inState 1 bound [loadAt 0 0]).setPage 1 (2 ^ 63 + 15 * 2 ^ 57 + 2 * 2 ^ 61 + 7 * 2 ^ 20) with
    mem := [(0x18, 1), (0x101, 2), (0x110, 1), (0x119, 1), (0x201, 6), (0x202, 0x20), (0x219, 1)]
    ing := ⟨[(9, bound)], [loadAt 0 0], true⟩, farFrames := [(7, 4)] }

/-- The shed state, and its end. -/
theorem witness_ShardAttempts_shed :
    ({ unit1 with mgmt := { unit1.mgmt with shed := true } } : State).shedding = true ∧ unit1.shedding = false ∧
    (inState 1 bound [loadAt 1 1]).shedding = false := by decide +kernel

theorem witness_ShardAttempts_start :
    let first : Load := { loadAt 0 0 with table := Shard.init }
    (inState 1 bound [loadAt 1 0]).nextShard 0 = some (loadAt 1 0, 0) ∧ (loadAt 1 0).table.phase = 2 ∧
    ((inState 1 bound [first]).nextShard 0).map (·.1) = some first ∧ first.table.phase ≠ 2 ∧
    unit1.nextShard 1 = some (loadAt 0 0, 0) ∧ unit1.ing.failed = true ∧ (loadAt 0 0).kind = .queue := by
  decide +kernel

theorem witness_ShardAttempts :
    let s1 := inState 1 bound [loadAt 1 1]
    let s2 := inState 1 bound [loadAt 1 2]
    let x := loadAt 1 1
    let e := s1.shardEntry x 0
    (s1.loadTable 9 0 = none ∧ s1.loadWith 9 0 0 1 = some x ∧ x.dead = false ∧ (x.shard 0).tries < 3 ∧ attemptAddr e 0 = 0x600 ∧
      e.storedLen = 256 ∧ e.digest = 0 ∧ s1.readError 0x600 256 15 = none ∧
      (s1.set F.ingCfg_shard_tmo_us 5).get F.ingCfg_shard_tmo_us ≠ 0) ∧
    (s2.loadWith 9 0 0 2 = some (loadAt 1 2) ∧ isFl2 (s2.memNat 0 4) = true ∧ s2.dirLen 0 0 = 256 ∧ e.depositOff = 0 ∧
      s2.destBad 0x1000 256 15 = false ∧ s2.migHolds 0x1000 256 = false ∧ e.plainOk = true) := by
  decide +kernel

/-- The shard's 256 bytes are zeros, whose digest is 0. -/
theorem witness_ShardAttempts_digest : (crc64 ((inState 1 bound [loadAt 1 1]).bytesAt 0x600 256)).toNat = 0 :=
  (crc64_crcS _).trans (by decide +kernel)

/-- With a byte changed the digest is another. -/
theorem witness_ShardAttempts_other : (crc64 (({ inState 1 bound [loadAt 1 1] with mem := [(0x600, 1)] }).bytesAt 0x600 256)).toNat ≠ 0 := by
  rw [crc64_crcS]
  decide +kernel

theorem witness_ShardAttempts_deposit (d : List Byte) (e : ShardEntry) (h : e.plainOk = true) (m : e.storedLen % 256 = 0) :
    shardDeposit true e d = some d := by
  simp [shardDeposit, h, m]

theorem witness_LayersCommit :
    let l := loadAt 1 3
    let two : Bind := { bound with place := [(0, (0x1000, 0x2000))] }
    let s1 := inState 1 bound [l]
    let s2 := inState 1 two [l]
    let w : Load := { l with kind := .write, dest := 0x3000 }
    let s3 := inState 5 { bound with other := [(0, (0x4000, 0))] } [w]
    let c : Load := { l with copying := true }
    let s4 := inState 1 two [c]
    let find := fun (s : State) => s.ing.loads.find? fun y => decide (y.bind = 9) && decide (y.layer = 0) && !y.dead && !y.copying &&
      y.started && (List.range (s.dirShards y.image y.layer)).all fun i => decide ((y.shard i).phase = 3)
    (find s1 = some l ∧ find s2 = some l ∧ find s3 = some w) ∧ l.wins = [] ∧ l.resident = true ∧ l.kind = .queue ∧ w.kind = .write ∧
    ((nget (s1.bind 9).place (0, 0) 0).2 = 0 ∧ (nget (s2.bind 9).place (0, 0) 0).2 ≠ 0) ∧ s3.destBad 0x4000 (s3.dirLen 0 0) 15 = false ∧
    s3.migHolds 0x4000 (s3.dirLen 0 0) = false ∧
    ((s4.ing.loads.find? fun y => decide (y.bind = 9) && decide (y.layer = 0) && !y.dead && y.copying) = some c ∧
      s4.rangeError 0x1000 (s4.dirLen 0 0) = none ∧ s4.destBad 0x2000 (s4.dirLen 0 0) 15 = false ∧
      s4.migHolds 0x2000 (s4.dirLen 0 0) = false) := by
  decide +kernel

/-- A layer that streams for window 0 of slot 0 of quadrant 0. -/
theorem witness_LayersCommit_window :
    let v : Win := ⟨9, true, 0, 1, 0, 0, 0, 0, []⟩
    let c : Cmd := { cmd0 with windows := [(0, some v)] }
    let x : Load := { loadAt 1 3 with kind := .window, resident := false, wins := [0] }
    let s := (inState 1 bound [x]).modQuad 0 fun y =>
      { y with committed := some (sect (image [stp 3 4 0])), cur := some 0, slots := [(0, { Slot.init with cmd := some c })] }
    x.kind = .window ∧ x.resident = false ∧ x.wins = [0] ∧ (s.quad 0).committed.isSome = true ∧ s.cmdOf 0 0 = some c ∧
      nget c.windows none 0 = some v ∧ s.ing.loads = [x] ∧
      (List.range (s.dirShards 0 0)).all (fun i => decide ((x.shard i).phase = 3)) = true := by
  decide +kernel

end Sys2Proof.Tests
end

