-- ==== Sys2Proof/Tests/Witness5.lean ====
section
/-! SUPPORT. Witnesses of the statements about the request engine. -/

set_option Elab.async false

namespace Sys2Proof.Tests

open Sys2Proof Sys2Proof.Machine Sys2Proof.Safety

/-- A service of partition 15 on binding 9, with pool 5 and one group, number 3, of kind k (Tables 95 and 96). -/
def service (k : Nat) : List Byte :=
  leBytes 4 0x43565347 ++ leBytes 4 0xFF000F09 ++ leBytes 4 0x01010000 ++ leBytes 4 0 ++ leBytes 4 0xFFFF ++ leBytes 4 0 ++
    leBytes 8 0x1000 ++ leBytes 96 5 ++
    leBytes 4 (3 + k * 2 ^ 8 + 2 * 2 ^ 16) ++ leBytes 4 1 ++ leBytes 4 4 ++ leBytes 4 0x400 ++ leBytes 8 0x2000 ++ leBytes 4 0 ++
    leBytes 4 0x200

/-- A request descriptor: service 7, a ring of 16 entries, one prompt token, three tokens at most (Table 93). -/
def rd : Nat := 7 * 2 ^ 64 + 4 * 2 ^ 88 + 2 ^ 192 + 3 * 2 ^ 224

/-- A live request of that service. -/
def request (state : Nat) : ReqEntry :=
  { ReqEntry.init with gen := 1, state := state, desc := rd, part := 15, service := 7, tail := 3 }

/-- The engine with requests and groups; queue 15 runs, binding 9 is ready, pool 5 has eight pages, page 0 is mapped. -/
def engine (k : Nat) (entries : NMap ReqEntry) (groups : NMap Group) : State :=
  let s := ((((((ready.set (F.reqQStat_state 15) 1).set (F.reqQCfg_en 15) 1).set (F.reqSqTail_tail 15) 1).set
    (F.ingBindStat_state 9) 2).set (F.reqPoolN_npages 5) 8).set (F.reqGrpStat_state 3) 1).setPage 0 (2 ^ 63 + 15 * 2 ^ 57)
  { s with ticks := 25000, req := { s.req with entries := entries, groups := groups, services := [(7, service k)] } }

theorem first_free (s : State) (h : (s.entryOf 0).state = 0) :
    ((List.range 65536).find? fun k => decide ((s.entryOf k).state = 0)) = some 0 := by
  rw [List.find?_range_eq_some]
  simp [h]

theorem witness_RequestQueues :
    let s := engine 1 [] []
    let due := { s.set (F.reqQCfg_irq_en 15) 1 with req := { s.req with tokenDue := [(15, true)] } }
    (ready.mayWrite .pf (.part (some 15)) = true ∧ ready.waitingRecords 15 = [] ∧ vbit 0x80000000 31 = true ∧
      ready.on (F.reqQCfg_en 15) = false) ∧
    (s.mayWrite .pf (.part (some 15)) = true ∧ s.waitingRecords 15 = [] ∧ vbit 0 31 = false ∧ s.on (F.reqQCfg_en 15) = true ∧
      s.get (F.reqQStat_state 15) = 1) ∧
    (s.get (F.reqSqHead_head 15) % 64 ≠ s.get (F.reqSqTail_tail 15) % 64 ∧ clampLog (s.get (F.reqQCfg_sq_log2n 15)) = 6 ∧
      (s.entryOf 0).state = 0 ∧ s.admitCode 15 (BitVec.ofNat 1024 rd).toNat none [5] = none ∧ svFlag (s.svc 7) 1 = false ∧
      rdService rd = 7) ∧
    (s.hostFails (rdRing rd) 64 = false ∧ s.admitCode 15 (BitVec.ofNat 1024 (rd + 2 ^ 64)).toNat none [5] = some 0x8011 ∧
      s.cqRoom 15 = true ∧ s.hostFails (s.cqAddr 15) 128 = false ∧
      ({ s with req := { s.req with bad := [0] } } : State).hostFails (s.cqAddr 15) 128 = true) ∧
    (nget due.req.tokenDue false 15 = true ∧ due.on (F.reqQCfg_irq_en 15) = true) := by
  decide +kernel

/-- Commands 1 to 4, each on a live request, and on one that is not. -/
theorem witness_RequestCommands :
    let at_ := fun (op arg : Nat) (e : ReqEntry) =>
      let s := engine 1 [(0, e)] []
      { s with req := { s.req with cmdLow := BitVec.ofNat 32 (op * 2 ^ 28 + arg), handles := [(15 * 2 ^ 32 + 65536, some (0, 0))] } }
    let s := at_ 2 2 (request 4)
    let e := s.entryOf 0
    isPf .pf = true ∧
    (∀ op < 5, bits (at_ op 2 (request 4)).req.cmdLow.toNat 31 28 = op ∧ bits (at_ op 2 (request 4)).req.cmdLow.toNat 15 0 = 2) ∧
    ((65536 : Lane).toNat % 65536 = 0 ∧ e.gen.toNat = (65536 : Lane).toNat / 65536 ∧ e.state = 4) ∧
    (e.gen.toNat ≠ (131072 : Lane).toNat / 65536) ∧
    (2 < 2 ^ rdLog2ring e.desc ∧ (2 + 16 - e.head) % 16 ≤ (e.tail + 16 - e.head) % 16) ∧
    (∃ h ∈ s.req.handles, h.1 % 2 ^ 32 = (65536 : Lane).toNat) ∧ (∀ h ∈ s.req.handles, h.1 % 2 ^ 32 ≠ (7 : Lane).toNat) ∧
    ((at_ 0 0 (request 1)).entryOf 0).state = 1 ∧
    (s.hostIs []).hostFails (s.cqAddr e.part) 128 = false := by
  decide +kernel

/-- A row of request 0 at position 5, in batch 0 of group 3. -/
def row : Row := ⟨0x10000, 5, 11, true, false, false⟩

/-- A decode batch of one member, and a prefill batch of the one request that waits. -/
theorem witness_BatchesAndEmits_place :
    let dec := engine 1 [(0, { request 4 with group := some 3, input := some 11, len := 5, pages := [(0, [1])], tFirst := some 1 })]
      [(3, { Group.init with service := 7 })]
    let pre := engine 0 [(0, { request 2 with reserved := 1, want := 1, pages := [(0, [1])] })] [(3, { Group.init with service := 7 })]
    let ok := fun (s : State) (full : Bool) =>
      let u := s.settleReq.notePrompts []
      let x := u.group 3
      let rows := u.nextRows 3 [] full
      let w := rows.foldl (fun t r => t.needPos (r.id.toNat % 65536) r.pos) u
      rows ≠ [] ∧ u.promptBad [] rows = none ∧ svEmb (u.svc x.service) = 0xFFFF ∧ w.patchBad (u.svc x.service) x.entry = false ∧
      (∀ e ∈ batchParts (u.svc x.service) x.entry x.placed, u.migHolds e.1 e.2 = false)
    ok dec true ∧ ok pre false := by
  decide +kernel

/-- A record for request 0: position 6, one token, 99. -/
def emitted : List Host.Cell := [(0x2202, 1), (0x2204, 6), (0x2208, 1), (0x2210, 99)]

theorem witness_BatchesAndEmits_emit :
    let at_ := fun (done : Bool) =>
      { engine 1 [(0, { request 4 with group := some 3, input := some 11, len := 5, pages := [(0, [1])], tFirst := some 1 })]
          [(3, { Group.init with service := 7, placed := 1, emits := [0], counts := [(0, 1)], batches := [⟨0, [row], done⟩] })] with
        mem := emitted }
    let s := at_ false
    let dark := engine 1 [] []
    let d := s.svc 7
    let r := s.bytesAt 0x2200 128
    let e := s.entryOf 0
    ((s.group 3).service = 7 ∧ (s.group 3).entry = 0 ∧ (s.group 3).emits = [0] ∧ d ≠ [] ∧
      ((s.group 3).batches.find? fun b => decide (b.n = 0) && !b.emitted) = some ⟨0, [row], false⟩) ∧
    (∀ b ∈ ((at_ true).group 3).batches, b.n = 0 → b.emitted = true) ∧ ((dark.group 3).emits = []) ∧
    (s.hostIs []).hostFails (rdRing e.desc + 64 + e.tail * 16) 16 = false ∧ (s.hostIs []).hostFails (rdRing e.desc + 4) 4 = false ∧
    grBase d 0 + grEmitOff d 0 = 0x2200 ∧
    (((List.range (grTmax d 0)).map fun k => s.bytesAt (0x2200 + 128 * k) 128).filter fun r => decide (emId r ≠ 0)) = [r] ∧
    (emId r % 65536 = 0 ∧ e.gen.toNat = emId r / 65536 ∧ e.state = 4 ∧ e.tFirst.isSome = true ∧
      ([row].filter fun y => decide (y.id.toNat = emId r) && !y.dead).find? (·.sample) = some row ∧ emPos r = row.pos + 1 ∧ emN r = 1 ∧
      emNd r ≤ svDmax d ∧ stopToken e.stop (emToken r 0) = false ∧ stopSequence e.stop (e.tokens ++ [emToken r 0]) = none ∧
      e.written + 1 < rdMaxNew e.desc ∧ rdTime e.desc = 0) := by
  decide +kernel

/-- A request whose first token is late, with a policy that ends it. -/
theorem witness_BatchesAndEmits_deadline :
    let d := rd + 2 ^ 384 + 2 ^ 80
    let s := engine 1 [(0, { request 2 with desc := d })] []
    0 ∈ nkeys s.req.entries ∧ 2 ≤ (s.entryOf 0).state ∧ (s.entryOf 0).state < 5 ∧ rdTtft d ≠ 0 ∧ (s.entryOf 0).tFirst = none ∧
      rdTtft d ≤ s.now - (s.entryOf 0).tAccept ∧ (s.entryOf 0).ttftMiss = false ∧ rdPolicy d % 4 = 1 := by
  decide +kernel

/-- The service's descriptor lies in memory at 0x100. -/
def described : State :=
  { (ready.setPage 0 (2 ^ 63 + 15 * 2 ^ 57)).set (F.reqSvcAddr_addr 7) 1 with
    mem := [(256, 71), (257, 83), (258, 86), (259, 67), (260, 9), (261, 15), (263, 255), (266, 1), (267, 1), (272, 255),
      (273, 255), (281, 16), (288, 5), (384, 3), (385, 1), (386, 2), (388, 1), (392, 4), (397, 4), (401, 32), (413,
      2)] }

/-- Its installation passes with pool 5 enabled, and fails on the pool otherwise. -/
theorem witness_ServicesGroupsPools_install :
    let s := described.set (F.reqPoolPage_en 5) 1
    let d := s.bytesAt 0x100 2048
    s.get (F.reqSvcAddr_addr 7) * 256 = 0x100 ∧ s.svc 7 = [] ∧ s.readable 0x100 2048 (some (svPart d)) = true ∧
      s.svcRefusal 7 .pf d = none ∧ described.svcRefusal 7 .pf d = some 0x20 := by
  decide +kernel

theorem witness_ServicesGroupsPools :
    let v := fun (op : Nat) => BitVec.ofNat 32 (2 ^ 31 + op * 2 ^ 24)
    let used := engine 1 [(0, request 2)] [(3, { Group.init with batches := [⟨0, [], false⟩] })]
    let free := engine 1 [] [(3, { Group.init with batches := [⟨0, [], true⟩] })]
    let pool := (ready.set (F.reqPoolPage_en 5) 1)
    isPf .pf = true ∧ (∀ op < 3, vbit (v op) 31 = true ∧ vbits (v op) 27 24 = op) ∧ used.svcUsed 7 = true ∧ free.svcUsed 7 = false ∧
      vbit 1 0 = true ∧ (∀ b ∈ (free.group 3).batches, b.emitted = true) ∧ (∃ b ∈ (used.group 3).batches, b.emitted = false) ∧
      ready.on (F.reqPoolPage_en 5) = false ∧ pool.on (F.reqPoolPage_en 5) = true ∧ vbit 0 31 = false ∧
      pool.poolInUse 5 = false ∧
      ((engine 1 [(0, { request 4 with pages := [(0, [1])] })] []).set (F.reqPoolPage_en 5) 1).poolInUse 5 = true := by
  decide +kernel

end Sys2Proof.Tests
end

