-- ==== Sys2Proof/Tests/Witness6.lean ====
section
/-! SUPPORT. Witnesses of the statements about the chords. -/

set_option Elab.async false

namespace Sys2Proof.Tests

open Sys2Proof Sys2Proof.Machine Sys2Proof.Safety

/-- The header flit of a packet from package 100 to package 0, of tag slot 5, with its CRC-64 (Table 111). -/
def flit (type cause cnt nwords crc : Nat) : BitVec 512 :=
  BitVec.ofNat 512 (leNat (leBytes 4 type ++ leBytes 4 (100 + 4 * nwords * 2 ^ 24) ++ leBytes 4 5 ++ leBytes 4 (cnt * 2 ^ 8) ++
    leBytes 32 cause ++ leBytes 8 crc ++ leBytes 8 0))

/-- Chord 0 is in service, and package 100 is admitted. -/
def linked : State :=
  let s := ((ready.set (F.chdLinkStat_state 0) 5).set (F.chdPeer_state 100) 1).set (F.chdRoute_mask 100) 1
  { s with chord := { s.chord with peers := [(100, { Peer.init with adm := 1 })] } }

/-- Nothing remote is under way where no quadrant is listed. -/
theorem noRemote_none (s : State) (h : s.chord.trans = []) (hq : s.quads = []) : NoRemote s := by
  refine ⟨h, fun q i d hd => ?_⟩
  rw [State.quad, hq] at hd
  cases hd

theorem noRemote_linked : NoRemote linked := noRemote_none _ rfl rfl

/-- Every training state, with light; tests 1 and 2. -/
theorem witness_ChordTraining :
    let at_ := fun (st : Nat) => ((List.range 8).foldl (fun s w => s.set (F.chdLaser_in_pow w) 1400)
      (((ready.set F.chdCfg_en 1).set (F.chdLinkCtl_en 0) 1).set (F.chdLinkStat_state 0) st)).setLink 0
        { ChordLink.init with version := some 3 }
    isPf .pf = true ∧ ready.admitted = [] ∧ vbit 0x80000000 31 = true ∧ vbit 0 31 = false ∧
    (∀ st < 7, (at_ st).get (F.chdLinkStat_state 0) = st ∧ (at_ st).mayTrain 0 = true ∧ ((at_ st).link 0).version = some 3) ∧
    ready.mayTrain 0 = false ∧ (ready.set (F.chdLinkCtl_test 63) 2).get (F.chdLinkCtl_test 63) = 2 ∧
    (let s := (ready.set (F.chdLinkCtl_test 63) 1).set (F.chdPrbsCtl_chk_en 511) 1
     s.get (F.chdLinkCtl_test (511 / 8)) = 1 ∧ s.on (F.chdPrbsCtl_chk_en 511) = true) := by
  decide +kernel

theorem witness_ChordTraining_still (st : Nat) : NoRemote (ready.set (F.chdLinkStat_state 0) st) := noRemote_none _ rfl rfl

/-- A plain packet passes its check. -/
theorem opens (s : State) (k : Nat) (p : RxPkt) (f : bit p.flags 0 = false) (r : s.on (F.chdPartCrypt_req p.part) = false)
    (c : p.fld 0x30 8 = crcS 0 (p.hdr.take 0x30 ++ p.data)) (z : p.fld 0x38 8 = 0) : s.openPkt k p = some p.data := by
  simp [State.openPkt, f, r, c, z, crc64_crcS]

/-- Quadrant 0, owned by partition 0, holds a section that binds the peer. -/
def receiving : State :=
  ((linked.set (F.secQuadOwn_en 0) 1).set (F.chdPeer_part_mask 100) 1).modQuad 0 fun x =>
    { x with committed := some { sect (image [stp 3 4 0]) with peers := [(100, 1)] } }

theorem accepted (s : State) (k : Nat) (p : RxPkt) (d : List Byte) (q : p.quad < 32) (b : s.bindsSource p.quad p.src = true)
    (m : s.partOk p.quad p.src p.part = true) (o : s.openPkt k p = some d) (a : s.away p.quad = false)
    (w : ((List.range p.nwords).any fun w => decide (2 ^ 20 ≤ p.word w) || !isSector p.quad (bits (p.word w) 19 12)) = false) :
    s.writeCause k p = 0 := by
  unfold State.writeCause
  rw [b, m, o, a, w]
  simp [Nat.not_le.mpr q]

/-- A WRITE of one word of zeros, to sector 0. -/
theorem witness_WritePackets :
    let p := rxPkt (flit 1 0 1 1 9156427379936694379) [0]
    let s := receiving
    (s.get (F.chdLinkStat_state 0) = 5 ∧ s.on F.ecuStat_halted = false ∧ p.type = 1 ∧ p.dst = s.get F.chdPkgId_pkg ∧
      p.data.length = p.nwords * 256) ∧
    (s.get (F.chdPeer_state p.src) = 1 ∧ s.genStale 0 p = false ∧ s.chord.kept.contains (p.src, p.tag) = false ∧ p.cnt = 1 ∧
      bit p.flags 2 = false ∧ (s.quad p.quad).inbox = [] ∧ s.chord.rx = []) ∧
    (s.set (F.chdPeer_state 100) 2).get (F.chdPeer_state p.src) = 2 ∧
    ({ s with chord := { s.chord with kept := [(100, 5)] } } : State).chord.kept.contains (p.src, p.tag) = true ∧
    linked.writeCause 0 p = 2 := by
  decide +kernel

theorem witness_WritePackets_accepted : receiving.writeCause 0 (rxPkt (flit 1 0 1 1 9156427379936694379) [0]) = 0 := by
  refine accepted _ _ _ (rxPkt (flit 1 0 1 1 9156427379936694379) [0]).data ?_ ?_ ?_ (opens _ _ _ ?_ ?_ ?_ ?_) ?_ ?_ <;> decide +kernel

/-- A packet whose check fails. -/
theorem witness_WritePackets_fails : receiving.writeCause 0 (rxPkt (flit 1 0 1 0 0) []) = 4 := by
  decide +kernel

/-- A transaction of quadrant 0 in tag slot 5, and the descriptor that it belongs to. -/
def trans0 : Trans := ⟨0, 1, 0, 0, 100, none, true, 0, 0, 0, [(0, List.replicate 256 0)], some 0, 1, 1, 1, false, 0⟩
def desc0 : Desc := { Desc.init with bits := 2 ^ 144 + 2 ^ 152 + 2 * 2 ^ 156 + 256 * 2 ^ 160, remote := true, uid := 1, next := 1 }

def sending (x : Trans) : State :=
  let s := linked.modQuad 0 fun x => { x with descs := [(3, some desc0)] }
  { s with chord := { s.chord with trans := [(5, some x)] } }

theorem sending_alone (x : Trans) (q i : Nat) (e : Desc) (h : ((sending x).quad q).desc i = some e) (_ : e.remote = true) :
    q = 0 ∧ i = 3 := by
  have hq : (sending x).quad q = (if 0 = q then (sending x).quad 0 else Quad.init) := nget_cons _ _ _ _
  rw [hq] at h
  split at h
  · rename_i hz
    refine ⟨hz.symm, ?_⟩
    have hi : ((sending x).quad 0).desc i = if 3 = i then some desc0 else none := nget_cons _ _ _ _
    rw [hi] at h
    split at h
    · rename_i h3; exact h3.symm
    · cases h
  · cases h

theorem witness_AnswerPackets :
    let s := sending trans0
    let here := fun (s : State) (p : RxPkt) => s.get (F.chdLinkStat_state 0) = 5 ∧ s.on F.ecuStat_halted = false ∧
      p.dst = s.get F.chdPkgId_pkg ∧ p.nwords = 0 ∧ s.get (F.chdPeer_state p.src) = 1 ∧ s.genStale 0 p = false
    let nack := fun (c n : Nat) => rxPkt (flit 3 c 0 0 n) []
    let ack := rxPkt (flit 2 0 0 0 2856282765980509602) []
    (here s ack ∧ ack.type = 2 ∧ s.chord.trans = [(5, some trans0)] ∧ trans0.pkg = ack.src ∧ ack.tag % 2 ^ 20 = 5 ∧
      ack.tag / 2 ^ 20 = nget s.chord.gens 0 5 ∧ (s.quad 0).desc 3 = some desc0 ∧ desc0.remote = true ∧ desc0.uid = trans0.uid ∧
      desc0.redo = [] ∧ desc0.next = descTotal desc0.bits ∧ desc0.acked + trans0.data.length = descTotal desc0.bits) ∧
    (∀ e ∈ [(1, 13890223002486522308), (2, 11506208726620826222), (3, 7720707041367581049), (4, 2410899232838565178), (6, 9985524961049288071)], here s (nack e.1 e.2) ∧ (nack e.1 e.2).type = 3 ∧
      (nack e.1 e.2).cause = e.1) ∧
    s.trans 5 = some trans0 ∧ s.get (F.seqPreStat_phase trans0.q) < 2 ∧ trans0.busy = false ∧
    (here linked (rxPkt (flit 4 0 0 0 5753382283577902724) []) ∧ (rxPkt (flit 4 0 0 0 5753382283577902724) []).type = 4) ∧
    (let m := rxPkt (flit 5 0 0 0 6643752275183118837) []
     here linked m ∧ m.type = 5 ∧ m.data.length = m.nwords * 256 ∧ linked.get (F.chdPeer_state m.src) ≠ 2) ∧
    (rxPkt (flit 6 0 0 0 0) []).type = 6 ∧ (rxPkt (flit 7 0 0 0 0) []).type = 7 ∧
    ((linked.link 0).fails < 2 ∧ (linked.link 0).logged = false ∧ (linked.link 0).flits = [] ∧ (linked.link 0).seq = none ∧
      crc8 ((0x00107 : BitVec 20).toNat / 256) = (0x00107 : BitVec 20).toNat % 256) := by
  decide +kernel

/-- Every packet of the last witness passes its check. -/
theorem witness_AnswerPackets_open :
    ∀ e ∈ [(2, 0, 2856282765980509602), (3, 1, 13890223002486522308), (3, 2, 11506208726620826222), (3, 3, 7720707041367581049), (3, 4, 2410899232838565178), (3, 6, 9985524961049288071), (4, 0, 5753382283577902724), (5, 0, 6643752275183118837)],
      ((sending trans0).openPkt 0 (rxPkt (flit e.1 e.2.1 0 0 e.2.2) [])).isSome = true ∧
        (linked.openPkt 0 (rxPkt (flit e.1 e.2.1 0 0 e.2.2) [])).isSome = true := by
  decide +kernel

/-- The transaction's slot has a command, of a quadrant that serves no group. -/
theorem witness_AnswerPackets_command :
    let s := (sending trans0).modQuad 0 fun x =>
      { x with committed := some (sect (image [stp 3 4 0])), cur := some 0, slots := [(0, { Slot.init with cmd := some cmd0 })] }
    s.trans 5 = some trans0 ∧ trans0.slot = 0 ∧ s.cmdOf 0 0 = some cmd0 ∧ s.consumerGroups 0 (s.image 0) cmd0 = [] ∧
      s.partner 0 = none := by
  decide +kernel

theorem witness_ChordTimersAndPeers :
    let at_ := fun (sends : Nat) (busy : Bool) => sending { trans0 with sends := sends, busy := busy }
    let s := linked
    let fresh := (ready.set (F.secPeerAtt_result 100) 1).set (F.secPeerAtt_age_ms 100) 10000
    (∀ n < 4, (at_ n false).trans 5 = some { trans0 with sends := n } ∧ trans0.chord.isSome = true ∧ trans0.packets ≤ trans0.sent ∧
      (at_ n false).keyEmpty 0 trans0.key = false ∧ (at_ n false).chordFor 100 5 false = some 0) ∧
    ((at_ 1 true).trans 5 = some { trans0 with busy := true } ∧ (at_ 1 true).chordFor 100 5 false = some 0) ∧
    (s.admitted = [100] ∧ s.effMask 100 false ≠ []) ∧
    (fresh.get (F.chdPeer_state 100) = 0 ∧ fresh.get (F.secPeerAtt_result 100) = 1 ∧ fresh.get (F.secPeerAtt_age_ms 100) ≤ 10000) ∧
    ready.get (F.secPeerAtt_result 100) ≠ 1 ∧
    (s.get (F.chdPeer_state 100) = 1 ∧ s.boundTo 100 (s.peerOf 100).adm = []) ∧
    ((s.set (F.chdPeer_state 100) 2).get (F.chdPeer_state 100) = 2) := by
  decide +kernel

end Sys2Proof.Tests
end

