-- ==== Sys2Proof/Tests/Witness7.lean ====
section
/-! SUPPORT. Witnesses of the statements about fences, faults, repairs, the log and the consistent cut. -/

set_option Elab.async false

namespace Sys2Proof.Tests

open Sys2Proof Sys2Proof.Machine Sys2Proof.Safety

/-- Quadrant 31 is fenced; its self-test runs. -/
def fenced31 : State := ready.set F.ecuFence_fenced (2 ^ 31)

theorem witness_FencesAndReadmission :
    let t := { fenced31 with ecu := { fenced31.ecu with readmit := some 31 } }
    let off : State := { ready with fuses := { ready.fuses with dEn := 0 } }
    isPf .pf = true ∧ ready.on F.ecuFenceCtl_busy = false ∧ fenced31.on F.ecuFenceCtl_busy = false ∧
    (ready.active 31 = true ∧ ready.fenced 31 = false) ∧ fenced31.fenced 31 = true ∧ off.active 0 = false ∧
    (t.ecu.readmit = some (31 : Fin 32).val ∧ t.fenced 31 = true ∧ t.on F.ecuFenceCtl_busy = false) := by
  decide +kernel

/-- Seams 0 and 13, stack devices 0 and 11, facet 7, rim S and the package, before and after. -/
theorem witness_ElementFaults :
    let dev := (ready.set (F.ecuStk_ch_retired 11) 1).set (F.ecuStk_channel 11) 31
    (∀ n ∈ [0, 13], bit (ready.get F.ecuSeam_retired) n = false ∧ (ready.retireSeam n).allRouted = true) ∧
    bit ((ready.set F.ecuSeam_retired (2 ^ 13)).get F.ecuSeam_retired) 13 = true ∧
    (ready.on (F.ecuStk_dev_retired 11) = false ∧ ready.migrations = [] ∧ ready.req.entries = [] ∧
      ready.ecu.tableFail = false) ∧
    (dev.on (F.ecuStk_dev_retired 11) = false ∧ dev.on (F.ecuStk_ch_retired 11) = true ∧ dev.get (F.ecuStk_channel 11) ≠ 0 ∧
      dev.get (F.ecuStk_channel 11) = 31) ∧
    (ready.set (F.ecuStk_dev_retired 11) 1).on (F.ecuStk_dev_retired 11) = true ∧
    (bit (ready.get F.ecuFacet_retired) 7 = false ∧ bit ((ready.set F.ecuFacet_retired 128).get F.ecuFacet_retired) 7 = true) ∧
    (ready.ecu.rimS = false ∧ ready.admitted = [] ∧ ({ ready with ecu := { ready.ecu with rimS := true } } : State).ecu.rimS = true) ∧
    (ready.on F.ecuStat_halted = false ∧ (ready.set F.ecuStat_halted 1).on F.ecuStat_halted = true) := by
  decide +kernel

theorem witness_ElementFaults_unused (q n : Nat) (sel : Nat → Bool) (sel2 : Nat → Nat → Bool) :
    ready.sectionCrosses q sel = false ∧ ready.cmdTouches q n sel2 = false ∧
      (ready.set (F.ecuStk_ch_retired 11) 1).cmdTouches q n sel2 = false := ⟨rfl, rfl, rfl⟩

theorem witness_ElementFaults_still : NoRemote ready := by
  refine ⟨rfl, fun q i d h => ?_⟩
  cases h

theorem witness_RepairsAndLog :
    let t := { ready with ticks := 50000 }
    let none8 := ready.set (F.ecuSpare_base_rows 7) 0
    let some8 := ready.set (F.ecuSpare_base_rows 7) 1
    let busy := fun (b : Bool) => ready.setLogCopy b { LogCopy.init with busy := some 5 }
    let cut := ((ready.set F.ecuCutCtl_state 4).set F.ecuCutSet_quadrants (2 ^ 31)).set F.ecuCutCtl_mailbox 15
    (ready.active 31 = true ∧ ready.fenced 31 = false ∧ ready.idle 31 = true ∧ isSector 31 (sectorSites 31).head! = true ∧
      ((ready.quad 31).lat.sector (sectorSites 31).head!).spare ≠ 0) ∧
    (bit (ready.get F.ecuFacet_retired) 7 = false ∧ 3583 < ready.unitFrames 7 ∧ some8.get (F.ecuSpare_base_rows 7) ≠ 0 ∧
      none8.get (F.ecuSpare_base_rows 7) = 0 ∧ nget none8.ecu.badFrames false (frameKey 7 3583) = false ∧
      none8.useOf 7 3583 = .free) ∧
    (t.ticks / 25000 % 4 = 2 ∧ t.ecu.copyB.busy = none ∧ ready.ticks / 25000 % 4 ≠ 2) ∧
    (∀ b, ((busy b).logCopy b).busy = some 5) ∧
    (MayQuad cut .pf 31 ∧ cut.get F.ecuCutCtl_state = 4 ∧ bit (cut.get F.ecuCutSet_quadrants) 31 = true ∧
      cut.get F.ecuCutCtl_mailbox = 15) := by
  unfold MayQuad
  decide +kernel

/-- A section whose first step is a GATE HOST on mailbox 0. -/
def gated : Section := sect (image [stp 8 4 (5 * 2 ^ 68), stp 3 4 0])

/-- Quadrant 24, owned by partition 3, forms the set of a cut into pages 100 to 130; its command stands at the gate. -/
def cutSet (st : Nat) (c : Option Cmd) : State :=
  let s := (((((((ready.set (F.secQuadOwn_en 24) 1).set (F.secQuadOwn_part 24) 3).set F.ecuCutSet_quadrants (2 ^ 24)).set
    F.ecuCutAddr_addr 100).set F.ecuCutCtl_state st).set (F.seqSlotCtx_bound 24 0) 1).set (F.mgtCtxCfg_part 0) 3).modQuad 24 fun x =>
      { x with committed := some gated, slots := match c with | some y => [(0, { Slot.init with cmd := some y })] | none => [] }
  { s with pages := (List.range 31).map fun i => (100 + i, (2 ^ 63 + 3 * 2 ^ 57 : Pte)) }

/-- A part of quadrant 24 as a cut wrote it. -/
def part24 : CutPart :=
  ⟨0, 0, 0, 3, 24, 0, 0, 0, ⟨gated, false, 3, Lattice.init, [(0, { Slot.init with cmd := some cmd0 })], [], [], [], [], [], [], [], 0⟩⟩

/-- A page holds the header that a cut wrote to it. -/
theorem cutHolds_cutStore (s : State) (p : Nat) (x : CutPart) (h : (s.page p).valid = true) :
    (s.cutStore p x).cutHolds p x = true := by
  have hp : (s.cutStore p x).page p = s.page p := rfl
  simp only [State.cutHolds, hp, h, Bool.true_and, decide_eq_true_eq]
  have hl : x.header.length = 256 := by simp [CutPart.header]
  refine List.ext_getElem (by simp [hl]) fun i h1 h2 => ?_
  have := s.rawWrite_read (s.page p).unit (s.page p).frame 0 x.header i h2
  simpa [State.cutStore] using this

/-- The region of quadrant 24 after a cut. -/
def cutBackState : State :=
  let s := cutSet 0 none
  ({ s with ecu := { s.ecu with cuts := [(100, some part24)] } } : State).cutStore 100 part24

theorem witness_ConsistentCut_region : cutBackState.cutAt 100 = some part24 := by
  have h : cutBackState.cutHolds 100 part24 = true := cutHolds_cutStore _ _ _ (by decide +kernel)
  have c : nget cutBackState.ecu.cuts none 100 = some part24 := by decide +kernel
  simp [State.cutAt, c, h]

theorem witness_ConsistentCut :
    let held := some { cmd0 with hold := some ⟨5, 0, 0, 0⟩ }
    let v := fun (op : Nat) => BitVec.ofNat 32 (2 ^ 31 + op * 2 ^ 28)
    isPf .pf = true ∧ (∀ op < 4, vbit (v op) 31 = true ∧ vbits (v op) 30 28 = op ∧ vbits (v op) 27 24 = 0) ∧
    ready.cutRefused .pf = true ∧ (cutSet 0 none).cutRefused .pf = false ∧
    (∀ st < 5, (cutSet st held).get F.ecuCutCtl_state = st) ∧ (cutSet 1 held).cutParts = [(24, 100)] ∧
    (cutSet 1 held).atCut 24 = true ∧ ((cutSet 2 held).quad 24).descs = [] ∧ ((cutSet 2 held).quad 24).timed = [] ∧
    (cutSet 2 held).chord.trans = [] ∧
    (cutBackState.cutParts = [(24, 100)] ∧ (cutBackState.set F.ecuCutCtl_mailbox 0).cutFits .pf part24 = true) := by
  decide +kernel

end Sys2Proof.Tests
end

