-- ==== Sys2Proof/Tests/Witness8.lean ====
section
/-! SUPPORT. Witnesses of the statements about security, management and the resets. -/

set_option Elab.async false

namespace Sys2Proof.Tests

open Sys2Proof Sys2Proof.Machine Sys2Proof.Safety

theorem witness_UnlistedAndDisabledOffsets :
    let off : State := { ready with fuses := { ready.fuses with dEn := 0 } }
    off.active 0 = false ∧ off.active 23 = false ∧ off.answering = true ∧ MsgPath.pcie ≠ .chord ∧ 0x3FFFF < 0x40000 ∧
      ∀ a ∈ [0x6, 0xFFFFFC, 0x1800000, 0x1FFFFFC], findReg a = none ∧ ¬ (0x100200 ≤ a ∧ a < 0x100630) ∧
        ¬ (0x100700 ≤ a ∧ a < 0x100790) ∧ ¬ (0x280000 ≤ a ∧ a < 0x2C0000) ∧ ¬ (0x300040 ≤ a ∧ a < 0x300080) := by
  decide +kernel

/-- Quadrant 31 with and without an owner, a lock, a section, and a scrub. -/
theorem witness_OwnersAndScrubs :
    let owned := (ready.set (F.secQuadOwn_en 31) 1).set (F.secQuadOwn_part 31) 15
    let locked := ready.set F.secLock_part_map 1
    let full := owned.modQuad 31 fun x => { x with committed := some (sect []) }
    let scrub := owned.modQuad 31 fun x => { x with scrub := some 5 }
    let v : Lane := 0x80000003
    isPf .pf = true ∧ locked.on F.secLock_part_map = true ∧
    (∀ s ∈ [owned, full, scrub, ready], s.on F.secLock_part_map = false ∧
      (vbits v 31 31 ≠ s.get (F.secQuadOwn_en 31) ∨ vbits v 3 0 ≠ s.get (F.secQuadOwn_part 31))) ∧
    (vbits 0 31 31 = ready.get (F.secQuadOwn_en 31) ∧ vbits 0 3 0 = ready.get (F.secQuadOwn_part 31)) ∧
    (full.quad 31).committed ≠ none ∧
    (∀ s ∈ [owned, ready], (∀ n, n < 8 → s.ctxOf 31 n = none) ∧ (s.quad 31).committed = none ∧ s.get (F.seqSecStat_shadow 31) = 0 ∧
      (s.quad 31).pre = none ∧ (s.quad 31).scrub = none) ∧
    (owned.get (F.secQuadOwn_en 31) = 1 ∧ ready.get (F.secQuadOwn_en 31) = 0) ∧
    ((scrub.quad 31).scrub = some 5 ∧ (scrub.quad 31).deferred = []) := by
  decide +kernel

/-- Slot 63 for partition 15: free, holding another partition's key, and open to far encryption. Whether a blob unwraps is a free
value where the partition has a KEK; without one it does not. -/
theorem witness_CountersMeasurementsAndKeys :
    let v : Lane := 0x80000008
    let busy := (ready.set (F.secKeyAttr_kind 63) 1).set (F.secKeyAttr_part 63) 3
    let xts := (ready.set (F.secKeyAttr_kind 63) 2).set (F.secKeyAttr_part 63) 15
    let own := ready.set (F.secVfPart_en 0) 1
    isPf .pf = true ∧ vbit v 31 = true ∧ 8 ≤ vbits v 3 0 ∧ vbits 0x80000007 3 0 < 8 ∧
    (ready.actsFor .pf 15 = true ∧ ready.keyBusy 63 15 = false ∧ ready.unwrap 15 32 = none ∧ ready.unwrap 15 64 = none) ∧
    (busy.actsFor .pf 15 = true ∧ busy.keyBusy 63 15 = true) ∧
    (ready.mayWrite (.vf 0) .perOp = true ∧ ready.actsFor (.vf 0) 15 = false ∧ isPf (.vf 0) = false) ∧
    ((ready.set F.secLock_kek 1).on F.secLock_kek = true ∧ ready.on F.secLock_kek = false) ∧
    (ready.mayWrite .pf (.part (some 15)) = true ∧ ready.on F.secLock_far_crypt = false ∧ vbits 0x8000003F 5 0 = 63 ∧
      (xts.farMapped 15 = false ∧ xts.get (F.secKeyAttr_kind 63) = 2 ∧ xts.get (F.secKeyAttr_part 63) = 15) ∧
      ready.get (F.secKeyAttr_kind 63) ≠ 2 ∧ (ready.set F.secLock_far_crypt 1).on F.secLock_far_crypt = true) ∧
    own.actsFor (.vf 0) 0 = true := by
  decide +kernel

/-- An unwrapped key, and a KEK: either outcome of the free value meets one of the clauses. -/
theorem witness_CountersMeasurementsAndKeys_free (s : State) (p n : Nat) :
    s.unwrap p n = none ∨ ∃ k, s.unwrap p n = some k := by
  cases s.unwrap p n with
  | none => exact .inl rfl
  | some k => exact .inr ⟨k, rfl⟩

theorem witness_AttestationMessages :
    let at_ := fun (a b : Bool) => { ready with sec := { ready.sec with spdmVersion := a, spdmAlgs := b } }
    let att := { ready with sec := { ready.sec with att := some (4095, 0) } }
    State.reset.answering = false ∧ ready.answering = true ∧ ready.sec.spdmVersion = false ∧ ready.sec.spdmAlgs = false ∧
    (at_ true false).sec.spdmVersion = true ∧ (at_ true true).sec.spdmAlgs = true ∧ (at_ true true).answering = true ∧
    (15 ∈ measBlocks ∧ (16 : Byte).toNat = 15 + 1 ∧ 0 ∈ measBlocks ∧ (1 : Byte).toNat = 0 + 1 ∧
      ∀ i ∈ measBlocks, i + 1 ≠ (17 : Byte).toNat) ∧
    (isPf .pf = true ∧ (ready.set F.secAttCtl_busy 1).on F.secAttCtl_busy = true ∧ ready.on F.secAttCtl_busy = false ∧
      vbit 0x80000000 31 = true) ∧
    (att.sec.att = some (4095, 0) ∧ 4095 < 4096 ∧ ready.sec.att = none) := by
  decide +kernel

/-- A token is refused when debug is locked; whether one is valid is a free value. -/
theorem witness_TestAccess :
    let locked := ready.set F.secLock_debug 1
    locked.on F.secLock_debug = true ∧ ready.get F.secStat_debug = 0 ∧ ready.on F.secLock_debug = false ∧
      ready.mgmt.perst = false ∧ ({ ready with mgmt := { ready.mgmt with perst := true } } : State).mgmt.perst = true := by
  decide +kernel

/-- Boundary readings with light on every wavelength. -/
def readings : EpochReadings := ⟨[1300, 2000], [], [], [], [], 0⟩

theorem readings_lit : ∀ x ∈ readings.laser, 1300 ≤ signed 16 x.toNat := by
  have h : readings.laser.all (fun x => decide (1300 ≤ signed 16 x.toNat)) = true := by decide +kernel
  simpa using h

theorem witness_PendingTarget :
    isPf .pf = true ∧ vbits 0x40000000 31 30 = 1 ∧ vbits 0x80000000 31 30 = 2 ∧ ready.mgmt.resetting = false ∧
      ∀ x ∈ readings.laser, 1300 ≤ signed 16 x.toNat :=
  ⟨by decide +kernel, by decide +kernel, by decide +kernel, by decide +kernel, readings_lit⟩

theorem witness_PowerAndTemperature :
    let shed := { ready with mgmt := { ready.mgmt with shedPin := true, throtPin := true } }
    let off := { ready with mgmt := { ready.mgmt with off := true } }
    let cal := { ready with mgmt := { ready.mgmt with recal := [(11, some (31, true))] } }
    (ready.mgmt.resetting = false ∧ ready.on F.mgtStartStat_ready = true ∧ ready.mgmt.shed = false ∧ ready.mgmt.hot = false ∧
      ready.mgmt.throt = false ∧ ready.mgmt.latchShed = false ∧ ready.mgmt.latchThrot = false) ∧
    (ready.mgmt.off = false ∧ ready.mgmt.shedPin = false ∧ ready.mgmt.throtPin = false ∧ State.reset.on F.mgtStartStat_ready = false ∧
      State.reset.mgmt.off = false ∧ State.reset.mgmt.shedPin = false) ∧
    (shed.mgmt.shedPin = true ∧ shed.mgmt.throtPin = true ∧ off.mgmt.off = true) ∧
    (([0x0419, 0x8000] : List (BitVec 16)).all (fun x => decide (signed 16 x.toNat < 1050)) = true ∧
      1050 ≤ signed 16 (0x041A : BitVec 16).toNat ∧ signed 16 (0x045F : BitVec 16).toNat < 1120 ∧
      1120 ≤ signed 16 (0x0460 : BitVec 16).toNat) ∧
    (2 ≤ (ready.set F.mgtStartStat_step 2).get F.mgtStartStat_step ∧ bit (0x20 : BitVec 16).toNat 5 = true ∧
      bit (0x10 : BitVec 16).toNat 4 = true ∧ bit (0x8 : BitVec 16).toNat 5 = false ∧ bit (0x8 : BitVec 16).toNat 4 = false) ∧
    (ready.set F.ecuStat_halted 1).on F.ecuStat_halted = true ∧
    (isPf .pf = true ∧ vbit 0x80000000 31 = true ∧ ready.on F.mgtRecalCtl_busy = false ∧ vbits 0x80000000 8 5 < 12 ∧
      ready.chanGone 0 0 = false ∧ nget ready.mgmt.recal none 0 = none ∧ ¬ vbits 0x800001FF 8 5 < 12) ∧
    (nget cal.mgmt.recal none 11 = some (31, true) ∧ nget cal.mgmt.recal none 0 = none) := by
  decide +kernel

/-- Where the slowing of facets is on record already, SHED#, THROT# and a hot sensor leave the records of causes as they are. -/
theorem witness_PowerAndTemperature_steady :
    let u := { ready with acct := { ready.acct with causes := 2 } }
    ∀ o ∈ [execShedAssert u, execThrotAssert u, execThermalSample [0x41A] u], match o with
      | .next t => ∀ k < 4, 1 ≤ k → bit u.acct.causes k = t.causeOn k
      | _ => False := by
  intro u o h
  have h1 : o = execShedAssert u ∨ o = execThrotAssert u ∨ o = execThermalSample [0x41A] u := by simpa using h
  rcases h1 with rfl | rfl | rfl <;> (show ∀ k < 4, 1 ≤ k → bit u.acct.causes k = State.causeOn _ k) <;> decide +kernel

theorem witness_FirmwareOperations :
    let m := fun (f : Mgmt → Mgmt) => { ready with mgmt := f ready.mgmt }
    let busy := ready.set F.mgtFwCtl_busy 1
    let w := m fun x => { x with written := true }
    let wr := m fun x => { x with writing := some [1] }
    let rs := fun (a b : FwSlot) => m fun x => { x with resetting := true, flash := ⟨a, b, none, none⟩ }
    let good := fun (s : State) (b : Bool) => (s.mgmt.flash.slot b).signed && decide (s.fuses.svn ≤ (s.mgmt.flash.slot b).svn)
    isPf .pf = true ∧ busy.on F.mgtFwCtl_busy = true ∧ ready.on F.mgtFwCtl_busy = false ∧ w.mgmt.written = true ∧
      ready.mgmt.written = false ∧ (ready.set F.mgtFwCtl_trial 1).on F.mgtFwCtl_trial = true ∧ ready.on F.mgtFwCtl_trial = false ∧
      wr.mgmt.writing = some [1] ∧ ready.mgmt.writing = none ∧ (m fun x => { x with off := true }).mgmt.off = true ∧
      ready.mgmt.off = false ∧ ready.on F.mgtStartStat_ready = true ∧ ready.mgmt.resetting = false ∧
    (∀ e ∈ [(FwSlot.shipped, FwSlot.shipped), (.erased, .shipped), (.erased, .erased)],
      (rs e.1 e.2).mgmt.resetting = true ∧ (rs e.1 e.2).mgmt.flash.current.trial = false ∧ (rs e.1 e.2).mgmt.otherSlot = false ∧
        (rs e.1 e.2).mgmt.stuck = false ∧ (rs e.1 e.2).mgmt.flash.current.slotB = false) ∧
    (good (rs .shipped .shipped) false = true) ∧ (good (rs .erased .shipped) false = false ∧ good (rs .erased .shipped) true = true) ∧
    (good (rs .erased .erased) false = false ∧ good (rs .erased .erased) true = false) := by
  decide +kernel

theorem witness_Resets :
    let m := fun (f : Mgmt → Mgmt) => { ready with mgmt := f ready.mgmt }
    let fenced := ready.set F.ecuFence_fenced (2 ^ 31)
    let bound := ready.set (F.seqSlotCtx_bound 31 7) 1
    isPf .pf = true ∧ ready.mgmt.off = false ∧ ready.mgmt.perst = false ∧ (m fun x => { x with off := true }).mgmt.off = true ∧
      (m fun x => { x with perst := true }).mgmt.perst = true ∧
    (ready.active 31 = true ∧ ready.idle 31 = true ∧ (∀ n, n < 8 → ready.ctxOf 31 n = none) ∧ (ready.quad 31).pre = none ∧
      ∀ a, a < 7 → ready.get (F.seqPreArea_state 31 a) = 0) ∧
    (fenced.fenced 31 = true ∧ (fenced.quad 31).pre = none ∧ ∀ a, a < 7 → fenced.get (F.seqPreArea_state 31 a) = 0) ∧
    (bound.fenced 31 = false ∧ bound.ctxOf 31 7 ≠ none) ∧ ready.admitted = [] := by
  decide +kernel

theorem witness_Resets_still : NoRemote ready := by
  refine ⟨rfl, fun q i d h => ?_⟩
  cases h

/-- Every step of start-up, its end, and an enabled function. -/
theorem witness_StartUp :
    let at_ := fun (n : Nat) => State.reset.set F.mgtStartStat_step n
    let r : StartupReport := ⟨[31], [13], [11], false, [4], [9]⟩
    let vf := ((ready.set (F.secVfPart_en 31) 1).set (F.secVfPart_part 31) 15).set (F.mgtCtxCfg_en 63) 1
    (∀ n < 7, (at_ n).get F.mgtStartStat_step = n ∧ (at_ n).mgmt.off = false ∧ (at_ n).on F.mgtStartStat_ready = false ∧
      (at_ n).mgmt.stuck = false ∧ (at_ n).on F.ecuStat_halted = false) ∧
    r.rimNFail = false ∧ ({ r with rimNFail := true } : StartupReport).rimNFail = true ∧
    ready.on F.mgtStartStat_ready = true ∧ (at_ 6).active 31 = true ∧ r.farFrames.length ≤ 8 ∧
    (ready.on (F.secVfPart_en 31) = false ∧ vf.on (F.secVfPart_en 31) = true ∧ vf.get (F.secVfPart_part 31) = 15 ∧
      (vf.set (F.mgtCtxCfg_part 63) 15).on (F.mgtCtxCfg_en 63) = true ∧
      (vf.set (F.mgtCtxCfg_part 63) 15).get (F.mgtCtxCfg_part 63) = 15) := by
  decide +kernel

end Sys2Proof.Tests
end

/-! # The register bus at offsets that hold no register, and in the block of a disabled quadrant -/

namespace Sys2Proof.Machine

open Safety

/-! ## Offsets in a quadrant block (R28) -/

theorem quadBlock_add_sub_base (q r : Nat) : quadBlock q + r - 0x1000000 = q * 0x40000 + r := by
  unfold quadBlock
  omega

/-- The block index that the bus computes from an offset is the quadrant whose block holds it. -/
theorem quadBlock_index (q : Nat) {r : Nat} (h : r < 0x40000) : (quadBlock q + r - 0x1000000) / 0x40000 = q := by
  rw [quadBlock_add_sub_base]
  omega

theorem base_le_quadBlock_add (q r : Nat) : 0x1000000 ≤ quadBlock q + r := by
  unfold quadBlock
  omega

/-- Every offset of a quadrant block fits the 25 bits of a BAR0 offset. -/
theorem toNat_ofNat_quadBlock_add (q : Fin 32) {r : Nat} (h : r < 0x40000) :
    (BitVec.ofNat 25 (quadBlock q + r)).toNat = quadBlock q + r := by
  rw [BitVec.toNat_ofNat, Nat.mod_eq_of_lt]
  unfold quadBlock
  omega

theorem nth_val_eq {k : Nat} (i : Fin k) (h : 0 < k) : nth k i h = i := Fin.ext (Nat.mod_eq_of_lt i.isLt)

/-! ## Reads -/

/-- An offset that the originator may not read gives zero, and the read has no effect (R492). -/
theorem State.busRead_of_not_mayRead {s : State} {o : Orig} {off : Nat} (h : s.mayRead o off = false) :
    s.busRead o off = (0, s) := by
  simp [State.busRead, h]

/-- Where no register stands, a read gives the word of a window there or zero, and has no effect. -/
theorem State.busRead_of_findReg_none (s : State) (o : Orig) {off : Nat} (h : findReg off = none) :
    s.busRead o off = (if s.mayRead o off then s.windowValue off else 0, s) := by
  cases hr : s.mayRead o off
  · simp [State.busRead_of_not_mayRead hr]
  · simp [State.busRead, hr, h]

/-- Outside the windows of SEC_MEAS, of the two logs and of REQ_PEEK there is nothing to read (R29). -/
theorem State.windowValue_eq_zero (s : State) {off : Nat} (hmeas : ¬ (0x100200 ≤ off ∧ off < 0x100600))
    (hlog : ¬ (0x280000 ≤ off ∧ off < 0x2C0000)) (hpeek : ¬ (0x300040 ≤ off ∧ off < 0x300080)) :
    s.windowValue off = 0 := by
  have hring : ¬ (0x280000 ≤ off ∧ off < 0x2A0000) := by omega
  have hprev : ¬ (0x2A0000 ≤ off ∧ off < 0x2C0000) := by omega
  simp [State.windowValue, hmeas, hring, hprev, hpeek]

/-- Nobody may read the block of a disabled quadrant (R7). -/
theorem State.mayRead_quadBlock_off (s : State) (o : Orig) (q : Nat) {r : Nat} (hr : r < 0x40000)
    (h : s.active q = false) : s.mayRead o (quadBlock q + r) = false := by
  have hoff : ¬ quadBlock q + r < 0x1000000 := Nat.not_lt.2 (base_le_quadBlock_add q r)
  simp [State.mayRead, hoff, quadBlock_index q hr, h]

theorem next_wideLowRead_of_busRead {s : State} {o : Orig} {off : BitVec 25} (h : s.busRead o off.toNat = (0, s)) :
    Next (.wideLowRead off o) s (fun t => t.readData = 0 ∧ t = { s with readData := 0 }) :=
  ⟨_, rfl, by simp [h, State.answer]⟩

/-- A management message that reads zero is answered with four zero bytes (R517). -/
theorem next_mctpRegisterRead_of_busRead {s : State} {off : BitVec 25} {p : MsgPath} (hp : p ≠ .chord)
    (ha : s.answering = true) (h : s.busRead .mc off.toNat = (0, s)) :
    Next (.mctpRegisterRead p off) s
      (fun t => t = { s with sent := s.sent ++ [⟨pathCode p, 0, vdmHead ++ [0, 0, 0, 0]⟩] }) :=
  ⟨_, rfl, by simp [mctpPath, hp, ha, h, State.send, show leBytes 4 0 = [0, 0, 0, 0] by decide]⟩

/-! ## Writes -/

/-- What every write of the offset keeps, a REGISTER_WRITE keeps, alone or with a second write in its cycle (R26). -/
theorem next_registerWrite_of_keeps {s : State} {off : BitVec 25} (o : Orig) (v : Lane) (also : Option (Orig × Lane))
    (P : State → Prop) (hs : P s) (hw : ∀ t o v, P t → P (t.busWrite o off.toNat v)) :
    Next (.registerWrite off o v also) s P := by
  refine ⟨_, rfl, ?_⟩
  match also with
  | none => exact hw _ _ _ hs
  | some (p, w) =>
    dsimp only
    split
    · exact hw _ _ _ (hw _ _ _ hs)
    · exact hw _ _ _ (hw _ _ _ hs)

/-- What a write of a register leaves of the hidden latches: the originator's latch of that register is dropped (R553). -/
def State.dropLatch (s : State) (o : Orig) (off : Nat) : State :=
  { s with wideLatch := nset s.wideLatch none (latchKey off o) none }

@[simp] theorem State.dropLatch_active (s : State) (o : Orig) (off q : Nat) : (s.dropLatch o off).active q = s.active q :=
  rfl

/-- A write of a register drops the originator's latch, then acts as the register's row or its field types give (R24, R553). -/
theorem State.busWrite_of_findReg_some (s : State) (o : Orig) (v : Lane) {off : Nat} {x : Found}
    (hf : findReg off = some x) :
    s.busWrite o off v = ((s.dropLatch o x.off).rowWrite off o v).getD
      (if 0x1000000 ≤ off then
        (s.dropLatch o x.off).guardQuad o ((off - 0x1000000) / 0x40000) off fun t => t.plainWrite o x v
      else (s.dropLatch o x.off).guard o ((s.dropLatch o x.off).scopeOf off) off fun t => t.plainWrite o x v) := by
  simp only [State.busWrite, hf, State.dropLatch]
  cases State.rowWrite _ off o v with
  | none => rfl
  | some t => rfl

/-- Where no register stands, a write reaches a buffer or nothing (R29). -/
theorem State.busWrite_of_findReg_none (s : State) (o : Orig) (v : Lane) {off : Nat} (h : findReg off = none) :
    s.busWrite o off v = s.bufferWrite off o v := by
  simp [State.busWrite, h]

/-- Outside SEC_EXT_DATA and SEC_KEY_BLOB no buffer takes a write. -/
theorem State.bufferWrite_eq_self (s : State) (o : Orig) (v : Lane) {off : Nat}
    (hext : ¬ (0x100600 ≤ off ∧ off < 0x100630)) (hblob : ¬ (0x100700 ≤ off ∧ off < 0x100790)) :
    s.bufferWrite off o v = s := by
  simp [State.bufferWrite, hext, hblob]

/-- A branch that answers `some a` keeps the two outcomes of the branches below it. -/
theorem none_or_some_ite {α : Type} {p : Prop} [Decidable p] {a : α} {x : Option α} (h : x = none ∨ x = some a) :
    (if p then some a else x) = none ∨ (if p then some a else x) = some a := by
  split
  · exact .inr rfl
  · exact h

/-- Every row of the block of a disabled quadrant drops what is written to it (R7). -/
theorem State.quadRow_off {s : State} {q : Fin 32} (r : Nat) (o : Orig) (v : Lane) (h : s.active q = false) :
    s.quadRow q r o v = none ∨ s.quadRow q r o v = some s := by
  have hg : ∀ off k, s.guardQuad o q off k = s := fun off k => s.guardQuad_off o q off k h
  simp only [State.quadRow, State.secCtl, State.preWrite, execSlotBind, execCqPush, execSeqNflagWrite, execFnInstall,
    execSeqMboxWrite, execWheelWrite, execDigRingEnable, execSnap, Out.state, hg, ite_self]
  repeat' apply none_or_some_ite
  exact .inl rfl

/-- The bus finds the row of an offset of a quadrant block in the rows of that quadrant. -/
theorem State.rowWrite_quadBlock (s : State) (o : Orig) (v : Lane) (q : Fin 32) {r : Nat} (hr : r < 0x40000) :
    s.rowWrite (quadBlock q + r) o v = s.quadRow q r o v := by
  have hbase : 0x1000000 ≤ quadBlock q + r := base_le_quadBlock_add q r
  simp only [State.rowWrite, hbase, if_true, quadBlock_index _ hr, nth_val_eq, Nat.add_sub_cancel_left]

/-- A write to the block of a disabled quadrant changes at most the hidden latch of a 64-bit read (R7, R553). -/
theorem State.busWrite_quadBlock_off (s : State) (o : Orig) (v : Lane) (q : Fin 32) {r : Nat} (hr : r < 0x40000)
    (h : s.active q = false) :
    ∃ l, s.busWrite o (quadBlock q + r) v = { s with wideLatch := l } := by
  have hbase : 0x1000000 ≤ quadBlock q + r := base_le_quadBlock_add q r
  cases hf : findReg (quadBlock q + r) with
  | none =>
    exact ⟨s.wideLatch, by
      rw [State.busWrite_of_findReg_none s o v hf, State.bufferWrite_eq_self s o v (by omega) (by omega)]⟩
  | some x =>
    have ht := (s.dropLatch_active o x.off q).trans h
    have hwrite : s.busWrite o (quadBlock q + r) v = s.dropLatch o x.off := by
      rw [s.busWrite_of_findReg_some o v hf, State.rowWrite_quadBlock _ o v q hr, if_pos hbase, quadBlock_index _ hr,
        State.guardQuad_off _ _ _ _ _ ht]
      rcases State.quadRow_off r o v ht with hq | hq
      · rw [hq, Option.getD_none]
      · rw [hq, Option.getD_some]
    exact ⟨_, hwrite⟩

/-- A command that goes through the guard of a disabled quadrant changes nothing (R7). -/
theorem next_self_of_guardQuad_off {c : Instr} {s : State} {o : Orig} {q off : Nat} {k : State → State}
    (h : s.active q = false) (hc : exec c s = .next (s.guardQuad o q off k)) : Next c s (fun t => t = s) :=
  ⟨_, hc, s.guardQuad_off o q off k h⟩

/-! ## The block of a disabled quadrant (R7) -/

section Disabled

variable {s : State} {q : Fin 32} {r : Nat} (hr : r < 0x40000) (h : s.active q = false)

include hr h

theorem State.busRead_quadBlock_off (o : Orig) :
    s.busRead o (BitVec.ofNat 25 (quadBlock q + r)).toNat = (0, s) := by
  rw [toNat_ofNat_quadBlock_add q hr]
  exact State.busRead_of_not_mayRead (s.mayRead_quadBlock_off o q hr h)

theorem next_registerWrite_quadBlock_off (o : Orig) (v : Lane) (also : Option (Orig × Lane)) :
    Next (.registerWrite (BitVec.ofNat 25 (quadBlock q + r)) o v also) s
      (fun t => t = { s with wideLatch := t.wideLatch }) := by
  have hkeeps := next_registerWrite_of_keeps (off := BitVec.ofNat 25 (quadBlock q + r)) o v also
    (fun t => ∃ l, t = { s with wideLatch := l }) ⟨s.wideLatch, rfl⟩ (by
      rintro _ o v ⟨l, rfl⟩
      rw [toNat_ofNat_quadBlock_add q hr]
      exact State.busWrite_quadBlock_off { s with wideLatch := l } o v q hr h)
  obtain ⟨_, ht, l, rfl⟩ := hkeeps
  exact ⟨_, ht, rfl⟩

end Disabled

/-! ## Offsets on which nothing stands (R29) -/

section Unlisted

variable {off : BitVec 25} (hf : findReg off.toNat = none)

include hf

theorem State.busRead_unlisted (s : State) (o : Orig) (hw : s.windowValue off.toNat = 0) :
    s.busRead o off.toNat = (0, s) := by
  rw [s.busRead_of_findReg_none o hf, hw, ite_self]

theorem next_registerWrite_unlisted (s : State) (o : Orig) (v : Lane) (also : Option (Orig × Lane))
    (hext : ¬ (0x100600 ≤ off.toNat ∧ off.toNat < 0x100630)) (hblob : ¬ (0x100700 ≤ off.toNat ∧ off.toNat < 0x100790)) :
    Next (.registerWrite off o v also) s (fun t => t = s) := by
  refine next_registerWrite_of_keeps o v also _ rfl fun t o v ht => ?_
  rw [State.busWrite_of_findReg_none t o v hf, State.bufferWrite_eq_self t o v hext hblob, ht]

end Unlisted

/-- Settles O51: the read guard turns every originator away from the block of a disabled quadrant and the write guard drops
what is written there (R7); elsewhere an offset that the register table and the windows leave out has no meaning (R29). -/
theorem unlistedAndDisabledOffsets : Obligations.UnlistedAndDisabledOffsets := by
  intro s o v also
  refine ⟨fun q r n m w hr h =>
    ⟨next_wideLowRead_of_busRead (State.busRead_quadBlock_off hr h o),
      fun p hp ha => next_mctpRegisterRead_of_busRead hp ha (State.busRead_quadBlock_off hr h .mc),
      next_registerWrite_quadBlock_off hr h o v also, ?_⟩,
    fun off hf hsec hblob hlog hpeek => ⟨?_, ?_⟩⟩
  · simp only [List.forall_mem_cons, List.not_mem_nil, false_imp_iff, implies_true, and_true]
    and_intros <;> exact next_self_of_guardQuad_off h rfl
  · exact next_wideLowRead_of_busRead (State.busRead_unlisted hf s o (s.windowValue_eq_zero (by omega) hlog hpeek))
  · exact next_registerWrite_unlisted hf s o v also (by omega) hblob

end Sys2Proof.Machine

/-! # The passage of reference time leaves the management controller and the number of the boot alone -/

namespace Sys2Proof.Machine

@[simp] theorem State.ite_mgmt (c : Prop) [Decidable c] (t u : State) :
    (if c then t else u).mgmt = if c then t.mgmt else u.mgmt := apply_ite State.mgmt c t u

@[simp] theorem State.ite_boot (c : Prop) [Decidable c] (t u : State) :
    (if c then t else u).boot = if c then t.boot else u.boot := apply_ite State.boot c t u

/-- The management controller and the number of the boot are the same in two states. -/
@[simp] abbrev SameMgmt (s t : State) : Prop := t.mgmt = s.mgmt ∧ t.boot = s.boot

@[simp] theorem foldl_sameMgmt {α : Type} (f : State → α → State)
    (h : ∀ t a, SameMgmt t (f t a)) (l : List α) (s : State) : SameMgmt s (l.foldl f s) :=
  foldl_keeps (SameMgmt s) f (fun t a ht => ⟨(h t a).1.trans ht.1, (h t a).2.trans ht.2⟩) l s ⟨rfl, rfl⟩

section SameMgmt

variable (s : State)

/-! ## Events, accounting and writes of the tiers -/

@[simp] theorem State.post_sameMgmt (e : Ev) : SameMgmt s (s.post e) := by
  rw [State.post_eq]
  exact ⟨rfl, rfl⟩

@[simp] theorem State.postRim_sameMgmt (code cls arg : Nat) (part : Option Nat) (orig : Nat) :
    SameMgmt s (s.postRim code cls arg part orig) :=
  s.post_sameMgmt _

@[simp] theorem State.postQuad_sameMgmt (code cls q : Nat) (slot site : Option Nat) (arg : Nat) :
    SameMgmt s (s.postQuad code cls q slot site arg) :=
  s.post_sameMgmt _

@[simp] theorem State.postReq_sameMgmt (code cls id unit part : Nat) : SameMgmt s (s.postReq code cls id unit part) :=
  s.post_sameMgmt _

@[simp] theorem State.acctAdd_sameMgmt (q n k v : Nat) : SameMgmt s (s.acctAdd q n k v) := by
  unfold State.acctAdd
  split <;> exact ⟨rfl, rfl⟩

@[simp] theorem State.heal_sameMgmt (addr n : Nat) : SameMgmt s (s.heal addr n) := by
  rw [State.heal_eq]
  exact ⟨rfl, rfl⟩

@[simp] theorem State.writeByte_sameMgmt (addr : Nat) (b : Byte) : SameMgmt s (s.writeByte addr b) := by
  rw [State.writeByte_eq]
  exact ⟨rfl, rfl⟩

@[simp] theorem State.writeAt_sameMgmt (addr : Nat) (b : List Byte) : SameMgmt s (s.writeAt addr b) := by
  have h := State.writeBytes_keeps (SameMgmt s) (fun t a x ht => by simpa using ht) b addr s ⟨rfl, rfl⟩
  simpa [State.writeAt] using h

@[simp] theorem State.drainCommit_sameMgmt (q c : Nat) : SameMgmt s (s.drainCommit q c) := by
  simp [State.drainCommit]

/-! ## The end of a command and of its requests (R221, R402, R410) -/

@[simp] theorem State.cutFence_sameMgmt (q : Nat) : SameMgmt s (s.cutFence q) := by
  simp [State.cutFence, State.failCut]

@[simp] theorem State.record_sameMgmt (i p : Nat) (e : ReqEntry) (rcd : List Byte) :
    SameMgmt s (s.record i p e rcd) := by
  simp [State.record, State.cqStop, State.cqWrite]

@[simp] theorem State.dropPage_sameMgmt (k p : Nat) : SameMgmt s (s.dropPage k p) := by
  simp [State.dropPage]

@[simp] theorem State.retire_sameMgmt (i : Nat) : SameMgmt s (s.retire i) := by
  simp [State.retire, State.releasePages]

@[simp] theorem State.endIds_sameMgmt (ids : List Nat) (code prog : Nat) : SameMgmt s (s.endIds ids code prog) := by
  simp [State.endIds, State.endRequest, State.ringPut]

@[simp] theorem State.breakGroups_sameMgmt (q : Nat) (img : List Byte) (c : Cmd) (code prog : Nat) :
    SameMgmt s (s.breakGroups q img c code prog) := by
  simp [State.breakGroups, State.breakGroup]

@[simp] theorem State.reportHold_sameMgmt (q n fc : Nat) : SameMgmt s (s.reportHold q n fc) := by
  unfold State.reportHold
  split
  · exact ⟨rfl, rfl⟩
  · exact foldl_sameMgmt _ (fun t id => by split <;> simp) _ s

@[simp] theorem State.closeHold_sameMgmt (q n : Nat) : SameMgmt s (s.closeHold q n) := by
  unfold State.closeHold
  split
  · exact ⟨rfl, rfl⟩
  · simp

@[simp] theorem State.closeWindows_sameMgmt (q n : Nat) : SameMgmt s (s.closeWindows q n) := by
  simp [State.closeWindows]

@[simp] theorem State.complete_sameMgmt (q n tag code : Nat) (irq : Bool) :
    SameMgmt s (s.complete q n tag code irq) := by
  simp [State.complete]

@[simp] theorem State.endTrans_sameMgmt (sel : Trans → Bool) : SameMgmt s (s.endTrans sel) :=
  foldl_sameMgmt _ (fun t e => by split <;> simp [State.freeTag]) _ s

@[simp] theorem State.finishOne_sameMgmt (q n code prog : Nat) : SameMgmt s (s.finishOne q n code prog) := by
  unfold State.finishOne
  split
  · exact ⟨rfl, rfl⟩
  · simp

@[simp] theorem State.finish_sameMgmt (q n code prog : Nat) : SameMgmt s (s.finish q n code prog) := by
  simp only [State.finish]
  split
  · simp
  · split <;> simp

@[simp] theorem State.endSlot_sameMgmt (q n code prog : Nat) : SameMgmt s (s.endSlot q n code prog) := by
  simp [State.endSlot, State.flushQueue]

@[simp] theorem State.endSlotContext_sameMgmt (q n code prog : Nat) : SameMgmt s (s.endSlotContext q n code prog) := by
  unfold State.endSlotContext
  split <;> simp [State.endContext]

@[simp] theorem State.endCmd_sameMgmt (q n : Nat) (e : Code × Option Code) : SameMgmt s (s.endCmd q n e) := by
  simp only [State.endCmd]
  split <;> simp

@[simp] theorem State.causeEnd_sameMgmt (q n : Nat) (code : Code) (ctx : Bool) :
    SameMgmt s (s.causeEnd q n code ctx) := by
  unfold State.causeEnd
  split
  · exact ⟨rfl, rfl⟩
  · simp

/-! ## Words that land and holds (R182, R272) -/

@[simp] theorem State.overflow_sameMgmt (code q n resource at_ : Nat) (site : Option Nat) :
    SameMgmt s (s.overflow code q n resource at_ site) := by
  simp [State.overflow, State.resourceFault, State.idleFault, State.secFault]

@[simp] theorem State.landWord_sameMgmt (q : Nat) (w : RxWord) : SameMgmt s (s.landWord q w) := by
  have harrive (t : State) (ch : Nat) : SameMgmt t (t.arrive q ch) := by
    simp [State.arrive]
  have howe (t : State) (k p : Nat) : SameMgmt t (t.owe k p) := by
    simp [State.owe]
  unfold State.landWord
  cases w.chan <;> cases w.frees <;> simp [State.sectorWord, harrive, howe]

@[simp] theorem State.landWords_sameMgmt (q v : Nat) : SameMgmt s (s.landWords q v) := by
  simp [State.landWords]

@[simp] theorem State.timedDone_sameMgmt (q : Nat) : SameMgmt s (s.timedDone q) := by
  simp [State.timedDone, State.countEmit]

@[simp] theorem State.holdMore_sameMgmt (q n v : Nat) : SameMgmt s (s.holdMore q n v) := by
  unfold State.holdMore State.holdTo
  split
  · split <;> simp [State.addHeld, State.epochAdd, State.heldPorts, State.modCmd]
  · exact ⟨rfl, rfl⟩

@[simp] theorem State.skipFc_sameMgmt (q v : Nat) : SameMgmt s (s.skipFc q v) := by
  simp [State.skipFc]

/-! ## One fc of a lattice (R56, R158) -/

@[simp] theorem State.prismAccept_sameMgmt (q t : Nat) (f : Flight) : SameMgmt s (s.prismAccept q t f) := by
  simp only [State.prismAccept]
  split
  · split <;> simp
  · exact ⟨rfl, rfl⟩

@[simp] theorem State.raiseFlags_sameMgmt (q site n : Nat) (f : NFlags) : SameMgmt s (s.raiseFlags q site n f) := by
  simp [State.raiseFlags]

@[simp] theorem State.prismSite_sameMgmt (q t : Nat) (img : List Byte) (acc : List Flight) (site : Nat) :
    SameMgmt s (s.prismSite q t img acc site) := by
  simp [State.prismSite, State.prismApply]

@[simp] theorem State.countCorr_sameMgmt (addr n : Nat) : SameMgmt s (s.countCorr addr n) := by
  simp [State.countCorr, State.countSpan]

@[simp] theorem State.drainWord_sameMgmt (q : Nat) (d : DrainAddr) : SameMgmt s (s.drainWord q d) := by
  simp only [State.drainWord]
  split <;> exact ⟨rfl, rfl⟩

@[simp] theorem State.fillWord_sameMgmt (q site : Nat) (f : FillAddr) : SameMgmt s (s.fillWord q site f) := by
  unfold State.fillWord
  dsimp only
  split
  · exact ⟨rfl, rfl⟩
  · simp

@[simp] theorem State.sectorSite_sameMgmt (q t : Nat) (img : List Byte) (acc : List Flight) (site : Nat) :
    SameMgmt s (s.sectorSite q t img acc site) := by
  simp [State.sectorSite, State.sectorApply]

@[simp] theorem State.edgeArrive_sameMgmt (q b net link : Nat) (it : Item) :
    SameMgmt s (s.edgeArrive q b net link it) := by
  simp [State.edgeArrive]

@[simp] theorem State.edgeSend_sameMgmt (q b net link delay : Nat) (it : Item) :
    SameMgmt s (s.edgeSend q b net link delay it) := by
  unfold State.edgeSend
  split <;> simp

@[simp] theorem State.vertexTick_sameMgmt (q t r : Nat) (img : List Byte) (a : List Flight) (site net : Nat) :
    SameMgmt s (s.vertexTick q t r img a site net) := by
  refine foldl_keeps (SameMgmt s) _ (fun u o hu => ?_) _ _ (by simp [State.collide])
  split
  · exact hu
  · split
    · simpa using hu
    · exact hu

@[simp] theorem State.vertices_sameMgmt (q t : Nat) (a : List Flight) : SameMgmt s (s.vertices q t a) := by
  unfold State.vertices
  split <;> simp

@[simp] theorem State.latTick_sameMgmt (q : Nat) : SameMgmt s (s.latTick q) := by
  simp [State.latTick]

/-! ## A µs of a quadrant -/

@[simp] theorem State.restFc_sameMgmt (qs : List Nat) (n : Nat) : SameMgmt s (State.restFc qs n s) := by
  induction n generalizing s with
  | zero => exact ⟨rfl, rfl⟩
  | succ n ih => simp [State.restFc, ih, State.tickAll, State.advance]

@[simp] theorem State.passFc_sameMgmt (qs : List Nat) (v : Nat) : SameMgmt s (s.passFc qs v) := by
  simp only [State.passFc]
  split <;> simp

@[simp] theorem State.passQuad_sameMgmt (n q : Nat) : SameMgmt s (s.passQuad n q) := by
  simp [State.passQuad, State.passWait, State.passPhase]

end SameMgmt

end Sys2Proof.Machine

/-! # The pending power target (R519) -/

namespace Sys2Proof.Machine

open Safety

/-! ## Power targets -/

/-- Pending target, target in force, the note that the clamp changed it, and a management reset in progress. -/
structure SameTarget (m n : Mgmt) : Prop where
  pending : n.pending = m.pending
  target : n.target = m.target
  clamped : n.clamped = m.clamped
  resetting : n.resetting = m.resetting

theorem SameTarget.refl (m : Mgmt) : SameTarget m m := ⟨rfl, rfl, rfl, rfl⟩

theorem SameTarget.trans {m n p : Mgmt} (h : SameTarget m n) (h' : SameTarget n p) : SameTarget m p :=
  ⟨h'.pending.trans h.pending, h'.target.trans h.target, h'.clamped.trans h.clamped, h'.resetting.trans h.resetting⟩

theorem SameTarget.foldl {α : Type} {f : Mgmt → α → Mgmt} (h : ∀ m a, SameTarget m (f m a)) (l : List α) (m : Mgmt) :
    SameTarget m (l.foldl f m) := by
  induction l generalizing m with
  | nil => exact .refl m
  | cons a r ih => exact (h m a).trans (ih _)

theorem Mgmt.clock_sameTarget (m : Mgmt) (f step duty limiter : Nat) (v : Bool) :
    SameTarget m (m.clock f step duty limiter v) := ⟨rfl, rfl, rfl, rfl⟩

theorem Mgmt.shedClocks_sameTarget (m : Mgmt) : SameTarget m m.shedClocks :=
  .foldl (fun m f => m.clock_sameTarget f 0 1 1 true) _ m

theorem Mgmt.throtClocks_sameTarget (m : Mgmt) : SameTarget m m.throtClocks :=
  .foldl (fun m f => by dsimp only; split <;> exact ⟨rfl, rfl, rfl, rfl⟩) _ m

theorem Mgmt.facetClock_sameTarget (m : Mgmt) (f st d top : Nat) : SameTarget m (m.facetClock f st d top) := by
  unfold Mgmt.facetClock
  dsimp only
  split <;> exact ⟨rfl, rfl, rfl, rfl⟩

theorem Mgmt.thermalCap_sameTarget (m : Mgmt) (f : Nat) : SameTarget m (m.thermalCap f) := by
  unfold Mgmt.thermalCap
  dsimp only
  repeat' split
  all_goals exact ⟨rfl, rfl, rfl, rfl⟩

/-! ## What a boundary leaves alone -/

/-- The clock, the number of the boot, the power targets and MGT_EPOCH are the same in two states. -/
structure Kept (s t : State) : Prop where
  ticks : t.ticks = s.ticks
  boot : t.boot = s.boot
  epoch : t.get F.mgtEpoch_epoch = s.get F.mgtEpoch_epoch
  target : SameTarget s.mgmt t.mgmt

namespace Kept

variable {s t u : State}

theorem refl (s : State) : Kept s s := ⟨rfl, rfl, rfl, .refl _⟩

theorem trans (h : Kept s t) (h' : Kept t u) : Kept s u :=
  ⟨h'.ticks.trans h.ticks, h'.boot.trans h.boot, h'.epoch.trans h.epoch, h.target.trans h'.target⟩

theorem foldl {α : Type} {f : State → α → State} (h : ∀ t a, Kept t (f t a)) (l : List α) (hs : Kept s t) :
    Kept s (l.foldl f t) := foldl_keeps (Kept s) f (fun t a ht => ht.trans (h t a)) l t hs

/-- MGT_EPOCH stands below every register that a boundary writes. -/
theorem set {f : Fld} {v : Nat} (h : Kept s t) (hf : 0x2000 < f.off := by decide) : Kept s (t.set f v) :=
  h.trans ⟨rfl, rfl, t.get_set_ne _ _ _ (by simp only [Fld.key, F.mgtEpoch_epoch]; omega), .refl _⟩

/-- The same for a register of a table. -/
theorem setAt {f : Fld} {v a i : Nat} (h : Kept s t) (hf : f.off = a + i := by rfl) (ha : 0x2000 < a := by omega) :
    Kept s (t.set f v) := h.set (by omega)

theorem modQuad {q : Nat} {f : Quad → Quad} (h : Kept s t) : Kept s (t.modQuad q f) := h.trans ⟨rfl, rfl, rfl, .refl _⟩

theorem post {e : Ev} (h : Kept s t) : Kept s (t.post e) :=
  h.trans ⟨by rw [State.post_eq], by rw [State.post_eq], t.post_get_ne e _ (by decide), by rw [State.post_eq]; exact .refl _⟩

theorem acct {a : Acct} (h : Kept s t) : Kept s { t with acct := a } := h.trans ⟨rfl, rfl, rfl, .refl _⟩

theorem chord {c : Chords} (h : Kept s t) : Kept s { t with chord := c } := h.trans ⟨rfl, rfl, rfl, .refl _⟩

theorem inc {f : Fld} {n : Nat} (h : Kept s t) (hf : 0x2000 < f.off := by decide) : Kept s (t.inc f n) := h.set hf

theorem modM {f : Mgmt → Mgmt} (hf : ∀ m, SameTarget m (f m)) (h : Kept s t) : Kept s (t.modM f) :=
  h.trans ⟨rfl, rfl, rfl, hf _⟩

theorem ite {c : Prop} [Decidable c] (ht : Kept s t) (hu : Kept s u) : Kept s (if c then t else u) := by
  split
  · exact ht
  · exact hu

end Kept

/-! ## The readings and counts of an epoch -/

theorem State.postCounts_kept (s : State) : Kept s s.postCounts := by
  unfold State.postCounts
  extract_lets t1 t2 t3 t4 lost t5
  have h1 : Kept s t1 := .foldl (fun t e => .ite (.refl t) (.modQuad (.post (.refl t)))) _ (.refl s)
  have h2 : Kept s t2 := .foldl (fun t e => .ite (.refl t) (.post (.refl t))) _ h1
  have h3 : Kept s t3 := .foldl (fun t e => .ite (.refl t) (.post (.refl t))) _ h2
  have h4 : Kept s t4 := .ite h3 (.post h3)
  have h5 : Kept s t5 := .ite h4 (.post h4)
  exact h5.trans ⟨rfl, rfl, rfl, .refl _⟩

/-- A reading of +13.00 dBm or more darkens no chord. -/
theorem State.laser_kept (s : State) (i : Nat) {v : Nat} (hv : 1300 ≤ signed 16 v) : Kept s (s.laser i v) := by
  unfold State.laser
  extract_lets was t low chords u
  have ht : Kept s t := .setAt (.refl s)
  have hu : Kept s u := .ite ht (.post (.chord ht))
  rw [if_neg (by omega)]
  exact hu

theorem State.returnLoss_kept (s : State) (k v : Nat) : Kept s (s.returnLoss k v) := by
  unfold State.returnLoss
  extract_lets link t
  have ht : Kept s t := .chord (.setAt (f := F.chdRefl_orl k) (.refl s))
  exact .ite (.post ht) ht

theorem State.stkReadout_kept (s : State) (d n : Nat) : Kept s (s.stkReadout d n) :=
  .ite (.refl s) (.post (.modM (fun _ => ⟨rfl, rfl, rfl, rfl⟩) (.refl s)))

theorem State.sensors_kept (s : State) (r : EpochReadings) (hr : ∀ x ∈ r.laser, 1300 ≤ signed 16 x.toNat) :
    Kept s (s.sensors r) := by
  unfold State.sensors
  extract_lets t1 t2 t3
  have h1 : Kept s t1 := List.foldlRecOn (motive := Kept s) _ _ (.refl s) fun t ht e he =>
    ht.trans (t.laser_kept e.2 (hr e.1 (List.mem_of_mem_take (List.fst_mem_of_mem_zipIdx he))))
  have h2 : Kept s t2 := .foldl (fun t e => .setAt (.setAt (.refl t))) _ h1
  have h3 : Kept s t3 := .foldl (fun t e => t.returnLoss_kept _ _) _ h2
  exact .foldl (fun t e => t.stkReadout_kept _ _) _ h3

theorem State.ageAtt_kept (s : State) : Kept s s.ageAtt :=
  .foldl (fun t e => .setAt (.refl t)) _ (.refl s)

theorem State.holdEnergy_kept (s : State) (r : EpochReadings) : Kept s (s.holdEnergy r) := by
  unfold State.holdEnergy
  refine .modM (fun _ => ?_) (.refl s)
  exact ⟨rfl, rfl, rfl, rfl⟩

/-! ## Telemetry, energy and accounting -/

theorem State.latchTelemetry_kept (s : State) : Kept s s.latchTelemetry := by
  unfold State.latchTelemetry
  extract_lets m b tooHigh t1 t2 t3 t4 n t5
  have h1 : Kept s t1 := .set <| .set <| .set <| .set (.refl s)
  have h2 : Kept s t2 := .set <| .set <| .set <| .set <| .set <| .set <| .set h1
  have h3 : Kept s t3 := .foldl (fun t f => .setAt <| .setAt <| .setAt (.refl t)) _ h2
  have h4 : Kept s t4 := .foldl (fun t d => .setAt <| .setAt (.refl t)) _ h3
  have h5 : Kept s t5 := .modM (fun _ => ⟨rfl, rfl, rfl, rfl⟩) h4
  exact .ite (.post h5) h5

theorem State.attributeAll_kept (s : State) : Kept s s.attributeAll := by
  unfold State.attributeAll
  extract_lets l t acct u
  have hone (t : State) (parts : List (Nat × Nat)) : Kept t (parts.foldl (fun u x => u.acctCtx x.1 6 x.2) t) :=
    .foldl (fun u x => .acct (.refl u)) _ (.refl t)
  have ht : Kept s t := .foldl (fun t e => .acct (hone t _)) _ (.refl s)
  have hu : Kept s u := .acct ht
  exact .inc (.modM (fun _ => ⟨rfl, rfl, rfl, rfl⟩) hu)

theorem State.copyCtx_kept (s : State) (c : Nat) : Kept s (s.copyCtx c) := by
  unfold State.copyCtx
  extract_lets v t
  have ht : Kept s t := .setAt <| .setAt <| .setAt <| .setAt <| .setAt <| .setAt <| .setAt (.refl s)
  exact .foldl (fun u k => .setAt <| .setAt (.refl u)) _ ht

theorem State.acctLatch_kept (s : State) : Kept s s.acctLatch := by
  unfold State.acctLatch
  extract_lets t u
  have ht : Kept s t := .foldl (fun t c => t.copyCtx_kept c) _ (.refl s)
  have hu : Kept s u := .set <| .inc <| .set <| .set ht
  exact .ite (.refl s) (.ite (.modM (fun _ => ⟨rfl, rfl, rfl, rfl⟩) (.acct hu)) hu)

/-! ## Entries of the event log (R480) -/

/-- At most `k` entries are posted from s to t, each in its place of the ring, and what `Kept` names is the same. -/
def Posts (k : Nat) (s t : State) : Prop :=
  Kept s t ∧ ∃ j, j ≤ k ∧ t.get F.ecuLogTail_seq = (s.get F.ecuLogTail_seq + j) % 2 ^ 32 ∧
    ∀ i, (∀ m, m < j → i ≠ (s.get F.ecuLogTail_seq + m) % 4096) → nget t.log [] i = nget s.log [] i

namespace Posts

variable {s t u : State} {k l : Nat}

/-- Nothing is posted where the log and its registers stay. -/
theorem silent (h : Kept s t) (hlog : t.log = s.log) (hregs : t.regs = s.regs) : Posts k s t :=
  ⟨h, 0, Nat.zero_le k, (State.get_congr hregs _).trans (Nat.mod_eq_of_lt (s.get_lt F.ecuLogTail_seq)).symm,
    fun i _ => by rw [hlog]⟩

theorem refl (s : State) : Posts k s s := silent (.refl s) rfl rfl

theorem trans (h : Posts k s t) (h' : Posts l t u) : Posts (k + l) s u := by
  obtain ⟨hst, j, hj, htail, hlog⟩ := h
  obtain ⟨htu, j', hj', htail', hlog'⟩ := h'
  refine ⟨hst.trans htu, j + j', by omega, by rw [htail', htail]; omega, fun i hi => ?_⟩
  rw [hlog' i fun m hm => ?_, hlog i fun m hm => hi m (by omega)]
  have := hi (j + m) (by omega)
  rw [htail]
  omega

theorem modM {f : Mgmt → Mgmt} (hf : ∀ m, SameTarget m (f m)) (h : Posts k s t) : Posts k s (t.modM f) :=
  h.trans (l := 0) (silent (.modM hf (.refl t)) rfl rfl)

theorem acct {a : Acct} (h : Posts k s t) : Posts k s { t with acct := a } :=
  h.trans (l := 0) (silent (.acct (.refl t)) rfl rfl)

theorem post {e : Ev} (h : Posts k s t) : Posts (k + 1) s (t.post e) :=
  h.trans ⟨.post (.refl t), 1, Nat.le_refl 1, t.post_tail e, fun i hi => by
    rw [t.post_log e, nget_nset_ne _ _ _ _ _ _ (by simpa using hi 0)]⟩

theorem ite {c : Prop} [Decidable c] (ht : Posts k s t) (hu : Posts k s u) : Posts k s (if c then t else u) := by
  split
  · exact ht
  · exact hu

theorem mono (h : Posts k s t) (hk : k ≤ l) : Posts l s t := by
  obtain ⟨hst, j, hj, hlog⟩ := h
  exact ⟨hst, j, Nat.le_trans hj hk, hlog⟩

theorem foldl {α : Type} {f : State → α → State} (h : ∀ t a, Posts l t (f t a)) (as : List α) (hs : Posts k s t) :
    Posts (k + as.length * l) s (as.foldl f t) := by
  induction as generalizing t k with
  | nil => simpa using hs
  | cons a r ih => exact (ih (hs.trans (h t a))).mono (by rw [List.length_cons, Nat.succ_mul]; omega)

/-- An entry stands while fewer than 4,096 follow it. -/
theorem entry_stands {x : List Byte} {n : Nat} (h : Posts k s t) (hk : k < 4096)
    (htail : s.get F.ecuLogTail_seq = (n + 1) % 2 ^ 32) (hx : nget s.log [] (n % 4096) = x) : nget t.log [] (n % 4096) = x := by
  obtain ⟨-, j, hj, -, hlog⟩ := h
  rw [hlog _ fun m hm => ?_, hx]
  rw [htail]
  omega

end Posts

/-! ## Clocks of the next epoch -/

theorem State.yieldOne_eq (s : State) (c cls : Nat) :
    State.yieldOne c s cls = { s with acct := (State.yieldOne c s cls).acct } := by
  unfold State.yieldOne
  dsimp only
  split <;> rfl

@[simp] theorem State.yieldSync_sameMgmt (s : State) : SameMgmt s s.yieldSync := by
  have hone (t : State) (c k : Nat) : SameMgmt t (State.yieldOne c t k) := by
    rw [State.yieldOne_eq]
    exact ⟨rfl, rfl⟩
  simp [State.yieldSync, hone]

theorem State.yieldSync_posts (s : State) : Posts 3 s s.yieldSync := by
  unfold State.yieldSync
  extract_lets now t acct u
  have ht : Posts 3 s t := Posts.foldl (l := 1) (fun t k => .ite (.refl t) (.post (k := 0) (.refl t))) _ (.refl (k := 0) s)
  have hu : Posts 3 s u := .acct ht
  have hone (v : State) (c k : Nat) : Posts 0 v (State.yieldOne c v k) := by
    rw [State.yieldOne_eq]
    exact .acct (.refl v)
  exact .ite (.refl s) (Posts.foldl (l := 0) (fun v c => Posts.foldl (l := 0) (fun w k => hone w c k) _ (.refl v)) _ hu)

theorem State.reclock_posts (s : State) {f : Mgmt → Mgmt} (hf : ∀ m, SameTarget m (f m)) : Posts 3 s (s.reclock f) :=
  (Posts.modM (k := 0) hf (.refl s)).trans (State.yieldSync_posts _)

theorem State.thermalLog_posts (s : State) (f st d : Nat) : Posts 1 s (s.thermalLog f st d) := by
  unfold State.thermalLog
  refine .ite (.refl s) (.post (k := 0) (.modM (fun _ => ?_) (.refl s)))
  exact ⟨rfl, rfl, rfl, rfl⟩

theorem State.shedBegin_posts (s : State) : Posts 3 s s.shedBegin := by
  unfold State.shedBegin
  refine .trans (k := 0) (.modM (fun _ => ?_) (.refl s)) (State.reclock_posts _ Mgmt.shedClocks_sameTarget)
  exact ⟨rfl, rfl, rfl, rfl⟩

theorem State.throtBegin_posts (s : State) : Posts 3 s s.throtBegin := by
  unfold State.throtBegin
  refine .trans (k := 0) (.modM (fun _ => ?_) (.refl s)) (State.reclock_posts _ Mgmt.throtClocks_sameTarget)
  exact ⟨rfl, rfl, rfl, rfl⟩

/-- A latched SHED_N is logged and acted on. -/
theorem State.shedLatched_posts (s : State) :
    Posts 4 s (((s.modM fun m => { m with latchShed := false }).shedLog true).shedBegin) := by
  refine .trans (k := 1) (.post (k := 0) (.modM (fun _ => ?_) (.refl s))) (State.shedBegin_posts _)
  exact ⟨rfl, rfl, rfl, rfl⟩

/-- A latched THROT_N is logged and acted on. -/
theorem State.throtLatched_posts (s : State) :
    Posts 4 s (((s.modM fun m => { m with latchThrot := false }).throtLog true).throtBegin) := by
  refine .trans (k := 1) (.post (k := 0) (.modM (fun _ => ?_) (.refl s))) (State.throtBegin_posts _)
  exact ⟨rfl, rfl, rfl, rfl⟩

/-- At most 8 entries of the facets' caps, 3 of yields as the clocks are set, and 4 each of a latched SHED_N and THROT_N. -/
theorem State.setClocks_posts (s : State) (mean : Nat) : Posts 19 s (s.setClocks mean) := by
  unfold State.setClocks
  extract_lets m cool hot shed ended m1 m2 p top t u w x
  have hm2 : SameTarget m m2 := ⟨rfl, rfl, rfl, rfl⟩
  have ht : Posts 8 s t :=
    Posts.foldl (l := 1) (fun t f => t.thermalLog_posts f _ _) _ (.silent (k := 0) ⟨rfl, rfl, rfl, hm2⟩ rfl rfl)
  have hu : Posts 11 s u := ht.trans (t.reclock_posts fun m => .foldl (fun m f => m.facetClock_sameTarget f _ _ _) _ m)
  have hw : Posts 11 s w := by
    refine .modM (fun _ => ?_) hu
    exact ⟨rfl, rfl, rfl, rfl⟩
  have hx : Posts 15 s x := .ite (hw.trans w.shedLatched_posts) (hw.mono (by decide))
  exact .ite (hx.trans x.throtLatched_posts) (hx.mono (by decide))

theorem State.autoRecal_posts (s : State) : Posts 0 s s.autoRecal := by
  unfold State.autoRecal
  refine .ite (.refl s) (Posts.foldl (l := 0) (fun t d => .ite (.refl t) ?_) _ (.refl s))
  split
  · exact .modM (fun _ => ⟨rfl, rfl, rfl, rfl⟩) (.refl t)
  · exact .refl t

theorem State.logStart_posts (s : State) (b : Bool) : Posts 0 s (s.logStart b) :=
  .ite (.refl s) (.silent ⟨rfl, rfl, rfl, .refl _⟩ rfl rfl)

/-! ## The clamp at a boundary (R519) -/

/-- The pending target clamped to 700 to 2,800 W. -/
def clampTarget (p : Int) : Int := max 700 (min 2800 p)

theorem clampTarget_toNat (p : Int) : ((clampTarget p).toNat : Int) = clampTarget p := by
  unfold clampTarget
  omega

/-- What the settings of a boundary leave in force. -/
structure Clamped (s t : State) : Prop where
  pending : t.mgmt.pending = clampTarget s.mgmt.pending
  target : (t.mgmt.target : Int) = clampTarget s.mgmt.pending
  clamped : t.mgmt.clamped = decide (clampTarget s.mgmt.pending ≠ s.mgmt.pending)
  ticks : t.ticks = s.ticks
  epoch : t.get F.mgtEpoch_epoch = s.get F.mgtEpoch_epoch

theorem Clamped.of_kept {s u v t : State} (h : Clamped u v) (hs : Kept s u) (ht : Kept v t) : Clamped s t := by
  have hp : clampTarget u.mgmt.pending = clampTarget s.mgmt.pending := congrArg clampTarget hs.target.pending
  refine ⟨?_, ?_, ?_, ht.ticks.trans (h.ticks.trans hs.ticks), ht.epoch.trans (h.epoch.trans hs.epoch)⟩
  · exact ht.target.pending.trans (h.pending.trans hp)
  · rw [ht.target.target, h.target, hp]
  · rw [ht.target.clamped, h.clamped, hs.target.pending]

theorem State.applySettings_clamped (s : State) : Clamped s s.applySettings := by
  unfold State.applySettings
  extract_lets c t
  have ht : Clamped s t := ⟨rfl, clampTarget_toNat _, rfl, rfl, rfl⟩
  split
  · exact ht
  · have hpost : Kept t (t.postRim 0xC010 clsN c.toNat none 0) := .post (.refl t)
    exact ht.of_kept (.refl s) hpost

/-- MGT:0x010 with the level that the clamp gave. -/
def clampEvent (p : Int) : Ev := evRim 0xC010 clsN (clampTarget p).toNat none 0

theorem State.applySettings_logs (s : State) (h : clampTarget s.mgmt.pending ≠ s.mgmt.pending) :
    s.applySettings.get F.ecuLogTail_seq = (s.get F.ecuLogTail_seq + 1) % 2 ^ 32 ∧
      nget s.applySettings.log [] (s.get F.ecuLogTail_seq % 4096) =
        (clampEvent s.mgmt.pending).entry (s.get F.ecuLogTail_seq) s.boot s.now := by
  unfold State.applySettings
  extract_lets c t
  have hc : s.mgmt.pending ≠ c := Ne.symm h
  rw [if_neg hc]
  refine ⟨t.post_tail _, ?_⟩
  rw [State.postRim, State.post_log]
  exact nget_nset_same ..

theorem SameTarget.withTjMax {m n : Mgmt} {r : NMap Nat} (h : SameTarget m n) : SameTarget m { n with tjMax := r } :=
  h.trans ⟨rfl, rfl, rfl, rfl⟩

theorem State.thermalCaps_posts (s : State) :
    Posts 0 s (s.modM fun m => { (List.range 8).foldl Mgmt.thermalCap m with tjMax := [] }) :=
  .modM (fun m => .withTjMax (.foldl Mgmt.thermalCap_sameTarget _ m)) (.refl s)

/-- The controller's work falls into what comes before the settings, which keeps the pending target, and what follows them. -/
theorem State.control_settings (s : State) : ∃ u, Kept s u ∧ Posts 19 u.applySettings s.control := by
  refine ⟨s.latchTelemetry.attributeAll.acctLatch,
    s.latchTelemetry_kept.trans ((State.attributeAll_kept _).trans (State.acctLatch_kept _)), ?_⟩
  unfold State.control
  extract_lets mean caps t
  have ht : Posts 0 s.latchTelemetry.attributeAll.acctLatch.applySettings t := State.thermalCaps_posts _
  have hclocks : Posts 19 t (t.setClocks mean).autoRecal := (t.setClocks_posts mean).trans (State.autoRecal_posts _)
  exact .ite (ht.trans hclocks) (ht.mono (by decide))

/-! ## The boundary (R510) -/

/-- The state at the next boundary, with its number in MGT_EPOCH, before anything else is done. -/
def State.atBoundary (s : State) : State := s.toBoundary.set F.mgtEpoch_epoch s.toBoundary.epochNo

theorem State.passUs_sameTarget (s : State) (n : Nat) :
    SameTarget s.mgmt (s.passUs n).mgmt ∧ (s.passUs n).boot = s.boot := by
  unfold State.passUs
  extract_lets u t m spend
  have hu : SameMgmt s u := by simp [u]
  have ht : SameMgmt s t := by simp [t, hu.1, hu.2]
  rw [← ht.1]
  exact ⟨⟨rfl, rfl, rfl, rfl⟩, ht.2⟩

theorem State.toBoundary_sameTarget (s : State) :
    SameTarget s.mgmt s.toBoundary.mgmt ∧ s.toBoundary.boot = s.boot := by
  unfold State.toBoundary
  extract_lets t e m
  obtain ⟨⟨hpending, htarget, hclamped, hresetting⟩, hboot⟩ : SameTarget s.mgmt t.mgmt ∧ t.boot = s.boot :=
    s.passUs_sameTarget _
  clear_value t
  exact ⟨⟨hpending, htarget, hclamped, hresetting⟩, hboot⟩

theorem State.atBoundary_sameTarget (s : State) : SameTarget s.mgmt s.atBoundary.mgmt := by
  rw [State.atBoundary, State.set_mgmt]
  exact s.toBoundary_sameTarget.1

theorem State.atBoundary_boot (s : State) : s.atBoundary.boot = s.boot := by
  rw [State.atBoundary, State.set_boot]
  exact s.toBoundary_sameTarget.2

theorem State.atBoundary_ticks (s : State) : s.atBoundary.ticks = (s.ticks / 25000 + 1) * 25000 := rfl

theorem State.atBoundary_epoch (s : State) : s.atBoundary.get F.mgtEpoch_epoch = (s.ticks / 25000 + 1) % 2 ^ 64 := by
  have hno : s.toBoundary.epochNo = s.ticks / 25000 + 1 := Nat.mul_div_left _ (by decide)
  rw [State.atBoundary, State.get_set_same, hno]
  rfl

/-- The work of a boundary falls into what keeps the pending target, the settings, and at most 19 entries after them. -/
theorem State.boundary_settings (s : State) (r : EpochReadings) (hrun : s.mgmt.resetting = false)
    (hr : ∀ x ∈ r.laser, 1300 ≤ signed 16 x.toNat) :
    ∃ u, Kept s.atBoundary u ∧ Posts 19 u.applySettings (s.boundary r) := by
  unfold State.boundary
  extract_lets t0 t1 t2 t3
  have ht2 : Kept t1 t2 := t1.postCounts_kept.trans (((State.sensors_kept _ r hr).trans (State.ageAtt_kept _)).trans
    (State.holdEnergy_kept _ r))
  have hrun2 : t2.mgmt.resetting = false := by
    rw [ht2.target.resetting, ← hrun]
    exact s.atBoundary_sameTarget.resetting
  have ht3 : t3 = t2.control := by simp [t3, hrun2]
  obtain ⟨u, hu, hposts⟩ := t2.control_settings
  rw [← ht3] at hposts
  exact ⟨u, ht2.trans hu, .ite (hposts.trans (t3.logStart_posts false)) hposts⟩

/-- After the settings the boundary changes nothing of what they left in force, and their entry stands in the ring. -/
theorem State.boundary_clamped (s : State) (r : EpochReadings) (hrun : s.mgmt.resetting = false)
    (hr : ∀ x ∈ r.laser, 1300 ≤ signed 16 x.toNat) :
    Clamped s.atBoundary (s.boundary r) ∧ (clampTarget s.mgmt.pending ≠ s.mgmt.pending →
      ∃ n, nget (s.boundary r).log [] (n % 4096) = (clampEvent s.mgmt.pending).entry n s.boot (s.boundary r).now) := by
  obtain ⟨u, hu, hposts⟩ := s.boundary_settings r hrun hr
  have hend : Clamped s.atBoundary (s.boundary r) := u.applySettings_clamped.of_kept hu hposts.1
  refine ⟨hend, fun hne => ?_⟩
  have hp : u.mgmt.pending = s.mgmt.pending := hu.target.pending.trans s.atBoundary_sameTarget.pending
  obtain ⟨htail, hentry⟩ := u.applySettings_logs (hp.symm ▸ hne)
  have hnow : u.now = (s.boundary r).now := by
    rw [State.now, State.now, hend.ticks, hu.ticks]
  refine ⟨u.get F.ecuLogTail_seq, hposts.entry_stands (by decide) htail ?_⟩
  rw [hentry, hp, hu.boot, s.atBoundary_boot, hnow]

/-! ## Writes of MGT_PWR_SET -/

section PwrSet

variable (s : State) (o : Orig) (v : Lane)

/-- MGT_PWR_SET reads back what was written, whatever the operation. -/
theorem State.pwrSet_regs :
    (s.pwrSet o v).regs = ((s.set F.mgtPwrSet_op (vbits v 31 30)).set F.mgtPwrSet_value (vbits v 15 0)).regs := by
  simp only [State.pwrSet]
  split <;> rfl

theorem State.pwrSet_keepsRegs : KeepsRegs [F.mgtPwrSet_op, F.mgtPwrSet_value] s (s.pwrSet o v) := by
  intro k d hk
  have hop : k ≠ F.mgtPwrSet_op.key := (hk _ (by simp)).symm
  have hvalue : k ≠ F.mgtPwrSet_value.key := (hk _ (by simp)).symm
  rw [State.pwrSet_regs, State.set_regs, nget_nset_ne _ _ _ _ _ _ hvalue, State.set_regs, nget_nset_ne _ _ _ _ _ _ hop]

theorem State.pwrSet_eq : s.pwrSet o v = { s with regs := (s.pwrSet o v).regs, mgmt := (s.pwrSet o v).mgmt } := by
  simp only [State.pwrSet]
  split <;> rfl

theorem State.pwrSet_mgmt_absolute (h : vbits v 31 30 = 1) :
    (s.pwrSet o v).mgmt = { s.mgmt with pending := (vbits v 15 0 : Nat), source := targetSource o } := by
  simp [State.pwrSet, h]

theorem State.pwrSet_mgmt_relative (h : vbits v 31 30 = 2) :
    (s.pwrSet o v).mgmt =
      { s.mgmt with pending := s.mgmt.pending + signed 16 (vbits v 15 0), source := targetSource o } := by
  simp [State.pwrSet, h]

end PwrSet

/-- Settles O56: a write of MGT_PWR_SET acts on the pending target alone; at a boundary nothing before the settings changes it,
and what follows them changes neither the level in force nor, with its at most 19 entries, the entry of the clamp. -/
theorem pendingTarget : Obligations.PendingTarget := by
  intro s o v r
  refine ⟨fun ho hop => ⟨s.pwrSet o v, ?_, ?_⟩, fun ho hop => ⟨s.pwrSet o v, ?_, ?_⟩,
    fun hrun hr => ⟨s.boundary r, rfl, ?_⟩⟩
  · exact congrArg Host.Outcome.next (s.guard_pf o _ _ _ ho)
  · exact ⟨s.pwrSet_mgmt_absolute o v hop, s.pwrSet_keepsRegs o v, s.pwrSet_eq o v⟩
  · exact congrArg Host.Outcome.next (s.guard_pf o _ _ _ ho)
  · exact ⟨s.pwrSet_mgmt_relative o v hop, s.pwrSet_keepsRegs o v, s.pwrSet_eq o v⟩
  · obtain ⟨⟨hpending, htarget, hclamped, hticks, hepoch⟩, hlog⟩ := s.boundary_clamped r hrun hr
    rw [s.atBoundary_sameTarget.pending] at hpending htarget hclamped
    refine ⟨hpending, htarget, hclamped, fun hne => ?_, hticks.trans s.atBoundary_ticks, hepoch.trans s.atBoundary_epoch⟩
    obtain ⟨n, hentry⟩ := hlog hne
    exact ⟨clampEvent s.mgmt.pending, n, rfl, rfl, clampTarget_toNat _, hentry⟩

end Sys2Proof.Machine
